-- ==== Sys2Proof/Word.lean ====
section
/-! DEFINITION. The word types of the GN8 and their plainest arithmetic (R2, R3, R5, R8).
Only plain type names and the exact conversions between patterns and integers stand here;
every helper a rule could change the reading of is in Sys2Proof/Machine/. -/

namespace Sys2Proof

/-- A byte (R3). -/
abbrev Byte := BitVec 8

/-- A parcel or a 32-bit register (R50, R97). -/
abbrev Word := BitVec 32

/-- A 64-bit value: an aligned register pair, an address (R51). -/
abbrev DWord := BitVec 64

/-- A sparse table: the entries that differ from what an unlisted key stands for. -/
abbrev SMap (α : Type) := List (Nat × α)

end Sys2Proof
end

