-- ==== Sys2Proof/Config.lean ====
section
/-! DEFINITION. What the spec leaves to an implementation: free values with no body, so that no proof can rest on
one of them. Each is named in the assumption log. -/

namespace Sys2Proof.Config

/-- The special-function unit's own result for operation `op` on `x` (R344, R352, R375, R394): 0 RCP, 1 RSQ, 2 SQRT,
3 EX2, 4 LG2, 5 SIN, 6 COS. The machine takes it only where it keeps the bound of the rule. -/
opaque sfu : Nat → Word → Word

/-- The order in which partial floating-point results are combined, fresh for each use (R94). -/
opaque combinePick : Nat → Nat

/-- The fixed hash of physical address bits 41:7 that chooses a line's slice of its island (R144). -/
opaque l2Hash : Nat → Nat

/-- Link-credit bytes a slot's next hop holds beyond the 65,536 that every term can hold (R289). -/
opaque linkExtra : Nat → Nat

/-- The signature that the device identity key of a die makes over a quote's first bytes (R313). -/
opaque quoteSignature : Nat → List Byte → List Byte

/-- SHAKE256 to a length in bytes (R312, R313). -/
opaque shake256 : Nat → List Byte → List Byte

/-- A Falcon-1024 signature over a digest verifies under a public key (R312): key, digest, signature. -/
opaque falconVerifies : List Byte → List Byte → List Byte → Bool

/-- The physical address of a die's verified firmware image (R13, R312). -/
opaque firmwareBase : Nat → Nat

/-- The FADDR index of a DOMAIN fault whose resource has no class in R244 (a convergence register inside a gate, R254). -/
opaque gateConvIndex : Nat → Nat

/-- The cause that a poison mark restored from a save area records: the area does not carry it (R57, R68). -/
opaque savedPoison : Nat → Nat

/-- A value the spec leaves open, fresh for each use. -/
opaque freeValue : Nat → Nat

end Sys2Proof.Config
end

