-- ==== Sys2Proof/Syntax.lean ====
section
/-! DEFINITION. The instructions: the operand structures of the eleven formats (R109 to R116)
and `Instr`, one constructor for each row of the opcode table. A row that is an event of the
machine carries what the world chooses when it happens (which die, which entry of a queue). -/

namespace Sys2Proof

/-- The guard of the first parcel (R105, R106): bit 14 negates, bits 13:11 select the predicate. -/
structure Guard where
  neg : Bool
  p : BitVec 3
deriving DecidableEq, Repr

/-- A source field (R107): the wait bit W over the register number. -/
structure Src where
  w : Bool
  r : BitVec 8
deriving DecidableEq, Repr

/-- Format N (R109): no operand. Bits 31:15 are reserved. -/
structure OpN where
  g : Guard
  rsv : BitVec 17
deriving DecidableEq, Repr

/-- Format U (R109): one destination and one vector source. -/
structure OpU where
  g : Guard
  d : BitVec 8
  a : Src
deriving DecidableEq, Repr

/-- Format P (R109): predicate logic. -/
structure OpP where
  g : Guard
  pd : BitVec 3
  pa : BitVec 3
  pb : BitVec 3
  lut : BitVec 8
deriving DecidableEq, Repr

/-- Formats T and I (R110): `lit` is none in format T and the literal parcel in format I. -/
structure OpT where
  g : Guard
  d : BitVec 8
  a : Src
  b : Src
  c : BitVec 9
  ty : BitVec 4
  rnd : BitVec 3
  sat : Bool
  ua : Bool
  ub : Bool
  uc : Bool
  du : Bool
  rsv : BitVec 2
  lit : Option (BitVec 32)
deriving DecidableEq, Repr

/-- Formats M and ML (R112): `off32` is none in format M and the offset parcel in format ML. -/
structure OpM where
  g : Guard
  d : BitVec 8
  a : Src
  b : Src
  ty : BitVec 4
  raw : Bool
  space : BitVec 2
  scope : BitVec 3
  ord : BitVec 2
  size : BitVec 3
  ua : Bool
  ub : Bool
  off : BitVec 6
  off32 : Option (BitVec 32)
deriving DecidableEq, Repr

/-- Format J (R113): a transfer target. -/
structure OpJ where
  g : Guard
  d : BitVec 8
  a : Src
  disp : BitVec 32
deriving DecidableEq, Repr

/-- Format S (R114): a control or status register. -/
structure OpS where
  g : Guard
  d : BitVec 8
  a : Src
  csrn : BitVec 10
  du : Bool
  ua : Bool
  rsv : BitVec 20
deriving DecidableEq, Repr

/-- Format X (R115): the matrix unit and tile transfers. -/
structure OpX where
  g : Guard
  cv : BitVec 4
  t1 : BitVec 4
  t2 : BitVec 4
  ac : BitVec 3
  rsv1 : BitVec 2
  fa : BitVec 4
  fb : BitVec 4
  md : BitVec 8
  b : Src
  ub : Bool
  rsv2 : BitVec 6
deriving DecidableEq, Repr

/-- Format G (R116): RGN's register span. -/
structure OpG where
  g : Guard
  base : BitVec 8
  rsv : BitVec 9
  mask : BitVec 32
deriving DecidableEq, Repr

/-- What a failed decode check reports (R118, R119): the field code, the parcel and the field's lowest
bit; `priv` is the supervisor-only check 7, which raises PRIVILEGE. -/
inductive DecodeError where
  | illegal (field parcel bit : Nat)
  | priv
deriving DecidableEq, Repr

/-- The requests an L1 sends to a home slice (R148): read, read-exclusive, upgrade, and the three evictions. -/
inductive ReqKind where
  | gets | getx | upg | putm | puto | pute
deriving DecidableEq, Repr

/-- An uncorrectable soft error in core state: where it strikes (R57, R103, R205). -/
inductive SoftError where
  /-- a vector register of a fibre -/
  | vreg (u slot fibre r : Nat)
  /-- a uniform register of a group -/
  | ureg (u slot r : Nat)
  /-- a tile row of a group, met by the operation that reads it -/
  | tile (u slot t : Nat)
  /-- an accumulator row of a group, met by the operation that reads it -/
  | acc (u slot a : Nat)
deriving DecidableEq, Repr

/-- A fabric packet's clear fields (R293). The GCM tag is checked before a packet is read (R303):
`tagOk` says whether it holds. -/
structure Packet where
  type : Nat
  srcPkg : Nat
  srcDie : Nat
  srcCore : Nat
  dstPkg : Nat
  dstDie : Nat
  course : Nat
  epoch : Nat
  gen : Nat
  count : Nat
  keyId : Nat
  atag : Nat
  addr : Nat
  /-- bytes of the payload with their offset from `addr` (MASK and DATA) -/
  data : List (Nat × Byte)
  /-- operation, element type code and size of an atomic; size of a load; domain of an allocation -/
  op : Nat
  ty : Nat
  size : Nat
  tagOk : Bool
  /-- a RED of a slot with SWR = 1, which switches may combine, and the contributions of a combined packet: course, epoch,
  generation and the packets combined for it (R304) -/
  swr : Bool := false
  shares : List (Nat × Nat × Nat × Nat) := []
deriving DecidableEq, Repr

/-- Every step of the part, one constructor for each row of the opcode table: first the 167
instructions of the opcode map (R123), each with the fields of its format, then the 118 events
that the machine and the world around it bring about. -/
inductive Instr where
  /-- NOP (R389), opcode 0x000. No effect in any lane. -/
  | nop (o : OpN)
  /-- BKPT (R336), opcode 0x001. Raises BREAKPOINT to service when any lane is active. -/
  | bkpt (o : OpN)
  /-- TRAP (R413), opcode 0x002. Raises USER_TRAP with the code and sends a service record. -/
  | trap (o : OpU)
  /-- SYSCALL (R413), opcode 0x003. Raises SYSCALL with the code and sends a service record charged to the domain. -/
  | syscall (o : OpU)
  /-- BRA (R337), opcode 0x004. Every active lane transfers to PC plus the displacement. -/
  | bra (o : OpJ)
  /-- BRX (R339), opcode 0x005. Each active lane transfers to its own 64-bit target from a register pair. -/
  | brx (o : OpU)
  /-- CALL (R340), opcode 0x006. Writes the return address to v0:v1 and transfers to the target. -/
  | call (o : OpJ)
  /-- RET (R399), opcode 0x007. Transfers to the address held in v0:v1. -/
  | ret (o : OpN)
  /-- ERET (R351), opcode 0x008. Leaves the save routine or returns to FPC in user mode. -/
  | eret (o : OpN)
  /-- EXIT (R353), opcode 0x009. Ends the fibre after the convergence check, writing the frame STATE. -/
  | exit (o : OpN)
  /-- SPAWN (R406), opcode 0x00A. Creates new fibres in free slots at the label and returns their identifiers. -/
  | spawn (o : OpJ)
  /-- YIELD (R389), opcode 0x00B. Ranks the sheaf behind the domain's other ready sheaves for 16 opportunities. -/
  | yield (o : OpN)
  /-- BCOL (R335), opcode 0x00C. Branches when the slot's allowance is below the lane's threshold. -/
  | bcol (o : OpJ)
  /-- COLRD (R343), opcode 0x00D. Reads COLn of a slot into a register at fixed latency. -/
  | colrd (o : OpT)
  /-- MFSR (R378), opcode 0x00E. Reads a control or status register into a register. -/
  | mfsr (o : OpS)
  /-- MTSR (R379), opcode 0x00F. Writes a control or status register with the register-specific effects. -/
  | mtsr (o : OpS)
  /-- BAR.grp (R333), opcode 0x010. Release at .core, arrive at the group barrier, wait and acquire. -/
  | barGrp (o : OpN)
  /-- BAR.gang (R333), opcode 0x011. Release at .pkg, arrive at the gang barrier, wait and acquire. -/
  | barGang (o : OpN)
  /-- SIGN.init (R405), opcode 0x012. Sets the expected count E of a convergence register when S is zero. -/
  | signInit (o : OpT)
  /-- SIGN.arv (R405), opcode 0x013. Signs a convergence register and continues. -/
  | signArv (o : OpT)
  /-- SIGN.wait (R405), opcode 0x014. Signs a convergence register and blocks until the set completes. -/
  | signWait (o : OpT)
  /-- RGN (R400), opcode 0x015. Writes the fibre's region frame with live-ins and restart address. -/
  | rgn (o : OpG)
  /-- GCALL (R253), opcode 0x016. Enters a call gate into the target domain with arguments. -/
  | gcall (o : OpT)
  /-- GRET (R255), opcode 0x017. Returns result registers from a call gate and restores the caller's domain. -/
  | gret (o : OpN)
  /-- MIGR (R380), opcode 0x018. Fibre arrives at a group migration toward the home of its address. -/
  | migr (o : OpM)
  /-- PLOP (R393), opcode 0x019. Writes a predicate from a truth table of two predicates and the old value. -/
  | plop (o : OpP)
  /-- MOV (R382), opcode 0x01A. Copies a vector register to another. -/
  | mov (o : OpU)
  /-- MOVI (R383), opcode 0x01B. Writes a literal to a vector or uniform register. -/
  | movi (o : OpT)
  /-- SEL (R404), opcode 0x01C. Selects one of two sources by a predicate. -/
  | sel (o : OpT)
  /-- DCINIT (R346), opcode 0x020. Sets a dependence counter's count and clears its sticky bits and record. -/
  | dcinit (o : OpT)
  /-- DCADD (R346), opcode 0x021. Release at .pkg, then adds a signed delta to a dependence counter. -/
  | dcadd (o : OpT)
  /-- DCWAIT (R346), opcode 0x022. Waits until a dependence counter is zero, then acquires at .pkg. -/
  | dcwait (o : OpT)
  /-- TENQ (R414), opcode 0x023. Checks task descriptors and enqueues tasks or work items. -/
  | tenq (o : OpT)
  /-- TDEQ (R416), opcode 0x024. Takes the oldest ready work item of a queue or returns status 1. -/
  | tdeq (o : OpT)
  /-- TDONE (R417), opcode 0x025. Release at .pkg; the first TDONE moves the task to DRAINING. -/
  | tdone (o : OpN)
  /-- CBACQ (R341), opcode 0x026. Acquires the next filled slot of a circular buffer, waiting while none is filled. -/
  | cbacq (o : OpT)
  /-- CBREL (R341), opcode 0x027. Releases acquired slots of a circular buffer back to FREE. -/
  | cbrel (o : OpT)
  /-- MSEND (R384), opcode 0x028. Release at .pkg, then sends a 64-byte Satus message. -/
  | msend (o : OpT)
  /-- MRECV (R385), opcode 0x029. Takes the next Satus message or service record into 16 registers. -/
  | mrecv (o : OpT)
  /-- TINV (R418), opcode 0x02A. Invalidates translation cache entries of the issuing die by selector. -/
  | tinv (o : OpM)
  /-- LPIN (R376), opcode 0x02B. Pins a line in its home L2 slice. -/
  | lpin (o : OpM)
  /-- LUNPIN (R376), opcode 0x02C. Decrements a line's pin count. -/
  | lunpin (o : OpM)
  /-- CFLUSH (R342), opcode 0x02D. Writes back and invalidates a line and waits until the stack holds it. -/
  | cflush (o : OpM)
  /-- CINV (R342), opcode 0x02E. Invalidates a fetch line in the die's instruction caches. -/
  | cinv (o : OpM)
  /-- ADD (R324), opcode 0x040. Integer addition, wrapping or saturating. -/
  | add (o : OpT)
  /-- SUB (R386), opcode 0x041. Integer subtraction, wrapping or saturating. -/
  | sub (o : OpT)
  /-- MUL (R367), opcode 0x042. Integer multiplication, low bits. -/
  | mul (o : OpT)
  /-- MULHI (R367), opcode 0x043. Upper w bits of the integer product. -/
  | mulhi (o : OpT)
  /-- MAD (R367), opcode 0x044. Integer multiply-add. -/
  | mad (o : OpT)
  /-- ABS (R323), opcode 0x045. Integer absolute value. -/
  | abs (o : OpT)
  /-- NEG (R386), opcode 0x046. Integer negation. -/
  | neg (o : OpT)
  /-- MIN (R367), opcode 0x047. Integer minimum. -/
  | min (o : OpT)
  /-- MAX (R367), opcode 0x048. Integer maximum. -/
  | max (o : OpT)
  /-- AND (R325), opcode 0x049. Bitwise AND. -/
  | and (o : OpT)
  /-- OR (R386), opcode 0x04A. Bitwise OR. -/
  | or (o : OpT)
  /-- XOR (R386), opcode 0x04B. Bitwise XOR. -/
  | xor (o : OpT)
  /-- NOT (R388), opcode 0x04C. Bitwise complement of a 32-bit register. -/
  | not (o : OpU)
  /-- SHL (R387), opcode 0x04D. Shift left by an unreduced count. -/
  | shl (o : OpT)
  /-- SHR (R387), opcode 0x04E. Logical shift right. -/
  | shr (o : OpT)
  /-- SHRA (R387), opcode 0x04F. Arithmetic shift right. -/
  | shra (o : OpT)
  /-- ROT (R387), opcode 0x050. Rotate left by count modulo the width. -/
  | rot (o : OpT)
  /-- BFI (R326), opcode 0x051. Inserts a bit field. -/
  | bfi (o : OpT)
  /-- BFX (R326), opcode 0x052. Extracts a bit field. -/
  | bfx (o : OpT)
  /-- BREV (R338), opcode 0x053. Reverses the bits of a 32-bit register. -/
  | brev (o : OpU)
  /-- CLZ (R338), opcode 0x054. Counts leading zero bits. -/
  | clz (o : OpU)
  /-- POPC (R388), opcode 0x055. Counts set bits. -/
  | popc (o : OpU)
  /-- LEA (R367), opcode 0x056. Computes a + b shifted by k. -/
  | lea (o : OpT)
  /-- IDP4 (R367), opcode 0x057. Four-way byte dot product plus addend. -/
  | idp4 (o : OpT)
  /-- CMP.eq (R327), opcode 0x058. Integer compare equal into a predicate. -/
  | cmpEq (o : OpT)
  /-- CMP.ne (R327), opcode 0x059. Integer compare not equal into a predicate. -/
  | cmpNe (o : OpT)
  /-- CMP.lt (R327), opcode 0x05A. Integer compare less than into a predicate. -/
  | cmpLt (o : OpT)
  /-- CMP.le (R327), opcode 0x05B. Integer compare less or equal into a predicate. -/
  | cmpLe (o : OpT)
  /-- CMP.gt (R327), opcode 0x05C. Integer compare greater than into a predicate. -/
  | cmpGt (o : OpT)
  /-- CMP.ge (R327), opcode 0x05D. Integer compare greater or equal into a predicate. -/
  | cmpGe (o : OpT)
  /-- FADD (R356), opcode 0x080. Floating-point addition with rounding. -/
  | fadd (o : OpT)
  /-- FSUB (R356), opcode 0x081. Floating-point subtraction with rounding. -/
  | fsub (o : OpT)
  /-- FMUL (R356), opcode 0x082. Floating-point multiplication with rounding. -/
  | fmul (o : OpT)
  /-- FFMA (R356), opcode 0x083. Fused multiply-add rounded once. -/
  | ffma (o : OpT)
  /-- FMIN (R358), opcode 0x084. Floating-point minimum. -/
  | fmin (o : OpT)
  /-- FMAX (R358), opcode 0x085. Floating-point maximum. -/
  | fmax (o : OpT)
  /-- FCVT (R361), opcode 0x086. Converts among 32/64-bit integer and FP32/BF16/FP16 types. -/
  | fcvt (o : OpT)
  /-- FRND (R365), opcode 0x087. Rounds to an integral value in the source format. -/
  | frnd (o : OpT)
  /-- FCMP.eq (R359), opcode 0x088. Floating compare equal into a predicate. -/
  | fcmpEq (o : OpT)
  /-- FCMP.ne (R359), opcode 0x089. Floating compare not equal into a predicate. -/
  | fcmpNe (o : OpT)
  /-- FCMP.lt (R359), opcode 0x08A. Floating compare less than into a predicate. -/
  | fcmpLt (o : OpT)
  /-- FCMP.le (R359), opcode 0x08B. Floating compare less or equal into a predicate. -/
  | fcmpLe (o : OpT)
  /-- FCMP.gt (R359), opcode 0x08C. Floating compare greater than into a predicate. -/
  | fcmpGt (o : OpT)
  /-- FCMP.ge (R359), opcode 0x08D. Floating compare greater or equal into a predicate. -/
  | fcmpGe (o : OpT)
  /-- FCMP.un (R359), opcode 0x08E. Floating compare unordered into a predicate. -/
  | fcmpUn (o : OpT)
  /-- FCMP.ord (R359), opcode 0x08F. Floating compare ordered into a predicate. -/
  | fcmpOrd (o : OpT)
  /-- PACK (R391), opcode 0x090. Rounds FP32 registers into packed narrow-format codes. -/
  | pack (o : OpT)
  /-- UNPACK (R392), opcode 0x091. Widens packed narrow-format codes to FP32 registers. -/
  | unpack (o : OpT)
  /-- RCP (R394), opcode 0x092. Special-function reciprocal. -/
  | rcp (o : OpT)
  /-- RSQ (R394), opcode 0x093. Special-function reciprocal square root. -/
  | rsq (o : OpT)
  /-- SQRT (R394), opcode 0x094. Special-function square root. -/
  | sqrt (o : OpT)
  /-- EX2 (R352), opcode 0x095. Special-function base-2 exponential. -/
  | ex2 (o : OpT)
  /-- LG2 (R375), opcode 0x096. Special-function base-2 logarithm. -/
  | lg2 (o : OpT)
  /-- SIN (R394), opcode 0x097. Special-function sine. -/
  | sin (o : OpT)
  /-- COS (R344), opcode 0x098. Special-function cosine. -/
  | cos (o : OpT)
  /-- SHFL.idx (R398), opcode 0x0A0. Signs a set and takes the value of the indexed rank. -/
  | shflIdx (o : OpT)
  /-- SHFL.up (R398), opcode 0x0A1. Signs a set and takes the value of rank k minus s. -/
  | shflUp (o : OpT)
  /-- SHFL.down (R398), opcode 0x0A2. Signs a set and takes the value of rank k plus s. -/
  | shflDown (o : OpT)
  /-- SHFL.xor (R398), opcode 0x0A3. Signs a set and takes the value of rank k XOR s. -/
  | shflXor (o : OpT)
  /-- VOTE.any (R398), opcode 0x0A4. Signs a set and writes whether any member's predicate holds. -/
  | voteAny (o : OpT)
  /-- VOTE.all (R398), opcode 0x0A5. Signs a set and writes whether every member's predicate holds. -/
  | voteAll (o : OpT)
  /-- VOTE.ballot (R398), opcode 0x0A6. Signs a set and writes the mask of members whose predicate holds. -/
  | voteBallot (o : OpT)
  /-- REDUX.add (R398), opcode 0x0A8. Set-wide sum. -/
  | reduxAdd (o : OpT)
  /-- REDUX.min (R398), opcode 0x0A9. Set-wide minimum. -/
  | reduxMin (o : OpT)
  /-- REDUX.max (R398), opcode 0x0AA. Set-wide maximum. -/
  | reduxMax (o : OpT)
  /-- REDUX.and (R398), opcode 0x0AB. Set-wide AND. -/
  | reduxAnd (o : OpT)
  /-- REDUX.or (R398), opcode 0x0AC. Set-wide OR. -/
  | reduxOr (o : OpT)
  /-- REDUX.xor (R398), opcode 0x0AD. Set-wide XOR. -/
  | reduxXor (o : OpT)
  /-- SCAN.add (R398), opcode 0x0B0. Set-wide prefix sum. -/
  | scanAdd (o : OpT)
  /-- SCAN.min (R398), opcode 0x0B1. Set-wide prefix minimum. -/
  | scanMin (o : OpT)
  /-- SCAN.max (R398), opcode 0x0B2. Set-wide prefix maximum. -/
  | scanMax (o : OpT)
  /-- SCAN.and (R398), opcode 0x0B3. Set-wide prefix AND. -/
  | scanAnd (o : OpT)
  /-- SCAN.or (R398), opcode 0x0B4. Set-wide prefix OR. -/
  | scanOr (o : OpT)
  /-- SCAN.xor (R398), opcode 0x0B5. Set-wide prefix XOR. -/
  | scanXor (o : OpT)
  /-- LD (R372), opcode 0x0C0. Loads typeless bytes or typed decoded elements from a space. -/
  | ld (o : OpM)
  /-- ST (R408), opcode 0x0C1. Stores bytes or typed codes to a space. -/
  | st (o : OpM)
  /-- STM (R412), opcode 0x0C2. Stores to a replicated page through the primary home to every replica. -/
  | stm (o : OpM)
  /-- FENCE (R363), opcode 0x0C3. Performs a release, acquire or both at a scope. -/
  | fence (o : OpM)
  /-- CPY (R208), opcode 0x0C4. Checks and registers asynchronous lane copies with range locks. -/
  | cpy (o : OpM)
  /-- CPY.cb (R212), opcode 0x0C5. Registers copies into a circular buffer, claiming slots in the engine. -/
  | cpyCb (o : OpM)
  /-- RIDGE (R402), opcode 0x0C6. Release at .pkg, then sends a ridge flag closing the slot's epoch. -/
  | ridge (o : OpM)
  /-- ATOM.add (R330), opcode 0x0C8. Atomic add returning the old value. -/
  | atomAdd (o : OpM)
  /-- ATOM.min (R330), opcode 0x0C9. Atomic minimum returning the old value. -/
  | atomMin (o : OpM)
  /-- ATOM.max (R330), opcode 0x0CA. Atomic maximum returning the old value. -/
  | atomMax (o : OpM)
  /-- ATOM.and (R330), opcode 0x0CB. Atomic AND returning the old value. -/
  | atomAnd (o : OpM)
  /-- ATOM.or (R330), opcode 0x0CC. Atomic OR returning the old value. -/
  | atomOr (o : OpM)
  /-- ATOM.xor (R330), opcode 0x0CD. Atomic XOR returning the old value. -/
  | atomXor (o : OpM)
  /-- ATOM.exch (R330), opcode 0x0CE. Atomic exchange. -/
  | atomExch (o : OpM)
  /-- ATOM.cas (R330), opcode 0x0CF. Atomic compare and swap. -/
  | atomCas (o : OpM)
  /-- RED.add (R395), opcode 0x0D0. Atomic add without a returned value. -/
  | redAdd (o : OpM)
  /-- RED.min (R395), opcode 0x0D1. Atomic minimum without a returned value. -/
  | redMin (o : OpM)
  /-- RED.max (R395), opcode 0x0D2. Atomic maximum without a returned value. -/
  | redMax (o : OpM)
  /-- RED.and (R395), opcode 0x0D3. Atomic AND without a returned value. -/
  | redAnd (o : OpM)
  /-- RED.or (R395), opcode 0x0D4. Atomic OR without a returned value. -/
  | redOr (o : OpM)
  /-- RED.xor (R395), opcode 0x0D5. Atomic XOR without a returned value. -/
  | redXor (o : OpM)
  /-- DSOP.add (R349), opcode 0x0D8. Vector add at a DSM bank. -/
  | dsopAdd (o : OpM)
  /-- DSOP.min (R349), opcode 0x0D9. Vector minimum at a DSM bank. -/
  | dsopMin (o : OpM)
  /-- DSOP.max (R349), opcode 0x0DA. Vector maximum at a DSM bank. -/
  | dsopMax (o : OpM)
  /-- DSOP.and (R349), opcode 0x0DB. Vector AND at a DSM bank. -/
  | dsopAnd (o : OpM)
  /-- DSOP.or (R349), opcode 0x0DC. Vector OR at a DSM bank. -/
  | dsopOr (o : OpM)
  /-- DSOP.xor (R349), opcode 0x0DD. Vector XOR at a DSM bank. -/
  | dsopXor (o : OpM)
  /-- DSOP.fma (R349), opcode 0x0DE. Vector a := a*x + y at a DSM bank. -/
  | dsopFma (o : OpM)
  /-- DSRED.add (R349), opcode 0x0E0. Reduction add at a DSM bank. -/
  | dsredAdd (o : OpM)
  /-- DSRED.min (R349), opcode 0x0E1. Reduction minimum at a DSM bank. -/
  | dsredMin (o : OpM)
  /-- DSRED.max (R349), opcode 0x0E2. Reduction maximum at a DSM bank. -/
  | dsredMax (o : OpM)
  /-- DSRED.and (R349), opcode 0x0E3. Reduction AND at a DSM bank. -/
  | dsredAnd (o : OpM)
  /-- DSRED.or (R349), opcode 0x0E4. Reduction OR at a DSM bank. -/
  | dsredOr (o : OpM)
  /-- DSRED.xor (R349), opcode 0x0E5. Reduction XOR at a DSM bank. -/
  | dsredXor (o : OpM)
  /-- DSRED.add.ret (R349), opcode 0x0E8. Reduction add at a DSM bank returning the old value. -/
  | dsredAddRet (o : OpM)
  /-- DSRED.min.ret (R349), opcode 0x0E9. Reduction minimum at a DSM bank returning the old value. -/
  | dsredMinRet (o : OpM)
  /-- DSRED.max.ret (R349), opcode 0x0EA. Reduction maximum at a DSM bank returning the old value. -/
  | dsredMaxRet (o : OpM)
  /-- DSRED.and.ret (R349), opcode 0x0EB. Reduction AND at a DSM bank returning the old value. -/
  | dsredAndRet (o : OpM)
  /-- DSRED.or.ret (R349), opcode 0x0EC. Reduction OR at a DSM bank returning the old value. -/
  | dsredOrRet (o : OpM)
  /-- DSRED.xor.ret (R349), opcode 0x0ED. Reduction XOR at a DSM bank returning the old value. -/
  | dsredXorRet (o : OpM)
  /-- MMA (R381), opcode 0x0F0. Signs a set and queues a matrix product into an accumulator. -/
  | mma (o : OpX)
  /-- ADRAIN (R328), opcode 0x0F1. Signs a set and queues an accumulator drain to a tile or scratchpad. -/
  | adrain (o : OpX)
  /-- ADRAIN.byp (R199), opcode 0x0F2. Drain to a tile whose rows feed the next MMA directly. -/
  | adrainByp (o : OpX)
  /-- AZERO (R332), opcode 0x0F3. Signs a set and queues zeroing of an accumulator with a format. -/
  | azero (o : OpX)
  /-- TLD (R421), opcode 0x0F4. Signs a set and loads a tile through the copy engine. -/
  | tld (o : OpX)
  /-- TST (R422), opcode 0x0F5. Signs a set and stores a tile through the copy engine, members waiting. -/
  | tst (o : OpX)
  /-- TXP (R424), opcode 0x0F6. Queues a transpose of a tile into an accumulator. -/
  | txp (o : OpX)
  /-- TPERM (R424), opcode 0x0F7. Queues a row permutation of a tile into an accumulator. -/
  | tperm (o : OpX)
  /-- TRRED (R424), opcode 0x0F8. Queues a row reduction of a tile into an accumulator column. -/
  | trred (o : OpX)
  /-- Event ILLEGAL_ENCODING (R118). An encoding that fails a decode check raises ILLEGAL or PRIVILEGE without other effect. -/
  | illegalEncoding (err : DecodeError)
  /-- Event LINE_FILL (R103). A fetch line arrives and its parity is checked, refetched or machine-checked. -/
  | lineFill (u : Nat) (line : Nat) (x1 : List Word) (x2 : List Word)
  /-- Event LONG_LATENCY_RETURN (R55). A long-latency producer writes or poisons its destination. -/
  | longLatencyReturn (u : Nat) (idx : Nat) (ecc : Bool)
  /-- Event WAIT_RESUME (R47). A waiting fibre becomes ready when its condition is met. -/
  | waitResume (u : Nat) (slot : Nat) (fibre : Nat)
  /-- Event ISSUE_OPPORTUNITY (R233). An issue slot chooses a sheaf by deadline or weighted credit. -/
  | issueOpportunity (u : Nat) (gather : List Nat)
  /-- Event COLWAIT_RESUME (R232). A group in COLWAIT resumes and issues its store when allowance suffices. -/
  | colwaitResume (u : Nat) (slot : Nat)
  /-- Event DROWSY_ENTRY (R59). Granules of a group in col wait for 64 clocks enter drowsy retention. -/
  | drowsyEntry (u : Nat) (slot : Nat)
  /-- Event STORE_APPLY (R167). A pending store or atomic is applied at its home when time reaches T. -/
  | storeApply (die : Nat) (idx : Nat)
  /-- Event LEASE_EXPIRY (R166). An L copy is dropped when its die's package time reaches the expiry. -/
  | leaseExpiry (u : Nat) (line : Nat)
  /-- Event SC_TICKET (R175). The package sequencer issues a ticket and forwards a stamped ATOM.sc. -/
  | scTicket (idx : Nat)
  /-- Event DIRECTORY_REQUEST (R148). The home slice serves a GETS, GETX or UPG for a line. -/
  | directoryRequest (die : Nat) (line : Nat) (core : Nat) (kind : ReqKind)
  /-- Event INVACK (R148). An invalidation acknowledgement reaches the home. -/
  | invack (die : Nat) (line : Nat) (core : Nat)
  /-- Event OWNER_ACK (R148). The owner's acknowledgement of a forward reaches the home. -/
  | ownerAck (die : Nat) (line : Nat) (core : Nat)
  /-- Event PUT_REQUEST (R148). A PUTM, PUTO or PUTE reaches the home and is answered with PUTACK. -/
  | putRequest (die : Nat) (line : Nat) (core : Nat)
  /-- Event INV (R149). An L1 receives an invalidation and answers INVACK. -/
  | invReceive (die : Nat) (line : Nat) (core : Nat)
  /-- Event FWD_GETS (R150). An owner L1 receives a forwarded read and sends the data. -/
  | fwdGets (die : Nat) (line : Nat) (core : Nat)
  /-- Event FWD_GETX (R150). An owner L1 receives a forwarded exclusive read and gives up the line. -/
  | fwdGetx (die : Nat) (line : Nat) (core : Nat)
  /-- Event GRANT_OR_DATA (R149). An L1 receives GRANT or DATA and enters M. -/
  | grantOrData (die : Nat) (line : Nat) (core : Nat)
  /-- Event PUTACK (R150). An L1 receives PUTACK and frees its write-back buffer. -/
  | putack (die : Nat) (line : Nat) (core : Nat)
  /-- Event DSM_BANK_OPERATION (R153). A DSM bank performs one operation in arrival order. -/
  | dsmBankOperation (die : Nat) (idx : Nat)
  /-- Event COPY_REGISTER (R210). A waiting copy obtains range-lock entries and registers its transfers. -/
  | copyRegister (u : Nat) (idx : Nat)
  /-- Event COPY_LANE_COMPLETE (R211). A copy lane's bytes are performed and its counter is decremented. -/
  | copyLaneComplete (u : Nat) (idx : Nat)
  /-- Event CB_CLAIM (R212). The engine claims buffer bytes, opening a slot when FREE becomes non-zero. -/
  | cbClaim (u : Nat) (idx : Nat)
  /-- Event CB_SLOT_FILLED (R212). A full slot's bytes are performed; FILLED increments and HEAD advances. -/
  | cbSlotFilled (u : Nat) (slot : Nat) (block : Nat)
  /-- Event COPY_SOURCE_ERROR (R216). A copy lane meets an uncorrectable source error and a no-fibre record is sent. -/
  | copySourceError (u : Nat) (idx : Nat) (piece : Nat)
  /-- Event MATRIX_ENTRY_START (R190). A queued matrix entry starts in the array or drain path. -/
  | matrixEntryStart (u : Nat)
  /-- Event MATRIX_ENTRY_COMPLETE (R191). A matrix entry completes, landing flags and clearing busy bits. -/
  | matrixEntryComplete (u : Nat) (idx : Nat)
  /-- Event DRAIN_WRITE_COMPLETE (R198). A scratchpad drain's writes are performed, members resume and locks release. -/
  | drainWriteComplete (u : Nat) (idx : Nat)
  /-- Event TLD_COMPLETE (R421). TLD finishes writing the tile, clearing its pending write and locks. -/
  | tldComplete (u : Nat) (idx : Nat) (bad : List (Nat × Bool))
  /-- Event TST_COMPLETE (R422). TST's bytes are performed, members resume and busy bit and locks clear. -/
  | tstComplete (u : Nat) (idx : Nat)
  /-- Event WATCHED_STORE (R220). A host store to a watched slot creates a launch task or sets OVF. -/
  | watchedStore (vf : Nat) (slot : Nat) (value : BitVec 64)
  /-- Event PENDING_LAUNCH_ENTRY (R224). A pending launch task enters its queue when the die has room. -/
  | pendingLaunchEntry (die : Nat)
  /-- Event TENQ_ENTRY (R224). A TENQ waiting for room has its task enter the queue. -/
  | tenqEntry (die : Nat)
  /-- Event TASK_DISPATCH (R228). A core with a free group slot takes or steals a ready task and tries admission. -/
  | taskDispatch (u : Nat)
  /-- Event RESERVING_TIMEOUT (R230). A task READY for 64 µs after a failed admission becomes RESERVING. -/
  | reservingTimeout (task : Nat)
  /-- Event RESERVATION_COMPLETE (R230). A reserving task's held resources fit and its gang starts. -/
  | reservationComplete (task : Nat)
  /-- Event HINT_TIMEOUT (R231). A task held back by destination hints for 100 µs is taken without them. -/
  | hintTimeout (task : Nat)
  /-- Event DEFERRED_GROUP_START (R236). A group on a die outside the counter's mask starts once time passes WCT + 4 ns. -/
  | deferredGroupStart (u : Nat) (slot : Nat)
  /-- Event GROUP_END (R41). A group whose fibres have exited and engines completed releases and zeroes its storage. -/
  | groupEnd (u : Nat) (slot : Nat)
  /-- Event TASK_DRAIN_COMPLETE (R235). A task's completion drain ends and DONEC is decremented. -/
  | taskDrainComplete (task : Nat)
  /-- Event LAUNCH_COMPLETE (R237). After the deferred flush the launch record is written and OUTST decremented. -/
  | launchComplete (launch : Nat)
  /-- Event START_BLOCK_GO (R13). A write of GO to a supervisor start block starts or refuses a supervisor group. -/
  | startBlockGo (die : Nat) (sc : Nat)
  /-- Event REGISTER_PORT_READ (R61). A debug port read command returns a register's value and state. -/
  | registerPortRead (die : Nat)
  /-- Event REGISTER_PORT_WRITE (R61). A debug port write command stores a value into a named register. -/
  | registerPortWrite (die : Nat)
  /-- Event RESUME (R249). Service response re-executing the stopped fibres at FPC. -/
  | responseResume (die : Nat) (tag : Nat)
  /-- Event SKIP (R249). Service response continuing after the faulting instruction. -/
  | responseSkip (die : Nat) (tag : Nat)
  /-- Event REDIRECT (R249). Service response continuing at the redirect address. -/
  | responseRedirect (die : Nat) (tag : Nat) (target : BitVec 64)
  /-- Event KILL (R249). Service response performing the kill step for the group's domain. -/
  | responseKill (die : Nat) (tag : Nat)
  /-- Event PREQ_REQUEST (R262). A PREQ write with GO = 1 starts or extends a pre-emption climb. -/
  | preqRequest (die : Nat) (domain : Nat) (cores : BitVec 32)
  /-- Event PREQ_RELEASE (R262). A PREQ write with GO = 0 releases or records release of a domain. -/
  | preqRelease (die : Nat) (domain : Nat)
  /-- Event GRACE_TIMER_EXPIRY (R262). T1 expires and affected groups are halted by force. -/
  | graceTimerExpiry (die : Nat) (domain : Nat)
  /-- Event SAVE_TIMER_EXPIRY (R263). T2 expires and the domain's affected groups are killed. -/
  | saveTimerExpiry (die : Nat) (domain : Nat)
  /-- Event SAVED_TASK_RESTORE (R261). A saved task is admitted and restored from its save areas or refused. -/
  | savedTaskRestore (task : Nat)
  /-- Event DISCARD_RESTART (R259). A re-admitted discard-class gang restarts each slot from its frame. -/
  | discardRestart (task : Nat)
  /-- Event VF_RESET (R264). A function-level reset drops and clears one domain's work and state. -/
  | vfReset (vf : Nat)
  /-- Event RETRACT (R276). Shoot-down OP = 1 sends RETRACT on group 0. -/
  | shootdownRetract (die : Nat)
  /-- Event COMMIT (R276). Shoot-down OP = 2 sends COMMIT on group 0. -/
  | shootdownCommit (die : Nat)
  /-- Event RETRACT_RECEIVE (R276). A live die invalidates entries on receipt of RETRACT. -/
  | retractReceive (die : Nat) (sd : Nat)
  /-- Event RETRACT_ACK (R276). A die acknowledges once retracted accesses, pins and locks are released. -/
  | retractAck (die : Nat) (sd : Nat)
  /-- Event RETRACT_ACK_RECEIVE (R276). The initiator counts acknowledgements and sets STATUS 2. -/
  | retractAckReceive (die : Nat) (sd : Nat)
  /-- Event COMMIT_RECEIVE (R276). A die releases the waiting walks of the range. -/
  | commitReceive (die : Nat) (sd : Nat)
  /-- Event SHOOTDOWN_TIMEOUT (R277). SDTIME expires and holding gangs are halted and pins released. -/
  | shootdownTimeout (die : Nat) (sd : Nat)
  /-- Event SATUS_DELIVER (R273). A sequenced message enters every member queue once all have room. -/
  | satusDeliver (idx : Nat)
  /-- Event WALK_COMPLETE (R272). A page walk completes and fills the caches or faults. -/
  | walkComplete (u : Nat) (pasid : Nat) (va : BitVec 64) (domain : Nat)
  /-- Event HOST_WALK_REPLY (R314). The host's reply to a page request enters the caches. -/
  | hostWalkReply (u : Nat) (pasid : Nat) (va : BitVec 64) (domain : Nat) (entry : Option (BitVec 128))
  /-- Event MIGRATION_COMMIT (R280). The migrated group resumes on the landing core. -/
  | migrationCommit (u : Nat) (slot : Nat)
  /-- Event HEARTBEAT (R281). A die sends a heartbeat on each link every 1 µs. -/
  | heartbeat (die : Nat)
  /-- Event LINK_SILENCE_TIMEOUT (R281). A link silent for 20 µs makes the die suspect its neighbour. -/
  | linkSilenceTimeout (die : Nat) (nbr : Nat)
  /-- Event LINK_UNCORRECTABLE_ERROR (R281). A link reports an uncorrectable error and its neighbour is suspected. -/
  | linkUncorrectableError (die : Nat) (nbr : Nat)
  /-- Event FATAL_ERROR_SIGNAL (R281). A neighbour signals its own fatal error. -/
  | fatalErrorSignal (die : Nat) (nbr : Nat)
  /-- Event SUSPICION_REPORT (R281). A survivor's unicast suspicion report reaches the master, which judges. -/
  | suspicionReport (die : Nat) (nbr : Nat)
  /-- Event MASTER_SILENCE_TIMEOUT (R281). Dies finding the master silent elect a new master that sends MASTER. -/
  | masterSilenceTimeout
  /-- Event DIEFAIL (R283). A survivor acts on DIEFAIL for a failed die. -/
  | diefail (die : Nat) (failed : Nat)
  /-- Event MASTER (R281). Receipt of the MASTER message naming the new master die. -/
  | masterReceive (die : Nat) (newMaster : Nat)
  /-- Event ISLAND_RESET (R308). ISLCTL.RST closes clamps, drops groups and zeroes the island. -/
  | islandReset (die : Nat) (k : Nat)
  /-- Event ISLAND_POWER_GATE (R308). ISLCTL.GATE = 1 closes clamps and power-gates the island. -/
  | islandPowerGate (die : Nat) (k : Nat)
  /-- Event ISLAND_POWER_UP (R16). ISLCTL.GATE = 0 powers the island zeroed and opens the clamps. -/
  | islandPowerUp (die : Nat) (k : Nat)
  /-- Event CLAMP_DRAIN_TIMEOUT (R16). After 10 µs, requests still in flight complete with ISLAND_OFFLINE. -/
  | clampDrainTimeout (die : Nat) (k : Nat)
  /-- Event PARTITION_SET (R308). A write changing ISLCTL.PART sets the island's partition when idle. -/
  | partitionSet (die : Nat) (k : Nat) (part : Nat)
  /-- Event SVCCAP_WRITE (R251). A write to SVCCAP rescales service minima and may raise service degraded. -/
  | svccapWrite (die : Nat) (value : BitVec 32)
  /-- Event LEASECFG_WRITE (R171). A write to LEASE sets the lease length for later grants. -/
  | leasecfgWrite (die : Nat) (value : BitVec 32)
  /-- Event DSM_OWNER_WRITE (R152). A DSM owner-table write marks the segment's rows zero-pending. -/
  | dsmOwnerWrite (die : Nat) (seg : Nat) (value : BitVec 32)
  /-- Event SLOT_MAP_WRITE (R286). A slot-map write resets epoch state and discards open epochs. -/
  | slotMapWrite (u : Nat) (slot : Nat) (value : BitVec 128)
  /-- Event COURSE_TABLE_WRITE (R291). A course-table write setting VALID resets the course state. -/
  | courseTableWrite (die : Nat) (course : Nat) (value : BitVec 256)
  /-- Event MARK_SCRUB_PENDING (R157). The supervisor command invalidates a range and marks it scrub-pending. -/
  | markScrubPending (die : Nat) (first : Nat) (count : Nat)
  /-- Event SCRUB_STEP (R156). The scrubber zeroes the next pending line and clears its bit. -/
  | scrubStep (die : Nat)
  /-- Event PATROL_SCRUB (R155). The patrol scrubber reads and corrects each line every 24 hours. -/
  | patrolScrub (die : Nat) (line : Nat)
  /-- Event SOFT_ERROR (R205). An uncorrectable soft error in core state raises MACHINE_CHECK to the die. -/
  | softError (err : SoftError)
  /-- Event FABRIC_WRITE_RECEIVE (R295). A received fabric write is applied and counted by epoch and generation. -/
  | fabricWriteReceive (pkt : Packet)
  /-- Event RIDGE_RECEIVE (R296). A received ridge or count-only ridge is held with its carried count. -/
  | ridgeReceive (pkt : Packet)
  /-- Event RIDGE_APPLY (R296). A held ridge whose count and time are met applies its flag and advances LOW. -/
  | ridgeApply (die : Nat) (course : Nat)
  /-- Event ATOMIC_PACKET_RECEIVE (R300). A remote atomic is performed once or answered from the tag cache. -/
  | atomicPacketReceive (pkt : Packet)
  /-- Event ATOMIC_RESPONSE_RECEIVE (R301). A remote atomic response writes each lane's fetched value. -/
  | atomicResponseReceive (pkt : Packet)
  /-- Event LOAD_PACKET_RECEIVE (R373). A remote load packet is served at the receiving home. -/
  | loadPacketReceive (pkt : Packet)
  /-- Event RESEND_REQUEST_RECEIVE (R298). A sender replays an epoch with the new generation once. -/
  | resendRequestReceive (pkt : Packet)
  /-- Event DIGEST_RECEIVE (R298). A sender sets CONF from a digest and frees buffer space. -/
  | digestReceive (u : Nat) (slot : Nat) (low : Nat) (broken : Bool) (mark : Bool)
  /-- Event DIGEST_PERIOD (R298). Every DIGPER the receiving die sends digests to its sending cores. -/
  | digestPeriod (die : Nat)
  /-- Event LOST_PACKET_TIMEOUT (R298). TLOST expires on a held ridge, raising the generation and requesting resend. -/
  | lostPacketTimeout (die : Nat) (course : Nat)
  /-- Event CONFIRMATION_TIMEOUT (R298). TCONF expires and the sender replays the epoch or fails the course. -/
  | confirmationTimeout (u : Nat) (slot : Nat)
  /-- Event ATOMIC_RESEND_TIMEOUT (R300). An unanswered remote atomic is resent after TLOST with the same tag. -/
  | atomicResendTimeout (u : Nat) (slot : Nat) (tag : Nat)
  /-- Event COURSE_ALLOCATION (R292). An allocation packet takes the lowest free course and answers RESULT. -/
  | courseAllocation (pkt : Packet)
  /-- Event COURSE_CLOSE (R302). A close packet drops held ridges and frees the course. -/
  | courseClose (pkt : Packet)
  /-- Event DIE_START (R310). A die runs its boot steps from ROM and records their outcomes: of steps 1 to 8, then of stacks 0 to 3. -/
  | dieStart (die : Nat) (pass : List Bool)
  /-- Event MASTER_ELECTION (R311). Joined dies elect the lowest as master, which sends MASTER. -/
  | masterElection
  /-- Event QUOTE_REQUEST (R313). The PF's request makes the master write an attestation quote. -/
  | quoteRequest (pf : Nat) (nonceAddr : BitVec 64) (resultAddr : BitVec 64) (nonce : BitVec 256)
  /-- Event SUPPLY_SAG (R315). A supply-sag trip drops the arithmetic clock and raises event 6. -/
  | supplySag (die : Nat)
  /-- Event SUPPLY_RECOVERY (R315). 2 µs after recovery the clock returns to the FSTEP value. -/
  | supplyRecovery (die : Nat)
  /-- Event CHECKPOINT_HOLD (R316). A PF write of 1 holds watched stores and stops taking tasks. -/
  | checkpointHold
  /-- Event CHECKPOINT_STOPPED (R316). When no launch is incomplete the package raises event 7. -/
  | checkpointStopped
  /-- Event CHECKPOINT_RELEASE (R316). A PF write of 0 releases held watched stores in arrival order. -/
  | checkpointRelease
  /-- Event RESTORE_COMMAND (R316). A PF restore is accepted only onto matching packages. -/
  | restoreCommand (pf : Nat) (pkg : Nat) (diecaps : List (BitVec 32)) (image : List (Nat × BitVec 8))
  /-- Event REGISTER_WRITE (R4). A write to a register with no behaviour of its own stores its writable fields. -/
  | registerWrite (die : Nat) (off : Nat) (value : BitVec 64) (size : Nat)
  /-- Event LEASE_GRANT (R166). A load request from another die reaches the line's home, which returns the applied value with a lease expiry and raises the lease horizon. -/
  | leaseGrant (die : Nat) (idx : Nat)
  /-- Event HOME_STORE_ARRIVAL (R167). A store or atomic from another die reaches its home, which computes its completion time T and applies it at once or leaves it pending. -/
  | homeStoreArrival (die : Nat) (idx : Nat)
  /-- Event LINK_CREDIT_RETURN (R289). The next hop returns link credits, or packets leave the port's queue, and a slot's link-credit or congestion-window term recovers. -/
  | linkCreditReturn (u : Nat) (slot : Nat) (bytes : Nat) (cwnd : Bool)
  /-- Event HOST_MEMORY_ACCESS (R307). A host CXL.mem read or write of the die's stack memory is performed at the home of each line. -/
  | hostMemoryAccess (die : Nat) (off : Nat) (size : Nat) (write : Option (BitVec 512))
  /-- Event CLOCK_SLOWING (R315). The power controller lowers FSTEP on its own to hold the module within the power limits of R26. -/
  | clockSlowing (die : Nat) (k : Nat) (fstep : Nat)
  /-- Event ISLAND_RESET_END (R308). An island reset finishes zeroing, reopens the clamps, clears RST and the ROM starts the boot group on the island's supervisor core. -/
  | islandResetEnd (die : Nat) (k : Nat)
deriving DecidableEq, Repr

end Sys2Proof
end

