-- ==== Sys2Proof/Machine/Fields.lean ====
section
/-! DEFINITION. The decode checks 5 and 6 of R118 that need no state beyond the kernel's .conv count: reserved and unused
fields, the codes each entry accepts, odd pairs, uniform numbers, DU and MASK. The order of R118 and R119 chooses the
field that is reported. -/

namespace Sys2Proof.Machine

/-- One check of a field: the check number of R118 (5 or 6), the field's code, parcel and lowest bit (R119), and whether
it fails. -/
structure Chk where
  ph : Nat
  code : Nat
  parcel : Nat
  bit : Nat
  bad : Bool
deriving DecidableEq, Repr

/-- The first failing check: every check 5 before any check 6, and within one the lowest parcel and bit (R118). The lists
below are written in parcel and bit order. -/
def firstBad (l : List Chk) : Option DecodeError :=
  match (l.find? fun c => c.ph == 5 && c.bad) with
  | some c => some (.illegal c.code c.parcel c.bit)
  | none => (l.find? fun c => c.ph == 6 && c.bad).map fun c => .illegal c.code c.parcel c.bit

/-- The source field is zero, W included. -/
def srcZero (s : Src) : Bool := !s.w && s.r == 0

/-- How an entry uses a source field. -/
inductive SUse where
  /-- unused: must be zero (R117) -/
  | no
  /-- one register -/
  | one
  /-- an aligned pair -/
  | pair
  /-- a pair when TYPE is .i64, one register otherwise (R322) -/
  | typed
  /-- the first of n registers, a multiple of n, vector only -/
  | span (n : Nat)
  /-- the first of n registers, a multiple of n, vector or uniform (R391) -/
  | many (n : Nat)
deriving DecidableEq, Repr

/-- The checks on a source field `s` with its uniform bit `u`: the field is unused, names a uniform above 63 (R107), or is
not aligned as its use asks (R51). -/
def srcBad (use : SUse) (wide u : Bool) (s : Src) : Bool :=
  (u && (s.r.toNat ≥ 64)) ||
  match use with
  | .no | .one => false
  | .pair => s.r.toNat % 2 != 0
  | .typed => wide && s.r.toNat % 2 != 0
  | .span n | .many n => s.r.toNat % n != 0

/-- How an entry of format T or I uses D. -/
inductive DUse where
  | no | one | typed | pred
  | span (n : Nat)
deriving DecidableEq, Repr

/-- How an entry of format T or I uses bits 17:9 of its second parcel. -/
inductive CUse where
  | no
  /-- a third source, with its use -/
  | src (use : SUse)
  /-- a code: the accepted values; `conv` when bits 3:0 name a convergence register (R110) -/
  | code (ok : BitVec 9 → Bool) (conv : Bool)

/-- How an entry uses a modifier field: it does not (R318), it takes 0 alone, or it takes more codes. A code of a field that the entry
names fails check 6 of R118, a code of one that it does not name check 5. -/
inductive ModUse where
  | unused | zero | used
deriving DecidableEq

/-- What an entry of format T or I accepts (R110, R117). -/
structure TSpec where
  a : SUse := .no
  b : SUse := .no
  c : CUse := .no
  d : DUse := .no
  types : List Nat := [15]
  rnd : ModUse := .unused
  sat : ModUse := .unused
  /-- DU may be 1 under R111 where it is used -/
  du : ModUse := .unused
  /-- format T is listed (R117) -/
  fmtT : Bool := true
  /-- in format T, B must be a uniform register (R405) -/
  bUniform : Bool := false
  /-- the entry names A, B, C, UA, UB and UC with 0 alone (R383) -/
  zeroSources : Bool := false
  /-- the literal is used, with this check; none when it must be zero -/
  lit : Option (OpT → BitVec 32 → Bool) := none

/-- A literal used whole. -/
def anyLit : Option (OpT → BitVec 32 → Bool) := some fun _ _ => true
/-- A .bf16 or .f16 literal has bits 31:16 zero (R110). -/
def floatLit : Option (OpT → BitVec 32 → Bool) :=
  some fun o l => !(o.ty == 4 || o.ty == 5) || l.toNat < 65536

/-- The checks of an entry of format T or I, in parcel and bit order. `conv` is the kernel's .conv value (R39). -/
def tChecks (sp : TSpec) (conv : Nat) (o : OpT) : List Chk :=
  let wide := o.ty == 2 && sp.types.contains 2
  let isI := o.lit.isSome
  let k := if sp.zeroSources then 6 else 5
  let aUsed := sp.a != .no
  let bUsed := sp.b != .no && !isI
  let cSrc := match sp.c with | .src _ => true | _ => false
  let uniformSources := (!aUsed || o.ua) && (!bUsed || o.ub) && (!cSrc || o.uc)
  [⟨5, 2, 0, 15, match sp.d with | .no => o.d != 0 | .pred => o.d.toNat ≥ 8 | _ => false⟩,
   ⟨6, 2, 0, 15, (sp.du == .used && o.du && o.d.toNat ≥ 64) || match sp.d with
      | .typed => wide && o.d.toNat % 2 != 0
      | .span n => o.d.toNat % n != 0
      | _ => false⟩,
   ⟨k, 3, 0, 23, !aUsed && !srcZero o.a⟩,
   ⟨6, 3, 0, 23, aUsed && srcBad sp.a wide o.ua o.a⟩,
   ⟨k, 4, 1, 0, !bUsed && !srcZero o.b⟩,
   ⟨6, 4, 1, 0, bUsed && srcBad sp.b wide o.ub o.b⟩,
   ⟨k, 5, 1, 9, match sp.c with | .no => o.c != 0 | _ => false⟩,
   ⟨6, 5, 1, 9, match sp.c with
      | .no => false
      | .src use => srcBad use wide o.uc ⟨o.c.getLsbD 8, o.c.extractLsb' 0 8⟩
      | .code ok isConv => !ok o.c || (isConv && o.c.toNat % 16 ≥ conv)⟩,
   ⟨6, 6, 1, 18, !sp.types.contains o.ty.toNat⟩,
   ⟨5, 8, 1, 22, sp.rnd == .unused && o.rnd != 0⟩,
   ⟨6, 8, 1, 22, (sp.rnd == .zero && o.rnd != 0) || (sp.rnd == .used && o.rnd.toNat > 4)⟩,
   ⟨5, 9, 1, 25, sp.sat == .unused && o.sat⟩,
   ⟨6, 9, 1, 25, sp.sat == .zero && o.sat⟩,
   ⟨k, 10, 1, 26, !aUsed && o.ua⟩,
   ⟨6, 10, 1, 26, (match sp.a with | .span _ => true | _ => false) && o.ua⟩,
   ⟨k, 10, 1, 27, !bUsed && o.ub⟩,
   ⟨6, 10, 1, 27, sp.bUniform && bUsed && !o.ub⟩,
   ⟨k, 10, 1, 28, !cSrc && o.uc⟩,
   ⟨5, 11, 1, 29, sp.du == .unused && o.du⟩,
   ⟨6, 11, 1, 29, (sp.du == .zero && o.du) || (o.du && !uniformSources)⟩,
   ⟨5, 23, 1, 30, o.rsv != 0⟩,
   ⟨5, 21, 2, 0, match o.lit, sp.lit with | some l, none => l != 0 | _, _ => false⟩,
   ⟨6, 21, 2, 0, match o.lit, sp.lit with | some l, some ok => !ok o l | _, _ => false⟩]

/-- What an entry of format M or ML accepts (R112, R117). The lists give the codes the entry takes; `combo` names the
further limits across fields, with the field each reports. -/
structure MSpec where
  a : OpM → SUse := fun _ => .no
  b : OpM → SUse := fun _ => .no
  d : OpM → SUse := fun _ => .no
  types : List Nat := [15]
  /-- B must be zero by the entry's own list of codes (R206) -/
  bZero : Bool := false
  /-- when RAW may be 1; none where the entry does not name it -/
  raw : Option (OpM → Bool) := some fun _ => false
  /-- the spaces that the entry takes; none where it does not name SPACE -/
  spaces : Option (List Nat) := some [0]
  /-- an entry without orderings takes no scope, and an ordering without a scope names SCOPE (R108) -/
  scopes : OpM → Bool := fun o => o.scope == 0 && o.ord == 0
  ords : List Nat := [0]
  /-- the sizes that the entry takes; none where it does not name SIZE -/
  sizes : Option (OpM → Bool) := some fun o => o.size == 0
  off : Bool := true
  typeOk : OpM → Bool := fun _ => true
  spaceOk : OpM → Bool := fun _ => true

/-- The checks of an entry of format M or ML, in parcel and bit order. -/
def mChecks (sp : MSpec) (o : OpM) : List Chk :=
  let ml := o.off32.isSome
  let dUse := sp.d o
  let aUse := sp.a o
  let bUse := sp.b o
  [⟨5, 2, 0, 15, dUse == .no && o.d != 0⟩,
   ⟨6, 2, 0, 15, srcBad dUse false false ⟨false, o.d⟩⟩,
   ⟨5, 3, 0, 23, aUse == .no && !srcZero o.a⟩,
   ⟨6, 3, 0, 23, srcBad aUse false o.ua o.a⟩,
   ⟨5, 4, 1, 0, bUse == .no && !sp.bZero && !srcZero o.b⟩,
   ⟨6, 4, 1, 0, srcBad bUse false o.ub o.b || (sp.bZero && !srcZero o.b)⟩,
   ⟨6, 6, 1, 9, !sp.types.contains o.ty.toNat || !sp.typeOk o⟩,
   ⟨5, 7, 1, 13, sp.raw.isNone && o.raw⟩,
   ⟨6, 7, 1, 13, match sp.raw with | some ok => o.raw && !ok o | none => false⟩,
   ⟨5, 12, 1, 14, sp.spaces.isNone && o.space != 0⟩,
   ⟨6, 12, 1, 14, match sp.spaces with | some l => !l.contains o.space.toNat || !sp.spaceOk o | none => false⟩,
   ⟨6, 13, 1, 16, !sp.scopes o⟩,
   ⟨6, 14, 1, 19, !sp.ords.contains o.ord.toNat⟩,
   ⟨5, 15, 1, 21, sp.sizes.isNone && o.size != 0⟩,
   ⟨6, 15, 1, 21, match sp.sizes with | some ok => !ok o | none => false⟩,
   ⟨5, 10, 1, 24, aUse == .no && o.ua⟩,
   ⟨5, 10, 1, 25, bUse == .no && !sp.bZero && o.ub⟩,
   ⟨6, 10, 1, 25, sp.bZero && o.ub⟩,
   ⟨5, 16, 1, 26, (ml || !sp.off) && o.off != 0⟩,
   ⟨5, 16, 2, 0, match o.off32 with | some v => !sp.off && v != 0 | none => false⟩]

/-- A scope with an ordering (R108, R162): no scope only with .rlx, codes 6 and 7 reserved, and the largest scope that the entry
takes with the ordering. An ordering that the entry refuses sets no limit here: it is reported itself. -/
def scopeOk (top : BitVec 2 → Nat) (o : OpM) : Bool := o.scope.toNat ≤ top o.ord && (o.ord == 0 || o.scope != 0)
/-- .rel.rack is refused (R162). -/
def noRelRack (r : BitVec 2) : Nat := if r == 2 then 4 else 5

/-- An address base: a pair in .g, one register in .sp and .ds (R112). -/
def addrUse (o : OpM) : SUse := if o.space == 0 then .pair else .one

/-- A register of a 32-bit or 64-bit typed operand. -/
def typedUse (o : OpM) : SUse := if o.ty == 2 then .pair else .one

/-- 2^SIZE bytes as whole registers (R370): one, a pair, or an aligned four. -/
def sizeUse (o : OpM) : SUse :=
  if o.size == 3 then .span 2 else if o.size == 4 then .span 4 else .one

/-- The element counts a typed access takes (R371). -/
def spanSizes (o : OpM) : Bool :=
  if o.ty == 15 then o.size.toNat ≤ 4
  else if o.ty == 8 || o.ty == 9 then o.size == 2
  else if o.ty == 10 || o.ty == 12 then o.size == 1 || o.size == 2
  else o.size.toNat ≤ 2

/-- Typeless, or an element type (R369). -/
def elementTypes : List Nat := [3, 4, 5, 6, 7, 8, 9, 10, 11, 12, 15]

/-- The registers of a typeless or typed load or store (R370, R371). A refused TYPE or SIZE asks for no alignment (R118). -/
def dataUse (o : OpM) : SUse :=
  if o.ty == 15 then sizeUse o
  else if elementTypes.contains o.ty.toNat && spanSizes o then .span (2 ^ o.size.toNat)
  else .one

def atomSpec (cas bitwise exch red : Bool) : MSpec :=
  { a := addrUse, b := typedUse, d := fun o => if red then .no else typedUse o
    types := [0, 1, 2, 3]
    typeOk := fun o => !(bitwise && o.ty == 3) || (exch || cas)
    spaces := some [0, 1], spaceOk := fun o => red || !(o.ord == 3 && o.space == 1)
    ords := if red then [0, 2] else [0, 1, 2, 3]
    scopes := fun o => scopeOk noRelRack o && (red || o.ord != 3 || o.scope == 4)
    sizes := some fun o => if o.ty == 2 then o.size == 3 else o.size == 2 }

/-- The operation and type pairs of the DSM banks (R154): 0 add, 1 min, 2 max, 3 and, 4 or, 5 xor, 6 fma. -/
def bankTypeOk (op : Nat) (o : OpM) : Bool :=
  if op == 6 then o.ty == 3
  else if o.ty == 3 then op ≤ 2
  else if o.ty == 4 then op == 0
  else true

def dsopSizes (o : OpM) : Bool :=
  if o.ty == 2 then o.size == 3 || o.size == 4 else o.size == 2 || o.size == 3 || o.size == 4
/-- The registers of a DSOP operand; a refused SIZE asks for no alignment (R118). -/
def dsopUse (o : OpM) : SUse := if dsopSizes o then .span (2 ^ o.size.toNat / 4) else .one

def dsopSpec (op : Nat) : MSpec :=
  { a := fun _ => .one, b := dsopUse
    d := fun o => if op == 6 then dsopUse o else .no
    types := [0, 1, 2, 3, 4], typeOk := bankTypeOk op, spaces := some [2]
    ords := [0, 1, 2], scopes := scopeOk fun _ => 4
    sizes := some dsopSizes }

def dsredSpec (op : Nat) (ret : Bool) : MSpec :=
  { a := fun _ => .one, b := typedUse, d := fun o => if ret then typedUse o else .no
    types := [0, 1, 2, 3, 4], typeOk := bankTypeOk op, spaces := some [2]
    ords := [0, 1, 2], scopes := scopeOk fun _ => 4
    sizes := some fun o => if o.ty == 2 then o.size == 3 else o.size == 2 }

/-- Entries that take a .g address and nothing else (R342, R376, R380). -/
def lineSpec (d : SUse) : MSpec := { a := fun _ => .pair, d := fun _ => d }

def ldSpec : MSpec :=
  { a := addrUse, d := dataUse, types := elementTypes, raw := some fun o => o.ty != 15, spaces := some [0, 1, 2]
    ords := [0, 1], scopes := scopeOk fun _ => 5, sizes := some spanSizes }

def stSpec : MSpec :=
  { a := addrUse, b := dataUse, types := elementTypes, spaces := some [0, 1, 2]
    ords := [0, 2], scopes := scopeOk noRelRack, sizes := some spanSizes }

def stmSpec : MSpec :=
  { a := fun _ => .pair, b := sizeUse, ords := [0, 2], scopes := scopeOk noRelRack
    sizes := some fun o => o.size.toNat ≤ 4 }

def fenceSpec : MSpec :=
  { off := false, ords := [1, 2, 3], raw := none, spaces := none, sizes := none
    scopes := fun o => 1 ≤ o.scope.toNat && o.scope.toNat ≤ 5 && !(o.ord == 3 && o.scope == 5) }

def cpySpec : MSpec :=
  { a := fun o => if o.space == 1 || o.space == 2 then .pair else .one
    b := fun o => if o.space == 0 then .pair else .one, d := fun _ => .one
    spaces := some [0, 1, 2], sizes := some fun o => o.size == 2 || o.size == 3 || o.size == 4 }

def cpyCbSpec : MSpec :=
  { a := fun _ => .pair, bZero := true, d := fun _ => .one, spaces := some [1]
    sizes := some fun o => o.size == 2 || o.size == 3 || o.size == 4 }

def ridgeSpec : MSpec :=
  { a := fun _ => .pair, b := sizeUse, ords := [2], scopes := fun o => o.scope == 5
    sizes := some fun o => o.size.toNat ≤ 4 }

def tinvSpec : MSpec := { a := fun _ => .pair, b := fun _ => .one, sizes := some fun o => o.size.toNat ≤ 2 }

/-! ## Entries of format T and I -/

def ints : List Nat := [0, 1, 2]
def floats : List Nat := [3, 4, 5]

/-- A modifier that an entry names: it takes its codes, or 0 alone. -/
def named (used : Bool) : ModUse := if used then .used else .zero
/-- The integer mould (R322): RND is 0, SAT as the entry's row says. -/
def mould2 (types : List Nat) (sat : Bool) : TSpec :=
  { a := .typed, b := .typed, d := .typed, types := types, rnd := .zero, sat := named sat, du := .used, lit := anyLit }
def mould1 (types : List Nat) (sat : Bool) : TSpec := { mould2 types sat with a := .no }
def mould3 (types : List Nat) (sat : Bool) : TSpec := { mould2 types sat with c := .src .typed }
/-- Shifts read their count from one register, even for .i64 (R387). -/
def shiftSpec (types : List Nat) : TSpec :=
  { mould2 types false with b := .one }
def leaSpec : TSpec := { mould2 [1, 2] false with b := .one, c := .code (fun c => c.toNat < 8) false }
def cmpSpec : TSpec := { mould2 ints false with d := .pred, du := .zero }
def float2 (rnd : Bool) : TSpec :=
  { a := .one, b := .one, d := .one, types := floats, rnd := named rnd, sat := named rnd, du := .used, lit := floatLit }
def ffmaSpec : TSpec := { float2 true with c := .src .one }
def fcmpSpec : TSpec := { float2 false with d := .pred, du := .zero }
def frndSpec : TSpec := { float2 true with a := .no, sat := .zero }
/-- FCVT's source type is in C (R360): its width and its literal follow the source type. -/
def fcvtSpec (o : OpT) : TSpec :=
  { b := if o.c == 2 then .pair else .one
    c := .code (fun c => c.toNat ≤ 5) false, d := .typed, types := [0, 1, 2, 3, 4, 5], rnd := .used, sat := .used, du := .used
    lit := some fun o l => !(o.c == 4 || o.c == 5) || l.toNat < 65536 }
def sfuSpec : TSpec := { b := .one, d := .one, types := [3], rnd := .zero, sat := .zero, du := .used, lit := anyLit }
/-- Registers per packed register (R390). -/
def packN (ty : BitVec 4) : Nat := if ty == 4 || ty == 5 then 2 else 4
def hiCode (o : OpT) : CUse := .code (fun c => c.toNat ≤ (if o.ty == 10 then 1 else 0)) false
/-- The types of PACK and UNPACK (R390). -/
def packTypes : List Nat := [4, 5, 6, 7, 8, 9, 10]
/-- The alignment that N asks for; a refused TYPE asks for none (R118). -/
def packSpan (o : OpT) : Nat := if packTypes.contains o.ty.toNat then packN o.ty else 1
/-- PACK's sources start at a multiple of N and may be uniform (R391, R111). -/
def packSpec (o : OpT) : TSpec :=
  { a := .many (packSpan o), c := hiCode o, d := .one, types := packTypes, rnd := .used, sat := .used, du := .used }
def unpackSpec (o : OpT) : TSpec :=
  { b := .one, c := hiCode o, d := .span (packSpan o), types := packTypes, rnd := .zero, sat := .zero, du := .used
    lit := anyLit }
def convCode (ok : BitVec 5 → Bool) : CUse := .code (fun c => ok (c.extractLsb' 4 5)) true
def shflSpec : TSpec := { a := .one, b := .one, c := convCode (· == 0), d := .one, du := .zero, lit := anyLit }
def voteSpec (d : DUse) : TSpec := { c := convCode (fun h => !h.getLsbD 4), d := d, du := .zero }
def reduxSpec (arith : Bool) : TSpec :=
  { a := .typed, c := convCode (· == 0), d := .typed, types := if arith then [0, 1, 2, 3] else ints, du := .zero }
def scanSpec (arith : Bool) : TSpec :=
  { a := .typed, c := convCode (fun h => h.toNat ≤ 1), d := .typed, types := if arith then [0, 1, 2, 3] else ints, du := .zero }
def selSpec : TSpec :=
  { a := .typed, b := .typed, c := .code (fun c => c.toNat < 16) false, d := .typed, types := [2, 15], du := .zero, lit := anyLit }
def signSpec (init : Bool) : TSpec :=
  { b := if init then .one else .no, c := convCode (· == 0), bUniform := init, lit := if init then anyLit else none }
def colrdSpec : TSpec :=
  { b := .one, d := .one, du := .used, lit := some fun _ l => l.toNat < 64 }
def dcSpec (b : Bool) : TSpec := { a := .one, b := if b then .one else .no, lit := if b then anyLit else none }
def tenqSpec : TSpec := { a := .pair, lit := anyLit }
def tdeqSpec : TSpec := { b := .one, d := .span 4, lit := anyLit }
def cbacqSpec : TSpec := { b := .one, d := .one, lit := anyLit }
def cbrelSpec : TSpec := { b := .one, lit := anyLit }
def msendSpec : TSpec := { a := .span 16, b := .one, lit := anyLit }
def mrecvSpec : TSpec := { b := .one, d := .span 16, lit := anyLit }
def gcallSpec : TSpec :=
  { c := .code (fun c => c.toNat ≤ 8) false, d := .one, fmtT := false, lit := some fun _ l => l.toNat < 4096 }
def moviSpec : TSpec :=
  { d := .typed, types := [0, 1, 2, 3, 4, 5, 15], rnd := .zero, sat := .zero, zeroSources := true, du := .used, fmtT := false, lit := floatLit }

/-! ## The other formats -/

def nChecks (o : OpN) : List Chk := [⟨5, 22, 0, 15, o.rsv != 0⟩]

/-- Format U: which of D and A the entry uses, and whether A is a pair (R109, R339). -/
def uChecks (d a pair : Bool) (o : OpU) : List Chk :=
  [⟨5, 2, 0, 15, !d && o.d != 0⟩, ⟨5, 3, 0, 23, !a && !srcZero o.a⟩,
   ⟨6, 3, 0, 23, pair && o.a.r.toNat % 2 != 0⟩]

def jChecks (d a slot : Bool) (o : OpJ) : List Chk :=
  [⟨5, 2, 0, 15, (!d && o.d != 0) || (slot && o.d.toNat ≥ 64)⟩, ⟨5, 3, 0, 23, !a && !srcZero o.a⟩]

/-- What R62 says of a control or status register. -/
structure Csr where
  wide : Bool
  fibreScope : Bool
  readSup : Bool
  write : Option Bool
deriving DecidableEq, Repr

/-- The registers of R62 by number: width 64, fibre scope, read by supervisor only, and who may write
(none: nobody, true: supervisor only). -/
def csrInfo (n : Nat) : Option Csr :=
  if n == 0x000 then some ⟨false, true, false, some false⟩
  else if n == 0x001 then some ⟨false, true, false, none⟩
  else if n == 0x002 || n == 0x003 then some ⟨false, false, false, none⟩
  else if n == 0x004 then some ⟨true, true, false, none⟩
  else if n == 0x005 then some ⟨true, false, false, none⟩
  else if n == 0x006 || n == 0x007 then some ⟨false, false, false, none⟩
  else if n == 0x010 then some ⟨false, true, true, some true⟩
  else if n == 0x011 || n == 0x012 then some ⟨true, true, true, some true⟩
  else if 0x020 ≤ n && n ≤ 0x02F then some ⟨true, false, false, some false⟩
  else if 0x040 ≤ n && n ≤ 0x07F then some ⟨false, false, false, some true⟩
  else if 0x080 ≤ n && n ≤ 0x087 then some ⟨true, false, true, some true⟩
  else if n == 0x088 then some ⟨false, false, false, none⟩
  else if n == 0x089 then some ⟨false, false, true, some true⟩
  else if n == 0x090 then some ⟨false, false, true, some true⟩
  else if 0x100 ≤ n && n ≤ 0x10F then some ⟨false, true, false, none⟩
  else if 0x110 ≤ n && n ≤ 0x113 then some ⟨false, false, false, none⟩
  else if 0x120 ≤ n && n ≤ 0x12F then some ⟨false, false, false, none⟩
  else if n == 0x130 then some ⟨false, true, false, none⟩
  else if n == 0x131 then some ⟨false, false, false, none⟩
  else none

def csrWide (n : Nat) : Bool := match csrInfo n with | some c => c.wide | none => false

def mfsrChecks (o : OpS) : List Chk :=
  let n := o.csrn.toNat
  [⟨6, 2, 0, 15, (o.du && o.d.toNat ≥ 64) || (csrWide n && o.d.toNat % 2 != 0)⟩,
   ⟨5, 3, 0, 23, !srcZero o.a⟩,
   ⟨6, 17, 1, 0, (csrInfo n).isNone⟩,
   ⟨6, 11, 1, 10, o.du && match csrInfo n with | some c => c.fibreScope | none => false⟩,
   ⟨5, 10, 1, 11, o.ua⟩, ⟨5, 23, 1, 12, o.rsv != 0⟩]

def mtsrChecks (o : OpS) : List Chk :=
  let n := o.csrn.toNat
  [⟨6, 2, 0, 15, o.d != 0⟩,
   ⟨6, 3, 0, 23, srcBad (if csrWide n then .pair else .one) false o.ua o.a⟩,
   ⟨6, 17, 1, 0, match csrInfo n with | some c => c.write.isNone | none => true⟩,
   ⟨6, 11, 1, 10, o.du⟩, ⟨5, 23, 1, 12, o.rsv != 0⟩]

/-- What an entry of format X accepts (R192, R419). -/
structure XSpec where
  ac : Bool := false
  t1 : OpX → Bool := fun _ => false
  t2 : Bool := false
  b : OpX → Bool := fun _ => false
  /-- the address register must be even: a .g tile transfer (R419) -/
  bEven : OpX → Bool := fun _ => false
  /-- the codes of FA and FB; none where the table marks the field 0 -/
  fa : Option (OpX → Bool) := none
  fb : Option (OpX → Bool) := none
  /-- the bits of MOD that the table marks 0, and what the others accept -/
  mdZero : BitVec 8 := 0xFF
  md : OpX → Bool := fun _ => true

def xChecks (sp : XSpec) (conv : Nat) (o : OpX) : List Chk :=
  [⟨6, 20, 0, 15, o.cv.toNat ≥ conv⟩,
   ⟨5, 20, 0, 19, !sp.t1 o && o.t1 != 0⟩, ⟨5, 20, 0, 23, !sp.t2 && o.t2 != 0⟩,
   ⟨5, 20, 0, 27, !sp.ac && o.ac != 0⟩, ⟨5, 22, 0, 30, o.rsv1 != 0⟩,
   ⟨5, 18, 1, 0, sp.fa.isNone && o.fa != 0⟩, ⟨6, 18, 1, 0, match sp.fa with | some ok => !ok o | none => false⟩,
   ⟨5, 18, 1, 4, sp.fb.isNone && o.fb != 0⟩, ⟨6, 18, 1, 4, match sp.fb with | some ok => !ok o | none => false⟩,
   ⟨5, 18, 1, 8, o.md &&& sp.mdZero != 0⟩, ⟨6, 18, 1, 8, !sp.md o⟩,
   ⟨5, 4, 1, 16, !sp.b o && !srcZero o.b⟩,
   ⟨6, 4, 1, 16, sp.b o && ((o.ub && o.b.r.toNat ≥ 64) || (sp.bEven o && o.b.r.toNat % 2 != 0))⟩,
   ⟨5, 10, 1, 25, !sp.b o && o.ub⟩, ⟨6, 10, 1, 25, sp.b o && !o.ub⟩, ⟨5, 23, 1, 26, o.rsv2 != 0⟩]

/-- A format code that a tile can hold (R186). -/
def tileFmt (f : BitVec 4) : Bool := 2 ≤ f.toNat && f.toNat ≤ 10

/-- ADRAIN's MOD: RND 0 to 4, HALF only to a tile of 16-bit elements (R192). -/
def drainMod (dst : Bool) (o : OpX) : Bool :=
  (o.md.toNat % 8 ≤ 4) && (dst || !o.md.getLsbD 4) &&
  (!o.md.getLsbD 5 || (!o.md.getLsbD 4 && (o.fa == 2 || o.fa == 3)))

def mmaSpec : XSpec :=
  { ac := true, t1 := fun _ => true, t2 := true, fa := some fun o => tileFmt o.fa, fb := some fun o => tileFmt o.fb }
def adrainSpec : XSpec :=
  { ac := true, t1 := fun o => !o.md.getLsbD 4, b := fun o => o.md.getLsbD 4
    fa := some fun o => 1 ≤ o.fa.toNat && o.fa.toNat ≤ 10, mdZero := 0x40, md := drainMod true }
def adrainBypSpec : XSpec :=
  { ac := true, t1 := fun _ => true, fa := some fun o => tileFmt o.fa, mdZero := 0x40, md := drainMod false }
def azeroSpec : XSpec := { ac := true, mdZero := 0xFE }
def txpSpec : XSpec := { ac := true, t1 := fun _ => true, fa := some fun o => tileFmt o.fa, mdZero := 0xFE }
def tpermSpec : XSpec := { txpSpec with b := fun _ => true }
def trredSpec : XSpec := { txpSpec with mdZero := 0x80 }
def tileMoveSpec (nw : Bool) : XSpec :=
  { t1 := fun _ => true, b := fun _ => true, bEven := fun o => !o.md.getLsbD 0
    fa := some fun o => o.fa == 0 || tileFmt o.fa
    mdZero := if nw then 0x7E else 0xFE }

/-- The bits set in a mask. -/
def popCount {n : Nat} (x : BitVec n) : Nat := ((List.range n).filter fun i => x.getLsbD i).length

def gChecks (o : OpG) : List Chk :=
  [⟨5, 22, 0, 23, o.rsv != 0⟩,
   ⟨6, 19, 1, 0, popCount o.mask > 16 || (List.range 32).any fun i => o.mask.getLsbD i && o.base.toNat + i > 255⟩]

/-! ## Supervisor-only entries (check 7) -/

/-- Check 7 of R118: the entry, or the register it names, is for supervisor mode alone (R62, R342, R351, R376, R384, R385,
R418). -/
def supervisorOnly : Instr → Bool
  | .eret _ | .msend _ | .mrecv _ | .tinv _ | .lpin _ | .lunpin _ | .cflush _ | .cinv _ => true
  | .mfsr o => match csrInfo o.csrn.toNat with | some c => c.readSup | none => false
  | .mtsr o => match csrInfo o.csrn.toNat with | some c => c.write == some true | none => false
  | _ => false

/-! ## The checks of every entry -/

/-- What an entry does with the fields of its format; `none` for PLOP, whose every field is used whole, and for an event. -/
inductive EntryUse where
  | none
  | n (o : OpN)
  | u (d a pair : Bool) (o : OpU)
  | j (d a slot : Bool) (o : OpJ)
  | t (sp : TSpec) (o : OpT)
  | m (sp : MSpec) (o : OpM)
  | x (sp : XSpec) (o : OpX)
  | mfsr (o : OpS)
  | mtsr (o : OpS)
  | g (o : OpG)

/-- The fields of every entry. -/
def entryUse : Instr → EntryUse
  | .nop o => .n o
  | .bkpt o => .n o
  | .trap o => .u true false false o
  | .syscall o => .u true false false o
  | .bra o => .j false false false o
  | .brx o => .u false true true o
  | .call o => .j false false false o
  | .ret o => .n o
  | .eret o => .n o
  | .exit o => .n o
  | .spawn o => .j true true false o
  | .yield o => .n o
  | .bcol o => .j true true true o
  | .colrd o => .t colrdSpec o
  | .mfsr o => .mfsr o
  | .mtsr o => .mtsr o
  | .barGrp o => .n o
  | .barGang o => .n o
  | .signInit o => .t (signSpec true) o
  | .signArv o => .t (signSpec false) o
  | .signWait o => .t (signSpec false) o
  | .rgn o => .g o
  | .gcall o => .t gcallSpec o
  | .gret o => .n o
  | .migr o => .m (lineSpec .no) o
  | .plop _ => .none
  | .mov o => .u true true false o
  | .movi o => .t moviSpec o
  | .sel o => .t selSpec o
  | .dcinit o => .t (dcSpec true) o
  | .dcadd o => .t (dcSpec true) o
  | .dcwait o => .t (dcSpec false) o
  | .tenq o => .t tenqSpec o
  | .tdeq o => .t tdeqSpec o
  | .tdone o => .n o
  | .cbacq o => .t cbacqSpec o
  | .cbrel o => .t cbrelSpec o
  | .msend o => .t msendSpec o
  | .mrecv o => .t mrecvSpec o
  | .tinv o => .m tinvSpec o
  | .lpin o => .m (lineSpec .one) o
  | .lunpin o => .m (lineSpec .no) o
  | .cflush o => .m (lineSpec .no) o
  | .cinv o => .m (lineSpec .no) o
  | .add o => .t (mould2 ints true) o
  | .sub o => .t (mould2 ints true) o
  | .mul o => .t (mould2 ints true) o
  | .mulhi o => .t (mould2 ints false) o
  | .mad o => .t (mould3 ints true) o
  | .abs o => .t (mould1 [0, 2] true) o
  | .neg o => .t (mould1 [0, 2] true) o
  | .min o => .t (mould2 ints false) o
  | .max o => .t (mould2 ints false) o
  | .and o => .t (mould2 ints false) o
  | .or o => .t (mould2 ints false) o
  | .xor o => .t (mould2 ints false) o
  | .not o => .u true true false o
  | .shl o => .t (shiftSpec ints) o
  | .shr o => .t (shiftSpec [1, 2]) o
  | .shra o => .t (shiftSpec [0, 2]) o
  | .rot o => .t (shiftSpec [1, 2]) o
  | .bfi o => .t (mould3 ints false) o
  | .bfx o => .t (mould2 ints false) o
  | .brev o => .u true true false o
  | .clz o => .u true true false o
  | .popc o => .u true true false o
  | .lea o => .t leaSpec o
  | .idp4 o => .t (mould3 [0, 1] true) o
  | .cmpEq o => .t cmpSpec o
  | .cmpNe o => .t cmpSpec o
  | .cmpLt o => .t cmpSpec o
  | .cmpLe o => .t cmpSpec o
  | .cmpGt o => .t cmpSpec o
  | .cmpGe o => .t cmpSpec o
  | .fadd o => .t (float2 true) o
  | .fsub o => .t (float2 true) o
  | .fmul o => .t (float2 true) o
  | .ffma o => .t ffmaSpec o
  | .fmin o => .t (float2 false) o
  | .fmax o => .t (float2 false) o
  | .fcvt o => .t (fcvtSpec o) o
  | .frnd o => .t frndSpec o
  | .fcmpEq o => .t fcmpSpec o
  | .fcmpNe o => .t fcmpSpec o
  | .fcmpLt o => .t fcmpSpec o
  | .fcmpLe o => .t fcmpSpec o
  | .fcmpGt o => .t fcmpSpec o
  | .fcmpGe o => .t fcmpSpec o
  | .fcmpUn o => .t fcmpSpec o
  | .fcmpOrd o => .t fcmpSpec o
  | .pack o => .t (packSpec o) o
  | .unpack o => .t (unpackSpec o) o
  | .rcp o => .t sfuSpec o
  | .rsq o => .t sfuSpec o
  | .sqrt o => .t sfuSpec o
  | .ex2 o => .t sfuSpec o
  | .lg2 o => .t sfuSpec o
  | .sin o => .t sfuSpec o
  | .cos o => .t sfuSpec o
  | .shflIdx o => .t shflSpec o
  | .shflUp o => .t shflSpec o
  | .shflDown o => .t shflSpec o
  | .shflXor o => .t shflSpec o
  | .voteAny o => .t (voteSpec .pred) o
  | .voteAll o => .t (voteSpec .pred) o
  | .voteBallot o => .t (voteSpec .one) o
  | .reduxAdd o => .t (reduxSpec true) o
  | .reduxMin o => .t (reduxSpec true) o
  | .reduxMax o => .t (reduxSpec true) o
  | .reduxAnd o => .t (reduxSpec false) o
  | .reduxOr o => .t (reduxSpec false) o
  | .reduxXor o => .t (reduxSpec false) o
  | .scanAdd o => .t (scanSpec true) o
  | .scanMin o => .t (scanSpec true) o
  | .scanMax o => .t (scanSpec true) o
  | .scanAnd o => .t (scanSpec false) o
  | .scanOr o => .t (scanSpec false) o
  | .scanXor o => .t (scanSpec false) o
  | .ld o => .m ldSpec o
  | .st o => .m stSpec o
  | .stm o => .m stmSpec o
  | .fence o => .m fenceSpec o
  | .cpy o => .m cpySpec o
  | .cpyCb o => .m cpyCbSpec o
  | .ridge o => .m ridgeSpec o
  | .atomAdd o => .m (atomSpec false false false false) o
  | .atomMin o => .m (atomSpec false false false false) o
  | .atomMax o => .m (atomSpec false false false false) o
  | .atomAnd o => .m (atomSpec false true false false) o
  | .atomOr o => .m (atomSpec false true false false) o
  | .atomXor o => .m (atomSpec false true false false) o
  | .atomExch o => .m (atomSpec false false true false) o
  | .atomCas o => .m (atomSpec true false false false) o
  | .redAdd o => .m (atomSpec false false false true) o
  | .redMin o => .m (atomSpec false false false true) o
  | .redMax o => .m (atomSpec false false false true) o
  | .redAnd o => .m (atomSpec false true false true) o
  | .redOr o => .m (atomSpec false true false true) o
  | .redXor o => .m (atomSpec false true false true) o
  | .dsopAdd o => .m (dsopSpec 0) o
  | .dsopMin o => .m (dsopSpec 1) o
  | .dsopMax o => .m (dsopSpec 2) o
  | .dsopAnd o => .m (dsopSpec 3) o
  | .dsopOr o => .m (dsopSpec 4) o
  | .dsopXor o => .m (dsopSpec 5) o
  | .dsopFma o => .m (dsopSpec 6) o
  | .dsredAdd o => .m (dsredSpec 0 false) o
  | .dsredMin o => .m (dsredSpec 1 false) o
  | .dsredMax o => .m (dsredSpec 2 false) o
  | .dsredAnd o => .m (dsredSpec 3 false) o
  | .dsredOr o => .m (dsredSpec 4 false) o
  | .dsredXor o => .m (dsredSpec 5 false) o
  | .dsredAddRet o => .m (dsredSpec 0 true) o
  | .dsredMinRet o => .m (dsredSpec 1 true) o
  | .dsredMaxRet o => .m (dsredSpec 2 true) o
  | .dsredAndRet o => .m (dsredSpec 3 true) o
  | .dsredOrRet o => .m (dsredSpec 4 true) o
  | .dsredXorRet o => .m (dsredSpec 5 true) o
  | .mma o => .x mmaSpec o
  | .adrain o => .x adrainSpec o
  | .adrainByp o => .x adrainBypSpec o
  | .azero o => .x azeroSpec o
  | .tld o => .x (tileMoveSpec true) o
  | .tst o => .x (tileMoveSpec false) o
  | .txp o => .x txpSpec o
  | .tperm o => .x tpermSpec o
  | .trred o => .x trredSpec o
  | .illegalEncoding _ => .none
  | .lineFill _ _ _ _ => .none
  | .longLatencyReturn _ _ _ => .none
  | .waitResume _ _ _ => .none
  | .issueOpportunity _ _ => .none
  | .colwaitResume _ _ => .none
  | .drowsyEntry _ _ => .none
  | .storeApply _ _ => .none
  | .leaseExpiry _ _ => .none
  | .scTicket _ => .none
  | .directoryRequest _ _ _ _ => .none
  | .invack _ _ _ => .none
  | .ownerAck _ _ _ => .none
  | .putRequest _ _ _ => .none
  | .invReceive _ _ _ => .none
  | .fwdGets _ _ _ => .none
  | .fwdGetx _ _ _ => .none
  | .grantOrData _ _ _ => .none
  | .putack _ _ _ => .none
  | .dsmBankOperation _ _ => .none
  | .copyRegister _ _ => .none
  | .copyLaneComplete _ _ => .none
  | .cbClaim _ _ => .none
  | .cbSlotFilled _ _ _ => .none
  | .copySourceError _ _ _ => .none
  | .matrixEntryStart _ => .none
  | .matrixEntryComplete _ _ => .none
  | .drainWriteComplete _ _ => .none
  | .tldComplete _ _ _ => .none
  | .tstComplete _ _ => .none
  | .watchedStore _ _ _ => .none
  | .pendingLaunchEntry _ => .none
  | .tenqEntry _ => .none
  | .taskDispatch _ => .none
  | .reservingTimeout _ => .none
  | .reservationComplete _ => .none
  | .hintTimeout _ => .none
  | .deferredGroupStart _ _ => .none
  | .groupEnd _ _ => .none
  | .taskDrainComplete _ => .none
  | .launchComplete _ => .none
  | .startBlockGo _ _ => .none
  | .registerPortRead _ => .none
  | .registerPortWrite _ => .none
  | .responseResume _ _ => .none
  | .responseSkip _ _ => .none
  | .responseRedirect _ _ _ => .none
  | .responseKill _ _ => .none
  | .preqRequest _ _ _ => .none
  | .preqRelease _ _ => .none
  | .graceTimerExpiry _ _ => .none
  | .saveTimerExpiry _ _ => .none
  | .savedTaskRestore _ => .none
  | .discardRestart _ => .none
  | .vfReset _ => .none
  | .shootdownRetract _ => .none
  | .shootdownCommit _ => .none
  | .retractReceive _ _ => .none
  | .retractAck _ _ => .none
  | .retractAckReceive _ _ => .none
  | .commitReceive _ _ => .none
  | .shootdownTimeout _ _ => .none
  | .satusDeliver _ => .none
  | .walkComplete _ _ _ _ => .none
  | .hostWalkReply _ _ _ _ _ => .none
  | .migrationCommit _ _ => .none
  | .heartbeat _ => .none
  | .masterSilenceTimeout => .none
  | .masterElection => .none
  | .checkpointHold => .none
  | .checkpointStopped => .none
  | .checkpointRelease => .none
  | .linkSilenceTimeout _ _ => .none
  | .linkUncorrectableError _ _ => .none
  | .fatalErrorSignal _ _ => .none
  | .suspicionReport _ _ => .none
  | .diefail _ _ => .none
  | .masterReceive _ _ => .none
  | .islandReset _ _ => .none
  | .islandPowerGate _ _ => .none
  | .islandPowerUp _ _ => .none
  | .clampDrainTimeout _ _ => .none
  | .partitionSet _ _ _ => .none
  | .svccapWrite _ _ => .none
  | .leasecfgWrite _ _ => .none
  | .dsmOwnerWrite _ _ _ => .none
  | .slotMapWrite _ _ _ => .none
  | .courseTableWrite _ _ _ => .none
  | .markScrubPending _ _ _ => .none
  | .scrubStep _ => .none
  | .patrolScrub _ _ => .none
  | .softError _ => .none
  | .fabricWriteReceive _ => .none
  | .ridgeReceive _ => .none
  | .ridgeApply _ _ => .none
  | .atomicPacketReceive _ => .none
  | .atomicResponseReceive _ => .none
  | .loadPacketReceive _ => .none
  | .resendRequestReceive _ => .none
  | .digestReceive _ _ _ _ _ => .none
  | .digestPeriod _ => .none
  | .lostPacketTimeout _ _ => .none
  | .confirmationTimeout _ _ => .none
  | .atomicResendTimeout _ _ _ => .none
  | .courseAllocation _ => .none
  | .courseClose _ => .none
  | .dieStart _ _ => .none
  | .quoteRequest _ _ _ _ => .none
  | .supplySag _ => .none
  | .supplyRecovery _ => .none
  | .restoreCommand _ _ _ _ => .none
  | .registerWrite _ _ _ _ => .none
  | .leaseGrant _ _ => .none
  | .homeStoreArrival _ _ => .none
  | .linkCreditReturn _ _ _ _ => .none
  | .hostMemoryAccess _ _ _ _ => .none
  | .clockSlowing _ _ _ => .none
  | .islandResetEnd _ _ => .none

/-- The entry's checks 5 and 6, in parcel and bit order; an event has none. -/
def EntryUse.checks (conv : Nat) : EntryUse → List Chk
  | .none => []
  | .n o => nChecks o
  | .u d a pair o => uChecks d a pair o
  | .j d a slot o => jChecks d a slot o
  | .t sp o => tChecks sp conv o
  | .m sp o => mChecks sp o
  | .x sp o => xChecks sp conv o
  | .mfsr o => mfsrChecks o
  | .mtsr o => mtsrChecks o
  | .g o => gChecks o
def fieldChecks (conv : Nat) (i : Instr) : List Chk := (entryUse i).checks conv

/-! ## The vector registers that an entry names -/

/-- The registers of a source field. -/
def SUse.count (wide : Bool) : SUse → Nat
  | .no => 0
  | .one => 1
  | .pair => 2
  | .typed => if wide then 2 else 1
  | .span n | .many n => n
def DUse.count (wide : Bool) : DUse → Nat
  | .no | .pred => 0
  | .one => 1
  | .typed => if wide then 2 else 1
  | .span n => n
/-- Registers from `r` on, unless the field is uniform. -/
def regsFrom (uniform : Bool) (r n : Nat) : List Nat := if uniform then [] else (List.range n).map (r + ·)
/-- The vector registers that an entry's fields name (R59). -/
def EntryUse.vregs : EntryUse → List Nat
  | .none | .n _ | .x _ _ => []
  | .u d a pair o => (if d then [o.d.toNat] else []) ++ regsFrom (!a) o.a.r.toNat (if pair then 2 else 1)
  | .j d a slot o => (if d && !slot then [o.d.toNat] else []) ++ regsFrom (!a) o.a.r.toNat 1
  | .t sp o =>
    let wide := o.ty == 2
    regsFrom o.ua o.a.r.toNat (sp.a.count wide) ++
    (if o.lit.isSome then [] else regsFrom o.ub o.b.r.toNat (sp.b.count wide)) ++
    (match sp.c with
      | .src use => regsFrom o.uc (o.c.toNat % 256) (use.count wide)
      | _ => []) ++
    regsFrom o.du o.d.toNat (sp.d.count wide)
  | .m sp o =>
    regsFrom o.ua o.a.r.toNat ((sp.a o).count false) ++ regsFrom o.ub o.b.r.toNat ((sp.b o).count false) ++
    regsFrom false o.d.toNat ((sp.d o).count false)
  | .mfsr o => regsFrom o.du o.d.toNat (if csrWide o.csrn.toNat then 2 else 1)
  | .mtsr o => regsFrom o.ua o.a.r.toNat (if csrWide o.csrn.toNat then 2 else 1)
  | .g o => ((List.range 32).filter fun i => o.mask.getLsbD i).map (o.base.toNat + ·)
/-- The vector registers that an instruction accesses: those of its fields, CALL's v0:v1 and the arguments of GCALL. Of format N
only RET and GRET read registers. -/
def vregsOf : Instr → List Nat
  | .ret _ => [0, 1]
  | .gret _ => List.range 8
  | .call _ => [0, 1]
  | .gcall o => (List.range (o.c.toNat % 16)).map (o.d.toNat + ·)
  | i => (entryUse i).vregs

/-- The field that checks 5 and 6 of R118 report, when one fails. `conv` is the kernel's .conv value. -/
def illegalField (conv : Nat) (i : Instr) : Option DecodeError := firstBad (fieldChecks conv i)

end Sys2Proof.Machine
end

