-- ==== Sys2Proof/WellFormed.lean ====
section
/-! DEFINITION. Which instruction terms an encoding can give: those that pass the field checks of R118 with every
convergence register covered. -/

namespace Sys2Proof

/-- Format I alone is listed for GCALL and MOVI (R117), so their terms carry a literal. -/
def Instr.lengthOk : Instr → Bool
  | .gcall o => o.lit.isSome
  | .movi o => o.lit.isSome
  | _ => true

/-- A well-formed instruction: no field check of R118 fails. The .conv count, which belongs to the kernel, is taken at
its largest, 16. -/
def Instr.wf (i : Instr) : Bool := (Machine.illegalField 16 i).isNone && i.lengthOk

end Sys2Proof
end

