-- ==== Sys2Proof/Decode.lean ====
section
/-! DEFINITION. The decoder of fetch lines (R97 to R119) and the encoder, both from the encoding tables of the spec: one
layout per format, one table of opcodes (R123). -/

namespace Sys2Proof

/-- The operands of an encoding, by format; the lengths of T and I, and of M and ML, tell the two apart. -/
inductive Operands where
  | n (o : OpN) | u (o : OpU) | p (o : OpP) | t (o : OpT) | m (o : OpM) | j (o : OpJ) | s (o : OpS) | x (o : OpX) | g (o : OpG)
deriving DecidableEq, Repr

/-- The formats as the opcode map lists them (R117): `ti` is T or I, `i` is I alone, `mml` is M or ML. -/
inductive FormatSet where
  | n | u | p | ti | i | mml | j | s | x | g
deriving DecidableEq, Repr

/-- The formats that an opcode of R123 lists; none for an unassigned opcode. -/
def opcodeFormats (opc : Nat) : Option FormatSet :=
  match opc with
  | 0x000 => some .n
  | 0x001 => some .n
  | 0x002 => some .u
  | 0x003 => some .u
  | 0x004 => some .j
  | 0x005 => some .u
  | 0x006 => some .j
  | 0x007 => some .n
  | 0x008 => some .n
  | 0x009 => some .n
  | 0x00A => some .j
  | 0x00B => some .n
  | 0x00C => some .j
  | 0x00D => some .ti
  | 0x00E => some .s
  | 0x00F => some .s
  | 0x010 => some .n
  | 0x011 => some .n
  | 0x012 => some .ti
  | 0x013 => some .ti
  | 0x014 => some .ti
  | 0x015 => some .g
  | 0x016 => some .i
  | 0x017 => some .n
  | 0x018 => some .mml
  | 0x019 => some .p
  | 0x01A => some .u
  | 0x01B => some .i
  | 0x01C => some .ti
  | 0x020 => some .ti
  | 0x021 => some .ti
  | 0x022 => some .ti
  | 0x023 => some .ti
  | 0x024 => some .ti
  | 0x025 => some .n
  | 0x026 => some .ti
  | 0x027 => some .ti
  | 0x028 => some .ti
  | 0x029 => some .ti
  | 0x02A => some .mml
  | 0x02B => some .mml
  | 0x02C => some .mml
  | 0x02D => some .mml
  | 0x02E => some .mml
  | 0x040 => some .ti
  | 0x041 => some .ti
  | 0x042 => some .ti
  | 0x043 => some .ti
  | 0x044 => some .ti
  | 0x045 => some .ti
  | 0x046 => some .ti
  | 0x047 => some .ti
  | 0x048 => some .ti
  | 0x049 => some .ti
  | 0x04A => some .ti
  | 0x04B => some .ti
  | 0x04C => some .u
  | 0x04D => some .ti
  | 0x04E => some .ti
  | 0x04F => some .ti
  | 0x050 => some .ti
  | 0x051 => some .ti
  | 0x052 => some .ti
  | 0x053 => some .u
  | 0x054 => some .u
  | 0x055 => some .u
  | 0x056 => some .ti
  | 0x057 => some .ti
  | 0x058 => some .ti
  | 0x059 => some .ti
  | 0x05A => some .ti
  | 0x05B => some .ti
  | 0x05C => some .ti
  | 0x05D => some .ti
  | 0x080 => some .ti
  | 0x081 => some .ti
  | 0x082 => some .ti
  | 0x083 => some .ti
  | 0x084 => some .ti
  | 0x085 => some .ti
  | 0x086 => some .ti
  | 0x087 => some .ti
  | 0x088 => some .ti
  | 0x089 => some .ti
  | 0x08A => some .ti
  | 0x08B => some .ti
  | 0x08C => some .ti
  | 0x08D => some .ti
  | 0x08E => some .ti
  | 0x08F => some .ti
  | 0x090 => some .ti
  | 0x091 => some .ti
  | 0x092 => some .ti
  | 0x093 => some .ti
  | 0x094 => some .ti
  | 0x095 => some .ti
  | 0x096 => some .ti
  | 0x097 => some .ti
  | 0x098 => some .ti
  | 0x0A0 => some .ti
  | 0x0A1 => some .ti
  | 0x0A2 => some .ti
  | 0x0A3 => some .ti
  | 0x0A4 => some .ti
  | 0x0A5 => some .ti
  | 0x0A6 => some .ti
  | 0x0A8 => some .ti
  | 0x0A9 => some .ti
  | 0x0AA => some .ti
  | 0x0AB => some .ti
  | 0x0AC => some .ti
  | 0x0AD => some .ti
  | 0x0B0 => some .ti
  | 0x0B1 => some .ti
  | 0x0B2 => some .ti
  | 0x0B3 => some .ti
  | 0x0B4 => some .ti
  | 0x0B5 => some .ti
  | 0x0C0 => some .mml
  | 0x0C1 => some .mml
  | 0x0C2 => some .mml
  | 0x0C3 => some .mml
  | 0x0C4 => some .mml
  | 0x0C5 => some .mml
  | 0x0C6 => some .mml
  | 0x0C8 => some .mml
  | 0x0C9 => some .mml
  | 0x0CA => some .mml
  | 0x0CB => some .mml
  | 0x0CC => some .mml
  | 0x0CD => some .mml
  | 0x0CE => some .mml
  | 0x0CF => some .mml
  | 0x0D0 => some .mml
  | 0x0D1 => some .mml
  | 0x0D2 => some .mml
  | 0x0D3 => some .mml
  | 0x0D4 => some .mml
  | 0x0D5 => some .mml
  | 0x0D8 => some .mml
  | 0x0D9 => some .mml
  | 0x0DA => some .mml
  | 0x0DB => some .mml
  | 0x0DC => some .mml
  | 0x0DD => some .mml
  | 0x0DE => some .mml
  | 0x0E0 => some .mml
  | 0x0E1 => some .mml
  | 0x0E2 => some .mml
  | 0x0E3 => some .mml
  | 0x0E4 => some .mml
  | 0x0E5 => some .mml
  | 0x0E8 => some .mml
  | 0x0E9 => some .mml
  | 0x0EA => some .mml
  | 0x0EB => some .mml
  | 0x0EC => some .mml
  | 0x0ED => some .mml
  | 0x0F0 => some .x
  | 0x0F1 => some .x
  | 0x0F2 => some .x
  | 0x0F3 => some .x
  | 0x0F4 => some .x
  | 0x0F5 => some .x
  | 0x0F6 => some .x
  | 0x0F7 => some .x
  | 0x0F8 => some .x
  | _ => none

/-- The length code of an encoding that the listed formats allow (R97, R117). -/
def FormatSet.allows (f : FormatSet) (len : Nat) : Bool :=
  match f with
  | .n | .u | .p => len == 0
  | .ti | .mml => len == 1 || len == 2
  | .i => len == 2
  | .j | .s | .x | .g => len == 1

/-- The instruction of an opcode with operands of its format; none for operands of another format. -/
def instrOf (opc : Nat) (ops : Operands) : Option Instr :=
  match ops with
  | .n o =>
    match opc with
    | 0x000 => some (.nop o)
    | 0x001 => some (.bkpt o)
    | 0x007 => some (.ret o)
    | 0x008 => some (.eret o)
    | 0x009 => some (.exit o)
    | 0x00B => some (.yield o)
    | 0x010 => some (.barGrp o)
    | 0x011 => some (.barGang o)
    | 0x017 => some (.gret o)
    | 0x025 => some (.tdone o)
    | _ => none
  | .u o =>
    match opc with
    | 0x002 => some (.trap o)
    | 0x003 => some (.syscall o)
    | 0x005 => some (.brx o)
    | 0x01A => some (.mov o)
    | 0x04C => some (.not o)
    | 0x053 => some (.brev o)
    | 0x054 => some (.clz o)
    | 0x055 => some (.popc o)
    | _ => none
  | .p o =>
    match opc with
    | 0x019 => some (.plop o)
    | _ => none
  | .t o =>
    match opc with
    | 0x00D => some (.colrd o)
    | 0x012 => some (.signInit o)
    | 0x013 => some (.signArv o)
    | 0x014 => some (.signWait o)
    | 0x016 => some (.gcall o)
    | 0x01B => some (.movi o)
    | 0x01C => some (.sel o)
    | 0x020 => some (.dcinit o)
    | 0x021 => some (.dcadd o)
    | 0x022 => some (.dcwait o)
    | 0x023 => some (.tenq o)
    | 0x024 => some (.tdeq o)
    | 0x026 => some (.cbacq o)
    | 0x027 => some (.cbrel o)
    | 0x028 => some (.msend o)
    | 0x029 => some (.mrecv o)
    | 0x040 => some (.add o)
    | 0x041 => some (.sub o)
    | 0x042 => some (.mul o)
    | 0x043 => some (.mulhi o)
    | 0x044 => some (.mad o)
    | 0x045 => some (.abs o)
    | 0x046 => some (.neg o)
    | 0x047 => some (.min o)
    | 0x048 => some (.max o)
    | 0x049 => some (.and o)
    | 0x04A => some (.or o)
    | 0x04B => some (.xor o)
    | 0x04D => some (.shl o)
    | 0x04E => some (.shr o)
    | 0x04F => some (.shra o)
    | 0x050 => some (.rot o)
    | 0x051 => some (.bfi o)
    | 0x052 => some (.bfx o)
    | 0x056 => some (.lea o)
    | 0x057 => some (.idp4 o)
    | 0x058 => some (.cmpEq o)
    | 0x059 => some (.cmpNe o)
    | 0x05A => some (.cmpLt o)
    | 0x05B => some (.cmpLe o)
    | 0x05C => some (.cmpGt o)
    | 0x05D => some (.cmpGe o)
    | 0x080 => some (.fadd o)
    | 0x081 => some (.fsub o)
    | 0x082 => some (.fmul o)
    | 0x083 => some (.ffma o)
    | 0x084 => some (.fmin o)
    | 0x085 => some (.fmax o)
    | 0x086 => some (.fcvt o)
    | 0x087 => some (.frnd o)
    | 0x088 => some (.fcmpEq o)
    | 0x089 => some (.fcmpNe o)
    | 0x08A => some (.fcmpLt o)
    | 0x08B => some (.fcmpLe o)
    | 0x08C => some (.fcmpGt o)
    | 0x08D => some (.fcmpGe o)
    | 0x08E => some (.fcmpUn o)
    | 0x08F => some (.fcmpOrd o)
    | 0x090 => some (.pack o)
    | 0x091 => some (.unpack o)
    | 0x092 => some (.rcp o)
    | 0x093 => some (.rsq o)
    | 0x094 => some (.sqrt o)
    | 0x095 => some (.ex2 o)
    | 0x096 => some (.lg2 o)
    | 0x097 => some (.sin o)
    | 0x098 => some (.cos o)
    | 0x0A0 => some (.shflIdx o)
    | 0x0A1 => some (.shflUp o)
    | 0x0A2 => some (.shflDown o)
    | 0x0A3 => some (.shflXor o)
    | 0x0A4 => some (.voteAny o)
    | 0x0A5 => some (.voteAll o)
    | 0x0A6 => some (.voteBallot o)
    | 0x0A8 => some (.reduxAdd o)
    | 0x0A9 => some (.reduxMin o)
    | 0x0AA => some (.reduxMax o)
    | 0x0AB => some (.reduxAnd o)
    | 0x0AC => some (.reduxOr o)
    | 0x0AD => some (.reduxXor o)
    | 0x0B0 => some (.scanAdd o)
    | 0x0B1 => some (.scanMin o)
    | 0x0B2 => some (.scanMax o)
    | 0x0B3 => some (.scanAnd o)
    | 0x0B4 => some (.scanOr o)
    | 0x0B5 => some (.scanXor o)
    | _ => none
  | .m o =>
    match opc with
    | 0x018 => some (.migr o)
    | 0x02A => some (.tinv o)
    | 0x02B => some (.lpin o)
    | 0x02C => some (.lunpin o)
    | 0x02D => some (.cflush o)
    | 0x02E => some (.cinv o)
    | 0x0C0 => some (.ld o)
    | 0x0C1 => some (.st o)
    | 0x0C2 => some (.stm o)
    | 0x0C3 => some (.fence o)
    | 0x0C4 => some (.cpy o)
    | 0x0C5 => some (.cpyCb o)
    | 0x0C6 => some (.ridge o)
    | 0x0C8 => some (.atomAdd o)
    | 0x0C9 => some (.atomMin o)
    | 0x0CA => some (.atomMax o)
    | 0x0CB => some (.atomAnd o)
    | 0x0CC => some (.atomOr o)
    | 0x0CD => some (.atomXor o)
    | 0x0CE => some (.atomExch o)
    | 0x0CF => some (.atomCas o)
    | 0x0D0 => some (.redAdd o)
    | 0x0D1 => some (.redMin o)
    | 0x0D2 => some (.redMax o)
    | 0x0D3 => some (.redAnd o)
    | 0x0D4 => some (.redOr o)
    | 0x0D5 => some (.redXor o)
    | 0x0D8 => some (.dsopAdd o)
    | 0x0D9 => some (.dsopMin o)
    | 0x0DA => some (.dsopMax o)
    | 0x0DB => some (.dsopAnd o)
    | 0x0DC => some (.dsopOr o)
    | 0x0DD => some (.dsopXor o)
    | 0x0DE => some (.dsopFma o)
    | 0x0E0 => some (.dsredAdd o)
    | 0x0E1 => some (.dsredMin o)
    | 0x0E2 => some (.dsredMax o)
    | 0x0E3 => some (.dsredAnd o)
    | 0x0E4 => some (.dsredOr o)
    | 0x0E5 => some (.dsredXor o)
    | 0x0E8 => some (.dsredAddRet o)
    | 0x0E9 => some (.dsredMinRet o)
    | 0x0EA => some (.dsredMaxRet o)
    | 0x0EB => some (.dsredAndRet o)
    | 0x0EC => some (.dsredOrRet o)
    | 0x0ED => some (.dsredXorRet o)
    | _ => none
  | .j o =>
    match opc with
    | 0x004 => some (.bra o)
    | 0x006 => some (.call o)
    | 0x00A => some (.spawn o)
    | 0x00C => some (.bcol o)
    | _ => none
  | .s o =>
    match opc with
    | 0x00E => some (.mfsr o)
    | 0x00F => some (.mtsr o)
    | _ => none
  | .x o =>
    match opc with
    | 0x0F0 => some (.mma o)
    | 0x0F1 => some (.adrain o)
    | 0x0F2 => some (.adrainByp o)
    | 0x0F3 => some (.azero o)
    | 0x0F4 => some (.tld o)
    | 0x0F5 => some (.tst o)
    | 0x0F6 => some (.txp o)
    | 0x0F7 => some (.tperm o)
    | 0x0F8 => some (.trred o)
    | _ => none
  | .g o =>
    match opc with
    | 0x015 => some (.rgn o)
    | _ => none

/-- The opcode and the operands of an instruction; none for an event. -/
def Instr.view : Instr → Option (Nat × Operands)
  | .nop o => some (0x000, .n o)
  | .bkpt o => some (0x001, .n o)
  | .trap o => some (0x002, .u o)
  | .syscall o => some (0x003, .u o)
  | .bra o => some (0x004, .j o)
  | .brx o => some (0x005, .u o)
  | .call o => some (0x006, .j o)
  | .ret o => some (0x007, .n o)
  | .eret o => some (0x008, .n o)
  | .exit o => some (0x009, .n o)
  | .spawn o => some (0x00A, .j o)
  | .yield o => some (0x00B, .n o)
  | .bcol o => some (0x00C, .j o)
  | .colrd o => some (0x00D, .t o)
  | .mfsr o => some (0x00E, .s o)
  | .mtsr o => some (0x00F, .s o)
  | .barGrp o => some (0x010, .n o)
  | .barGang o => some (0x011, .n o)
  | .signInit o => some (0x012, .t o)
  | .signArv o => some (0x013, .t o)
  | .signWait o => some (0x014, .t o)
  | .rgn o => some (0x015, .g o)
  | .gcall o => some (0x016, .t o)
  | .gret o => some (0x017, .n o)
  | .migr o => some (0x018, .m o)
  | .plop o => some (0x019, .p o)
  | .mov o => some (0x01A, .u o)
  | .movi o => some (0x01B, .t o)
  | .sel o => some (0x01C, .t o)
  | .dcinit o => some (0x020, .t o)
  | .dcadd o => some (0x021, .t o)
  | .dcwait o => some (0x022, .t o)
  | .tenq o => some (0x023, .t o)
  | .tdeq o => some (0x024, .t o)
  | .tdone o => some (0x025, .n o)
  | .cbacq o => some (0x026, .t o)
  | .cbrel o => some (0x027, .t o)
  | .msend o => some (0x028, .t o)
  | .mrecv o => some (0x029, .t o)
  | .tinv o => some (0x02A, .m o)
  | .lpin o => some (0x02B, .m o)
  | .lunpin o => some (0x02C, .m o)
  | .cflush o => some (0x02D, .m o)
  | .cinv o => some (0x02E, .m o)
  | .add o => some (0x040, .t o)
  | .sub o => some (0x041, .t o)
  | .mul o => some (0x042, .t o)
  | .mulhi o => some (0x043, .t o)
  | .mad o => some (0x044, .t o)
  | .abs o => some (0x045, .t o)
  | .neg o => some (0x046, .t o)
  | .min o => some (0x047, .t o)
  | .max o => some (0x048, .t o)
  | .and o => some (0x049, .t o)
  | .or o => some (0x04A, .t o)
  | .xor o => some (0x04B, .t o)
  | .not o => some (0x04C, .u o)
  | .shl o => some (0x04D, .t o)
  | .shr o => some (0x04E, .t o)
  | .shra o => some (0x04F, .t o)
  | .rot o => some (0x050, .t o)
  | .bfi o => some (0x051, .t o)
  | .bfx o => some (0x052, .t o)
  | .brev o => some (0x053, .u o)
  | .clz o => some (0x054, .u o)
  | .popc o => some (0x055, .u o)
  | .lea o => some (0x056, .t o)
  | .idp4 o => some (0x057, .t o)
  | .cmpEq o => some (0x058, .t o)
  | .cmpNe o => some (0x059, .t o)
  | .cmpLt o => some (0x05A, .t o)
  | .cmpLe o => some (0x05B, .t o)
  | .cmpGt o => some (0x05C, .t o)
  | .cmpGe o => some (0x05D, .t o)
  | .fadd o => some (0x080, .t o)
  | .fsub o => some (0x081, .t o)
  | .fmul o => some (0x082, .t o)
  | .ffma o => some (0x083, .t o)
  | .fmin o => some (0x084, .t o)
  | .fmax o => some (0x085, .t o)
  | .fcvt o => some (0x086, .t o)
  | .frnd o => some (0x087, .t o)
  | .fcmpEq o => some (0x088, .t o)
  | .fcmpNe o => some (0x089, .t o)
  | .fcmpLt o => some (0x08A, .t o)
  | .fcmpLe o => some (0x08B, .t o)
  | .fcmpGt o => some (0x08C, .t o)
  | .fcmpGe o => some (0x08D, .t o)
  | .fcmpUn o => some (0x08E, .t o)
  | .fcmpOrd o => some (0x08F, .t o)
  | .pack o => some (0x090, .t o)
  | .unpack o => some (0x091, .t o)
  | .rcp o => some (0x092, .t o)
  | .rsq o => some (0x093, .t o)
  | .sqrt o => some (0x094, .t o)
  | .ex2 o => some (0x095, .t o)
  | .lg2 o => some (0x096, .t o)
  | .sin o => some (0x097, .t o)
  | .cos o => some (0x098, .t o)
  | .shflIdx o => some (0x0A0, .t o)
  | .shflUp o => some (0x0A1, .t o)
  | .shflDown o => some (0x0A2, .t o)
  | .shflXor o => some (0x0A3, .t o)
  | .voteAny o => some (0x0A4, .t o)
  | .voteAll o => some (0x0A5, .t o)
  | .voteBallot o => some (0x0A6, .t o)
  | .reduxAdd o => some (0x0A8, .t o)
  | .reduxMin o => some (0x0A9, .t o)
  | .reduxMax o => some (0x0AA, .t o)
  | .reduxAnd o => some (0x0AB, .t o)
  | .reduxOr o => some (0x0AC, .t o)
  | .reduxXor o => some (0x0AD, .t o)
  | .scanAdd o => some (0x0B0, .t o)
  | .scanMin o => some (0x0B1, .t o)
  | .scanMax o => some (0x0B2, .t o)
  | .scanAnd o => some (0x0B3, .t o)
  | .scanOr o => some (0x0B4, .t o)
  | .scanXor o => some (0x0B5, .t o)
  | .ld o => some (0x0C0, .m o)
  | .st o => some (0x0C1, .m o)
  | .stm o => some (0x0C2, .m o)
  | .fence o => some (0x0C3, .m o)
  | .cpy o => some (0x0C4, .m o)
  | .cpyCb o => some (0x0C5, .m o)
  | .ridge o => some (0x0C6, .m o)
  | .atomAdd o => some (0x0C8, .m o)
  | .atomMin o => some (0x0C9, .m o)
  | .atomMax o => some (0x0CA, .m o)
  | .atomAnd o => some (0x0CB, .m o)
  | .atomOr o => some (0x0CC, .m o)
  | .atomXor o => some (0x0CD, .m o)
  | .atomExch o => some (0x0CE, .m o)
  | .atomCas o => some (0x0CF, .m o)
  | .redAdd o => some (0x0D0, .m o)
  | .redMin o => some (0x0D1, .m o)
  | .redMax o => some (0x0D2, .m o)
  | .redAnd o => some (0x0D3, .m o)
  | .redOr o => some (0x0D4, .m o)
  | .redXor o => some (0x0D5, .m o)
  | .dsopAdd o => some (0x0D8, .m o)
  | .dsopMin o => some (0x0D9, .m o)
  | .dsopMax o => some (0x0DA, .m o)
  | .dsopAnd o => some (0x0DB, .m o)
  | .dsopOr o => some (0x0DC, .m o)
  | .dsopXor o => some (0x0DD, .m o)
  | .dsopFma o => some (0x0DE, .m o)
  | .dsredAdd o => some (0x0E0, .m o)
  | .dsredMin o => some (0x0E1, .m o)
  | .dsredMax o => some (0x0E2, .m o)
  | .dsredAnd o => some (0x0E3, .m o)
  | .dsredOr o => some (0x0E4, .m o)
  | .dsredXor o => some (0x0E5, .m o)
  | .dsredAddRet o => some (0x0E8, .m o)
  | .dsredMinRet o => some (0x0E9, .m o)
  | .dsredMaxRet o => some (0x0EA, .m o)
  | .dsredAndRet o => some (0x0EB, .m o)
  | .dsredOrRet o => some (0x0EC, .m o)
  | .dsredXorRet o => some (0x0ED, .m o)
  | .mma o => some (0x0F0, .x o)
  | .adrain o => some (0x0F1, .x o)
  | .adrainByp o => some (0x0F2, .x o)
  | .azero o => some (0x0F3, .x o)
  | .tld o => some (0x0F4, .x o)
  | .tst o => some (0x0F5, .x o)
  | .txp o => some (0x0F6, .x o)
  | .tperm o => some (0x0F7, .x o)
  | .trred o => some (0x0F8, .x o)
  | .illegalEncoding _ => none
  | .lineFill _ _ _ _ => none
  | .longLatencyReturn _ _ _ => none
  | .waitResume _ _ _ => none
  | .issueOpportunity _ _ => none
  | .colwaitResume _ _ => none
  | .drowsyEntry _ _ => none
  | .storeApply _ _ => none
  | .leaseExpiry _ _ => none
  | .scTicket _ => none
  | .directoryRequest _ _ _ _ => none
  | .invack _ _ _ => none
  | .ownerAck _ _ _ => none
  | .putRequest _ _ _ => none
  | .invReceive _ _ _ => none
  | .fwdGets _ _ _ => none
  | .fwdGetx _ _ _ => none
  | .grantOrData _ _ _ => none
  | .putack _ _ _ => none
  | .dsmBankOperation _ _ => none
  | .copyRegister _ _ => none
  | .copyLaneComplete _ _ => none
  | .cbClaim _ _ => none
  | .cbSlotFilled _ _ _ => none
  | .copySourceError _ _ _ => none
  | .matrixEntryStart _ => none
  | .matrixEntryComplete _ _ => none
  | .drainWriteComplete _ _ => none
  | .tldComplete _ _ _ => none
  | .tstComplete _ _ => none
  | .watchedStore _ _ _ => none
  | .pendingLaunchEntry _ => none
  | .tenqEntry _ => none
  | .taskDispatch _ => none
  | .reservingTimeout _ => none
  | .reservationComplete _ => none
  | .hintTimeout _ => none
  | .deferredGroupStart _ _ => none
  | .groupEnd _ _ => none
  | .taskDrainComplete _ => none
  | .launchComplete _ => none
  | .startBlockGo _ _ => none
  | .registerPortRead _ => none
  | .registerPortWrite _ => none
  | .responseResume _ _ => none
  | .responseSkip _ _ => none
  | .responseRedirect _ _ _ => none
  | .responseKill _ _ => none
  | .preqRequest _ _ _ => none
  | .preqRelease _ _ => none
  | .graceTimerExpiry _ _ => none
  | .saveTimerExpiry _ _ => none
  | .savedTaskRestore _ => none
  | .discardRestart _ => none
  | .vfReset _ => none
  | .shootdownRetract _ => none
  | .shootdownCommit _ => none
  | .retractReceive _ _ => none
  | .retractAck _ _ => none
  | .retractAckReceive _ _ => none
  | .commitReceive _ _ => none
  | .shootdownTimeout _ _ => none
  | .satusDeliver _ => none
  | .walkComplete _ _ _ _ => none
  | .hostWalkReply _ _ _ _ _ => none
  | .migrationCommit _ _ => none
  | .heartbeat _ => none
  | .linkSilenceTimeout _ _ => none
  | .linkUncorrectableError _ _ => none
  | .fatalErrorSignal _ _ => none
  | .suspicionReport _ _ => none
  | .masterSilenceTimeout => none
  | .diefail _ _ => none
  | .masterReceive _ _ => none
  | .islandReset _ _ => none
  | .islandPowerGate _ _ => none
  | .islandPowerUp _ _ => none
  | .clampDrainTimeout _ _ => none
  | .partitionSet _ _ _ => none
  | .svccapWrite _ _ => none
  | .leasecfgWrite _ _ => none
  | .dsmOwnerWrite _ _ _ => none
  | .slotMapWrite _ _ _ => none
  | .courseTableWrite _ _ _ => none
  | .markScrubPending _ _ _ => none
  | .scrubStep _ => none
  | .patrolScrub _ _ => none
  | .softError _ => none
  | .fabricWriteReceive _ => none
  | .ridgeReceive _ => none
  | .ridgeApply _ _ => none
  | .atomicPacketReceive _ => none
  | .atomicResponseReceive _ => none
  | .loadPacketReceive _ => none
  | .resendRequestReceive _ => none
  | .digestReceive _ _ _ _ _ => none
  | .digestPeriod _ => none
  | .lostPacketTimeout _ _ => none
  | .confirmationTimeout _ _ => none
  | .atomicResendTimeout _ _ _ => none
  | .courseAllocation _ => none
  | .courseClose _ => none
  | .dieStart _ _ => none
  | .masterElection => none
  | .quoteRequest _ _ _ _ => none
  | .supplySag _ => none
  | .supplyRecovery _ => none
  | .checkpointHold => none
  | .checkpointStopped => none
  | .checkpointRelease => none
  | .restoreCommand _ _ _ _ => none
  | .registerWrite _ _ _ _ => none
  | .leaseGrant _ _ => none
  | .homeStoreArrival _ _ => none
  | .linkCreditReturn _ _ _ _ => none
  | .hostMemoryAccess _ _ _ _ => none
  | .clockSlowing _ _ _ => none
  | .islandResetEnd _ _ => none

/-! ## Field layouts -/

/-- Bits `hi`:`lo` with `n` = hi − lo + 1, of a parcel. -/
def field (lo n : Nat) (x : Word) : BitVec n := x.extractLsb' lo n

/-- The guard of a first parcel (R105). -/
def guardOf (x : Word) : Guard := { neg := x.getLsbD 14, p := field 11 3 x }

/-- A 9-bit source field at bit `lo` (R107). -/
def srcOf (lo : Nat) (x : Word) : Src := { w := x.getLsbD (lo + 8), r := field lo 8 x }

/-- The operands of an encoding in one of the listed formats, from its parcels (R109 to R116). -/
def operandsOf (f : FormatSet) (len : Nat) (p0 p1 p2 : Word) : Operands :=
  let g := guardOf p0
  let third : Option (BitVec 32) := if len == 2 then some p2 else none
  match f with
  | .n => .n { g := g, rsv := field 15 17 p0 }
  | .u => .u { g := g, d := field 15 8 p0, a := srcOf 23 p0 }
  | .p => .p { g := g, pd := field 15 3 p0, pa := field 18 3 p0, pb := field 21 3 p0, lut := field 24 8 p0 }
  | .ti | .i => .t
      { g := g, d := field 15 8 p0, a := srcOf 23 p0, b := srcOf 0 p1, c := field 9 9 p1, ty := field 18 4 p1,
        rnd := field 22 3 p1, sat := p1.getLsbD 25, ua := p1.getLsbD 26, ub := p1.getLsbD 27, uc := p1.getLsbD 28,
        du := p1.getLsbD 29, rsv := field 30 2 p1, lit := third }
  | .mml => .m
      { g := g, d := field 15 8 p0, a := srcOf 23 p0, b := srcOf 0 p1, ty := field 9 4 p1, raw := p1.getLsbD 13,
        space := field 14 2 p1, scope := field 16 3 p1, ord := field 19 2 p1, size := field 21 3 p1, ua := p1.getLsbD 24,
        ub := p1.getLsbD 25, off := field 26 6 p1, off32 := third }
  | .j => .j { g := g, d := field 15 8 p0, a := srcOf 23 p0, disp := p1 }
  | .s => .s
      { g := g, d := field 15 8 p0, a := srcOf 23 p0, csrn := field 0 10 p1, du := p1.getLsbD 10, ua := p1.getLsbD 11,
        rsv := field 12 20 p1 }
  | .x => .x
      { g := g, cv := field 15 4 p0, t1 := field 19 4 p0, t2 := field 23 4 p0, ac := field 27 3 p0,
        rsv1 := field 30 2 p0, fa := field 0 4 p1, fb := field 4 4 p1, md := field 8 8 p1, b := srcOf 16 p1,
        ub := p1.getLsbD 25, rsv2 := field 26 6 p1 }
  | .g => .g { g := g, base := field 15 8 p0, rsv := field 23 9 p0, mask := p1 }

/-- Check 3 to 6 of R118 on the parcels of an instruction of length code `len`, with the .conv value of its kernel. -/
def decodeChecked (conv len : Nat) (p0 p1 p2 : Word) : Except DecodeError Instr :=
  let opc := (field 2 9 p0).toNat
  match opcodeFormats opc with
  | none => .error (.illegal 0 0 2)
  | some f =>
    if f.allows len then
      match instrOf opc (operandsOf f len p0 p1 p2) with
      | none => .error (.illegal 0 0 2)
      | some i =>
        match Machine.illegalField conv i with
        | some e => .error e
        | none => .ok i
    else .error (.illegal 1 0 0)

/-- The instruction at parcel `k` of a line, from its own parcel and the two after it: checks 1 to 6 of R118. Check 2 is
R98's: the instruction must end at parcel 14 or before. -/
def decodeAt (conv k : Nat) (p0 p1 p2 : Word) : Except DecodeError Instr :=
  let len := (field 0 2 p0).toNat
  if len == 3 then .error (.illegal 1 0 0)
  else if k + len ≥ 15 then .error (.illegal 1 0 0)
  else decodeChecked conv len p0 p1 p2

/-- A fetch line: its sixteen parcels by address (R97). -/
abbrev Line := List Word

/-- Parcel `k` of a fetch line. -/
def lineParcel (x : Line) (k : Nat) : Word := x.getD k 0

/-- The instruction that starts at parcel `k` of line `x`. -/
def decodeLine (conv : Nat) (x : Line) (k : Nat) : Except DecodeError Instr :=
  decodeAt conv k (lineParcel x k) (lineParcel x (k + 1)) (lineParcel x (k + 2))

/-- Parcels that an instruction takes, by its length code (R97, R98). -/
def parcelCount (p0 : Word) : Nat :=
  match (field 0 2 p0).toNat with
  | 1 => 2
  | 2 => 3
  | _ => 1

/-- The walk of R98 from parcel `k`, with fuel for the line's fifteen parcels: the instruction starts. -/
def startsFrom (x : Line) : Nat → Nat → List Nat
  | 0, _ => []
  | fuel + 1, k => if k ≥ 15 then [] else k :: startsFrom x fuel (k + parcelCount (lineParcel x k))

/-- The instruction starts of a line (R98). -/
def lineStarts (x : Line) : List Nat := startsFrom x 15 0

/-- The parcels of an encoding whose bits are `w`, numbered as the opcode table numbers them: parcel k is bits
32k + 31 to 32k, and every bit from `nbits` on is zero. -/
def tableParcels (nbits w : Nat) : Line :=
  let v := w % 2 ^ Nat.min nbits 96
  [BitVec.ofNat 32 v, BitVec.ofNat 32 (v >>> 32), BitVec.ofNat 32 (v >>> 64)]

/-- The instruction read from an encoding of at most three parcels. -/
def decodeTableWord (nbits w : Nat) : Option Instr :=
  match decodeLine 16 (tableParcels nbits w) 0 with
  | .ok i => some i
  | .error _ => none

/-! ## The encoder -/

/-- A guard in bits 14:11. -/
def guardBits (g : Guard) : BitVec 4 := BitVec.ofBool g.neg ++ g.p

/-- A source field of 9 bits. -/
def srcBits (s : Src) : BitVec 9 := BitVec.ofBool s.w ++ s.r

/-- The low fifteen bits of a first parcel (R105). -/
def headBits (g : Guard) (opc len : Nat) : BitVec 15 := (guardBits g ++ BitVec.ofNat 9 opc) ++ BitVec.ofNat 2 len

/-- The parcels of an encoding of format T or I. -/
def OpT.len (o : OpT) : Nat := if o.lit.isSome then 3 else 2
/-- The parcels of an encoding of format M or ML. -/
def OpM.len (o : OpM) : Nat := if o.off32.isSome then 3 else 2

/-- The guard of operands (R105). -/
def Operands.guard : Operands → Guard
  | .n o => o.g | .u o => o.g | .p o => o.g | .t o => o.g | .m o => o.g | .j o => o.g | .s o => o.g | .x o => o.g | .g o => o.g

/-- The length code of operands. -/
def Operands.len : Operands → Nat
  | .n _ | .u _ | .p _ => 0
  | .t o => if o.lit.isSome then 2 else 1
  | .m o => if o.off32.isSome then 2 else 1
  | .j _ | .s _ | .x _ | .g _ => 1

/-- Bits 31:15 of the first parcel (R109 to R116). -/
def Operands.head : Operands → BitVec 17
  | .n o => o.rsv
  | .u o => srcBits o.a ++ o.d
  | .p o => ((o.lut ++ o.pb) ++ o.pa) ++ o.pd
  | .t o => srcBits o.a ++ o.d
  | .m o => srcBits o.a ++ o.d
  | .j o => srcBits o.a ++ o.d
  | .s o => srcBits o.a ++ o.d
  | .x o => (((o.rsv1 ++ o.ac) ++ o.t2) ++ o.t1) ++ o.cv
  | .g o => o.rsv ++ o.base

/-- The second parcel; zero where the format has none. -/
def Operands.second : Operands → BitVec 32
  | .n _ | .u _ | .p _ => 0
  | .t o => o.rsv ++ (BitVec.ofBool o.du ++ (BitVec.ofBool o.uc ++ (BitVec.ofBool o.ub ++ (BitVec.ofBool o.ua ++
      (BitVec.ofBool o.sat ++ (o.rnd ++ (o.ty ++ (o.c ++ srcBits o.b))))))))
  | .m o => o.off ++ (BitVec.ofBool o.ub ++ (BitVec.ofBool o.ua ++ (o.size ++ (o.ord ++ (o.scope ++ (o.space ++
      (BitVec.ofBool o.raw ++ (o.ty ++ srcBits o.b))))))))
  | .j o => o.disp
  | .s o => o.rsv ++ (BitVec.ofBool o.ua ++ (BitVec.ofBool o.du ++ o.csrn))
  | .x o => o.rsv2 ++ (BitVec.ofBool o.ub ++ (srcBits o.b ++ (o.md ++ (o.fb ++ o.fa))))
  | .g o => o.mask

/-- The third parcel; zero where the encoding has none. -/
def Operands.third : Operands → BitVec 32
  | .t o => o.lit.getD 0
  | .m o => o.off32.getD 0
  | _ => 0

/-- The parcels of an instruction, first to third (the ones past its length are zero); none for an event. -/
def encode (i : Instr) : Option (Word × Word × Word) :=
  match i.view with
  | none => none
  | some (opc, ops) => some (ops.head ++ headBits ops.guard opc ops.len, ops.second, ops.third)

end Sys2Proof
end

