-- ==== Sys2Proof/Machine/State.lean ====
section
/-! DEFINITION. The state of one GN8 package as plain data: what the spec gives the fibres, groups, cores,
dies and the package, and the reasons a step can stop. Sparse tables list only what differs from the value
an unlisted key stands for; `State.reset` lists the spec's own reset values that are not zero. -/

namespace Sys2Proof.Machine

/-! ## Registers and fibres (R28, R50 to R66) -/

/-- The 2-bit state of a vector or uniform register (R54); a poison mark records its cause (R57). -/
inductive RegSt where
  | empty
  | full
  | poisoned (cause : Nat)
deriving DecidableEq, Repr

/-- A register with its state. A register that nothing has written reads zero and is full (R58). -/
structure Reg where
  val : Word := 0
  st : RegSt := .full
  /-- an uncorrectable soft error struck the register while it was empty: a producer still owes it a value (R56, R57) -/
  owed : Bool := false
deriving DecidableEq, Repr

/-- What a waiting fibre waits for (R47, and the holds the entries give). -/
inductive Wait where
  /-- WaitFull on a register: class 0 vector, 1 uniform (R8, R56) -/
  | reg (cls n : Nat)
  /-- a predicate pending for a VOTE (R54) -/
  | pred (n : Nat)
  /-- a translation miss, queued at a walker, or sent to the host (R271, R314) -/
  | walk (pasid : Nat) (va : DWord) (host : Bool)
  /-- a second signing of an open set (R40) -/
  | sign (c : Nat)
  /-- SIGN.wait, a drain to scratchpad or TST: until the operation the set stands for is done -/
  | signed (c : Nat)
  /-- a barrier; true for BAR.gang (R333) -/
  | barrier (gang : Bool)
  /-- DCWAIT on a counter of the die; the fibre goes on at `next` once the count has been zero (R346) -/
  | counter (id : Nat) (next : DWord)
  /-- CBACQ on a block with FILLED = 0, its destination empty: the register, where the fibre goes on, and its place in the claim
  order (R213, R341) -/
  | buffer (block d : Nat) (next : DWord) (seq : Nat)
  /-- GRET on a register of the caller that an open convergence set still owes (R56) -/
  | callerReg (n : Nat)
  /-- a release: the fibre's earlier accesses and, at .pkg, its WCT (R163, R168) -/
  | release (scope : Nat)
  /-- an acquire's hold until earlier loads have returned (R163) -/
  | acquire (scope : Nat)
  /-- a tile that is busy or has a pending write (R202) -/
  | tile (t : Nat)
  /-- a full matrix queue (R190) -/
  | matrixQueue
  /-- a last signer with too few range-lock entries (R210) -/
  | lockEntries
  /-- a copy whose execution has too few range-lock entries; COPY_REGISTER ends the wait (R210) -/
  | copyRoom
  /-- MFSR or MTSR of FSTAT behind an unfinished flag-setting operation (R92) -/
  | flags
  /-- arrival at a migration, with the fibre's address and effective home (8 for a page of another package), the next instruction
  and its lane (R280) -/
  | migrate (addr : DWord) (home : Nat) (next : DWord) (lane : Nat)
  /-- a gate window of the target domain that is not free (R253) -/
  | gateWindow (domain : Nat)
  /-- TENQ while the queue's die is full; the fibre goes on at `next` once its task has entered (R415) -/
  | tenqRoom (task : Nat) (next : DWord)
  /-- MSEND until the channel takes the message (R384) -/
  | satusRoom
  /-- MRECV on an empty queue, 0 Satus, 1 service, its destinations empty: the first register, where the fibre goes on, and its
  place in the order of the waiting fibres (R385) -/
  | receive (queue d : Nat) (next : DWord) (seq : Nat)
  /-- CFLUSH until the line is quiet and the fibre's earlier stores to it are performed (R342) -/
  | flush (pa : Nat)
  /-- an access to a line of another package until the fibre's earlier ones to it are answered (R160, R293) -/
  | sameLine (pa : Nat)
  /-- ATOM.sc until the fibre's earlier ATOM.sc is performed (R175) -/
  | ticket
  /-- a slot with 64 atomics unanswered (R300) -/
  | atomicRoom (slot : Nat)
  /-- a RIDGE until the slot's earlier atomics are answered (R300) -/
  | atomics (slot : Nat)
deriving DecidableEq, Repr

/-- A fibre inside a call gate (R253 to R255): the caller's registers are kept whole and come back at GRET
or when the call is aborted (R256). -/
structure Gate where
  ret : DWord
  callPc : DWord
  vd : Nat
  nres : Nat
  num : Nat
  tdom : Nat
  tset : Nat
  gregs : Nat
  base : Nat
  callerRegs : SMap Reg
  callerBase : Nat
  /-- the caller's predicate word, its pending predicates, its flags and FTZ -/
  callerPreds : BitVec 8 := 0x80
  callerPend : BitVec 8 := 0
  callerFlags : BitVec 5 := 0
  callerFtz : Bool := false
deriving DecidableEq, Repr

/-- A fibre (R28). The registers not listed are zero and full (R29, R58). -/
structure Fibre where
  pc : DWord
  preds : BitVec 8 := 0x80
  /-- predicates pending for a VOTE (R54, R396) -/
  predPend : BitVec 8 := 0
  windowBase : Nat := 0
  sup : Bool := false
  /-- FSTAT bits 4:0: INX UFL OFL DVZ INV (R63) -/
  flags : BitVec 5 := 0
  ftz : Bool := false
  wct : Nat := 0
  signs : BitVec 16 := 0
  regs : SMap Reg := []
  fcause : Word := 0
  faddr : DWord := 0
  fpc : DWord := 0
  faulted : Bool := false
  wait : Option Wait := none
  /-- the opportunity at which the fibre last became ready (R233) -/
  readyAt : Nat := 0
  /-- the slots of the instruction that waits for its release are charged already (R290, R408) -/
  charged : Bool := false
  /-- the opportunity before which YIELD ranks the fibre behind its domain's others (R389) -/
  yieldTo : Nat := 0
  gate : Option Gate := none
  /-- the fibre runs its domain's save routine (R260) -/
  saving : Bool := false
  /-- the fibre has left its save routine by ERET (R351) -/
  stopped : Bool := false
deriving DecidableEq, Repr

/-! ## Groups (R28, R41, R50) -/

/-- The fields of a kernel header that the machine uses (R131). `cls` is the class in force. -/
structure Header where
  kent : DWord
  kscr : Nat
  kgrps : Nat
  kfibs : Nat
  kregs : Nat
  kuni : Nat
  ktiles : Nat
  kaccs : Nat
  kconv : Nat
  trapClass : Bool
  kframe : Nat
  hints : List (Nat × Nat)
deriving DecidableEq, Repr

/-- One signer of an open convergence set: its fibre, its scalar operands and where its result goes. -/
structure Signer where
  fibre : Nat
  x : DWord
  y : Word
  p : Bool
  d : Nat
  /-- destination registers that a later write has reached before the set (R56) -/
  passed : List Nat := []
deriving DecidableEq, Repr

/-- A convergence register (R37): the expected count, the signers so far (S is their number), and the
fields of the first signer that later signers must match (R39). -/
structure Conv where
  e : Nat := 1
  signers : List Signer := []
  key : List Nat := []
deriving DecidableEq, Repr

/-- The states of a group (R232), with the start held back by R236. A col wait keeps the slot, the need, its start, the domain in force
for the waiting fibres, and whether the group runs its save routine. -/
inductive GroupSt where
  | deferred (until_ : Nat)
  | run
  | colwait (slot need since : Nat) (domain : Nat) (saving : Bool)
  /-- a trap-class group at its forced halt, until its producers and engine operations are done (R260) -/
  | halting
  | saving
  | migrating (targetDie : Nat)
  | ending
  /-- no group yet: the storage of a landing slot set aside for a migration (R279) -/
  | landing
deriving DecidableEq, Repr

/-- A resident group (R41): its storage, its fibres and its place in its gang. -/
structure Group where
  hdr : Header
  st : GroupSt := .run
  domain : Nat := 0
  set : Nat := 0
  gangId : Nat := 0
  grpIx : Nat := 0
  /-- the task whose gang the group belongs to; none for a supervisor group -/
  task : Option Nat := none
  pasid : Nat := 0
  /-- a supervisor group whose start block has PHYS = 1 (R12) -/
  phys : Bool := false
  /-- first physical vector granule, first uniform granule, banks, tiles and accumulators reserved -/
  vbase : Nat := 0
  ubase : Nat := 0
  banks : List Nat := []
  ptiles : List Nat := []
  paccs : List Nat := []
  uregs : SMap Reg := []
  /-- TC0 to TC15, unlisted at the reset value of R185 -/
  tcs : SMap DWord := []
  /-- byte b of tile t at key 32768 t + b: rows from 0, the side-store from 16384 (R68, R184) -/
  tiles : SMap Byte := []
  /-- element [i][j] of accumulator n at key 16384 n + 128 i + j (R187) -/
  accs : SMap Word := []
  /-- bit n: accumulator n holds INT32 elements (R65) -/
  accInt : BitVec 8 := 0
  convs : SMap Conv := []
  scratch : SMap Byte := []
  fibres : SMap Fibre := []
  /-- vector granules in drowsy retention, granule k of fibre f at 32 f + k, and of its gate window at 32 (1024 + f) + k (R59) -/
  drowsy : List Nat := []
  /-- the largest WCT of fibres that have left the group (R168, R235) -/
  wct : Nat := 0
deriving DecidableEq, Repr

/-! ## Engines of a core -/

/-- What a long-latency producer still owes its fibre (R55): the registers and the values it will write
(class 0 vector, 1 uniform), the predicates, the flags it raises, and its state. -/
inductive ReturnSt where
  /-- the value is there; the next LONG_LATENCY_RETURN may write it -/
  | ready
  /-- the value waits for the request of this number in `State.flights` -/
  | away (flight : Nat)
  /-- ACCFMT: waits for the matrix entries of these numbers (R65) -/
  | matrix (entries : List Nat)
  /-- the request ended with this error and poisons its destination (R57) -/
  | failed (cause : Nat)
deriving DecidableEq, Repr

structure Return where
  id : Nat
  slot : Nat
  fibre : Nat
  dests : List (Nat × Nat × Word)
  flags : BitVec 5 := 0
  /-- a special-function result or a typed load: FSTAT accesses wait for it (R92) -/
  holdsFlags : Bool := false
  /-- an acquire: later accesses of the fibre wait until it has returned (R163) -/
  acq : Bool := false
  /-- the value of a load, an atomic or a bank operation, which an uncorrectable error can spoil (R57), and which FENCE waits for (R363) -/
  data : Bool := false
  /-- a typed load: the request that fetches its block scale, the scale, and the bytes that have arrived before it (R78, R372) -/
  scaleFlight : Option Nat := none
  scale : Nat := 0x60
  raw : Option (List Byte) := none
  /-- an acquire does not return before its die's time has reached what any die showed when it was performed (R24, R164) -/
  after : Nat := 0
  st : ReturnSt := .ready
deriving DecidableEq, Repr

/-- One entry set of the range-lock table (R209, R210): the lines of one execution of one kind. Scratchpad
lines of a group carry its slot; global lines are compared by virtual address. -/
structure Lock where
  owner : Nat
  domain : Nat
  slot : Nat
  /-- 0 global, 1 scratchpad -/
  space : Nat
  dest : Bool
  lines : List Nat
  entries : Nat
deriving DecidableEq, Repr

/-- One lane of a copy (R208, R211, R212). -/
structure CopyLane where
  fibre : Nat
  /-- the address of the source and of the destination as the program names them; for .cb the destination is the offset claimed -/
  src : Nat
  dst : Nat
  /-- physical addresses of a global source and of a global or DSM destination -/
  srcPa : Nat := 0
  dstPa : Nat := 0
  /-- slots of a source in another package, and of a write to another die or package -/
  srcSlot : Option Nat := none
  dstSlot : Option Nat := none
  key : Nat := 0
  /-- dependence counter, or the control block of CPY.cb -/
  ctr : Nat
  /-- the load request that fetches a source of another package, and its bytes once they have arrived -/
  fetch : Option Nat := none
  data : Option (List Byte) := none
  /-- a write to another package: the slot's epoch that its line has joined (R294, R403) -/
  epoch : Option Nat := none
  /-- CPY.cb: bytes of a slot have been claimed for the lane -/
  claimed : Bool := false
  /-- the lane's write has reached its home and is not applied there yet (R167) -/
  sent : Bool := false
  /-- the bytes are written, with this completion time; the decrement waits for the time of R168 -/
  written : Option Nat := none
  /-- the lane met an error, and signals nothing (R216) -/
  failed : Bool := false
  done : Bool := false
deriving DecidableEq, Repr

/-- One copy execution registered or waiting at the core's copy engine. -/
structure Copy where
  id : Nat
  slot : Nat
  domain : Nat
  n : Nat
  /-- destination space: 0 .g, 1 .sp, 2 .ds; 3 a circular buffer -/
  space : Nat
  lanes : List CopyLane
  /-- false while the execution waits for lock entries (R210); its fibres then go on at `next` -/
  registered : Bool := true
  next : DWord := 0
  /-- the lock set: space, destination or source, lines -/
  locks : List (Nat × Bool × List Nat) := []
deriving DecidableEq, Repr

/-- The open slot of a circular buffer (R212): the group's slot, the block, the slot's offset and size, the bytes claimed so
far, and whether some claimed bytes can never be written (R216). -/
structure CbOpen where
  slot : Nat
  block : Nat
  base : Nat
  size : Nat
  pos : Nat := 0
  stuck : Bool := false
deriving DecidableEq, Repr

/-- The operations of the matrix unit and of tile transfers (R190, R421). -/
inductive MOp where
  | mma | adrain | adrainByp | azero | txp | tperm | trred | tld | tst
deriving DecidableEq, Repr

/-- One row of a tile transfer: its address as the program gives it, its physical address (the offset for .sp), and the physical
addresses of the first and last scale bytes of the row (R421). -/
structure TileRow where
  va : Nat
  pa : Nat
  sc0 : Nat := 0
  sc1 : Nat := 0
  /-- the first scale byte's virtual address -/
  sva : Option Nat := none
  /-- slots of the row and of its scale bytes when they lie on another die (R287) -/
  slot : Option Nat := none
  sslot : Option Nat := none
  /-- the clamps of an island have cut off the row, and its scale bytes (R16) -/
  cut : Bool := false
  scut : Bool := false
deriving DecidableEq, Repr

/-- One lane's share of a request: its bytes from `addr` on, an atomic's compare value, and the return it fills. `decode` says
how the bytes read become registers: 0 raw bytes, 1 + c elements of page format c decoded, 17 + c their codes (R371), 33 the block scale
of the return (R78). -/
structure Part where
  fibre : Nat
  addr : Nat
  size : Nat
  data : List Byte := []
  cmp : DWord := 0
  ret : Option Nat := none
  decode : Nat := 0
  /-- the translation used: PASID, first virtual byte and size of the page (R272); none for physical addressing -/
  page : Option (Nat × Nat × Nat) := none
deriving DecidableEq, Repr

/-- An entry of the matrix queue, or a tile transfer of the copy engine. `tc1` and `tc2` are the TC values in force when
the set completed; `aux` is TPERM's index vector; `waits` numbers the pending writes it follows. -/
structure MEntry where
  id : Nat
  slot : Nat
  op : MOp
  ac : Nat
  t1 : Nat
  t2 : Nat
  fa : Nat
  fb : Nat
  md : Nat
  tc1 : DWord
  tc2 : DWord
  addr : Nat := 0
  rows : List TileRow := []
  aux : List Byte := []
  members : List Nat := []
  conv : Nat := 0
  waits : List Nat := []
  started : Bool := false
  /-- TST: the largest completion time of its writes (R422), and the writes still to send, once the tile has been read: slot, and the
  parts of one line -/
  t : Nat := 0
  todo : List (Option Nat × List Part) := []
deriving DecidableEq, Repr

/-- A read-only copy of a line of another die held under a lease (R143, R166). -/
structure LCopy where
  data : List Byte
  expiry : Nat
deriving DecidableEq, Repr

/-- The stable states of a line in an L1 (R143). -/
inductive L1St where
  | m | o | e | s | i
deriving DecidableEq, Repr

/-- A translation-cache entry (R271), tagged with PASID and domain. `big` marks a 256 MiB leaf. -/
structure TlbEntry where
  pasid : Nat
  domain : Nat
  vpage : Nat
  big : Bool
  entry : BitVec 128
deriving DecidableEq, Repr

/-- A table pointer in a walk cache (R271): the pointer to the table of `level`, and the address bits above that table's index. -/
structure WalkEntry where
  pasid : Nat
  domain : Nat
  level : Nat
  vtag : Nat
  entry : BitVec 128
deriving DecidableEq, Repr

/-- A write of an open epoch kept in the retransmission buffer (R289, R298). -/
structure EpochBuf where
  epoch : Nat
  gen : Nat := 0
  writes : List Packet := []
  ridge : Option Packet := none
  charge : Nat := 0
  closedAt : Nat := 0
deriving DecidableEq, Repr

/-- An atomic packet that is not answered (R300): its tag, when it was last sent, and how often it was sent again. -/
structure AtomOut where
  tag : Nat
  pkt : Packet
  since : Nat
  resends : Nat := 0
deriving DecidableEq, Repr

/-- The state of a destination slot beside its slot-map entry (R286 to R289, R300). -/
structure SlotState where
  ceiling : Nat := 0x0FFFFFFF
  cause : Nat := 0
  /-- link-credit and congestion-window bytes charged and not yet recovered -/
  linkUsed : Nat := 0
  cwndUsed : Nat := 0
  cwnd : Nat := 65536
  buf : List EpochBuf := []
  atomics : List AtomOut := []
  nextTag : Nat := 0
deriving DecidableEq, Repr

/-- A DPART set in force: the register and the extension entry read at its commit (R240). -/
structure Dpart where
  reg : DWord := 0
  ext : BitVec 256 := 0
deriving DecidableEq, Repr

/-- A core: 32 of a die, or a supervisor core (R11, R12). -/
structure Core where
  slots : SMap Group := []
  dparts : SMap Dpart := []
  dbgstat : BitVec 2 := 0
  slotSt : SMap SlotState := []
  returns : List Return := []
  locks : List Lock := []
  copies : List Copy := []
  cbOpen : List CbOpen := []
  queue : List MEntry := []
  running : List MEntry := []
  transfers : List MEntry := []
  /-- opportunities so far and each DPART set's credit (R233) -/
  opp : Nat := 0
  credit : SMap Int := []
  l1 : SMap L1St := []
  /-- outstanding upgrade or fill requests of the L1, and the L2 class of the last request for each line (R144) -/
  l1Req : SMap ReqKind := []
  l1Cls : SMap Nat := []
  /-- lines in the write-back buffer, with the eviction sent (R150) -/
  wb : SMap ReqKind := []
  lcopies : SMap LCopy := []
  icache : SMap (List Word) := []
  tlb : List TlbEntry := []
  /-- pages that the host has refused to the core's own hardware: PASID, domain, and the number of the 64 KiB page (R314) -/
  noPage : List (Nat × Nat × Nat) := []
  satus : List (BitVec 512) := []
  /-- fabric packets encrypted so far: the nonce count of R303 -/
  nonces : Nat := 0
deriving DecidableEq, Repr

/-! ## A die -/

/-- The states of a directory entry (R148). -/
inductive DirSt where
  | i | s | e | m | o | sm | fw
deriving DecidableEq, Repr

/-- A message between a home slice and an L1 of its die (R147 to R150). -/
inductive Msg where
  | inv | fwdGets (req : Nat) | fwdGetx (req : Nat) | grant | data (excl : Bool) | ownerData | putack
  | invack | ownerAck (getx : Bool) (wasE : Bool) | req (k : ReqKind)
deriving DecidableEq, Repr

/-- The directory entry of a line (R146) with its transaction and its queue. -/
structure Dir where
  st : DirSt := .i
  owner : Nat := 0
  sharers : BitVec 8 := 0
  acks : Nat := 0
  requester : Nat := 0
  grant : Bool := false
  queue : List (Nat × ReqKind) := []
deriving DecidableEq, Repr

/-- The state of the climb of a domain on a die (R262). -/
inductive ClimbSt where
  | soft | halted | held
deriving DecidableEq, Repr

/-- A pre-emption climb: affected cores with the time of the write that named them, and a recorded release. -/
structure Climb where
  domain : Nat
  st : ClimbSt
  cores : BitVec 32
  since : Nat
  release : Bool := false
  /-- gangs halted by a shoot-down timer: no cores, no HELD, and T2 counts from `since` (R277) -/
  shoot : Bool := false
  /-- the tasks whose gangs the climb affects, noted at the forced halt -/
  tasks : List Nat := []
deriving DecidableEq, Repr

/-- An open service record (R249): the 32 bytes, the unit and group, and the fibres it stopped. -/
structure Record where
  tag : Nat
  fcause : Word
  who : Word
  faddr : DWord
  fpc : DWord
  domain : Nat
  taken : Bool := false
  u : Nat := 0
  slot : Nat := 0
  fibres : List Nat := []
  /-- package time of the MRECV that took the record (R250) -/
  takenAt : Nat := 0
deriving DecidableEq, Repr

/-- A shoot-down as one die sees it (R276): its initiator and range, and whether it has been acknowledged. -/
structure Shoot where
  id : Nat
  initiator : Nat
  pasid : Nat
  va : Nat
  npg : Nat
  since : Nat
  acked : Bool := false
  /-- SDTIME has expired on the die (R277) -/
  timedOut : Bool := false
deriving DecidableEq, Repr

/-- A held ridge of a course (R296). -/
structure HeldRidge where
  epoch : Nat
  gen : Nat
  count : Nat
  pkt : Packet
  since : Nat
deriving DecidableEq, Repr

/-- The receiving state of a course beside its table entry: held ridges, the largest T of counted writes of the
two open epochs, and the results of the last 64 atomic tags (R296, R300). -/
structure CourseSt where
  held : List HeldRidge := []
  t0 : Nat := 0
  t1 : Nat := 0
  /-- when the generations expected for LOW and LOW + 1 became expected (R299) -/
  raised0 : Nat := 0
  raised1 : Nat := 0
  tags : List (Nat × DWord) := []
deriving DecidableEq, Repr

/-- A pin of a line in an L2 slice (R376): the owner is a gang's task or a supervisor core. -/
structure Pin where
  slice : Nat
  line : Nat
  owner : Nat ⊕ Nat
  pasid : Nat
  va : Nat
  count : Nat
deriving DecidableEq, Repr

/-- A task or launch context counter (R226, R347). -/
structure Counter where
  count : Nat := 0
  underBit : Bool := false
  overBit : Bool := false
  parked : List Nat := []
  recWct : Nat := 0
  recDies : BitVec 8 := 0
deriving DecidableEq, Repr

/-- The dynamic state of an island (R14, R16, R308). -/
structure Island where
  up : Bool := true
  resetting : Bool := false
  gated : Bool := false
  drainUntil : Nat := 0
  clk07 : Bool := false
deriving DecidableEq, Repr

/-- A firmware image as the flash holds it (R312): its bytes, its version, and the public key and signature that come with it. -/
structure Image where
  body : List Byte := []
  version : Nat := 0
  key : List Byte := []
  signature : List Byte := []
deriving DecidableEq, Repr

/-- A die. `ctl` holds the 64-bit words of the die's control space 0x60_0000_0000 to 0x60_FFFF_FFFF by die offset
divided by 8 (R138): the tables and registers of the spec at their addresses. -/
structure Die where
  time : Nat := 0
  clen : BitVec 8 := 0xFF
  stkp : BitVec 4 := 0xF
  capd : Bool := true
  step : BitVec 4 := 0
  /-- the fuses have the cap die present (R19, R310) -/
  capFuse : Bool := true
  islands : SMap Island := []
  ctl : SMap DWord := []
  errors : Nat := 0
  fabErrors : Nat := 0
  softErrors : Nat := 0
  dsm : SMap Byte := []
  /-- zero-pending 64-byte rows of DSM and scrub-pending 128-byte lines of the stacks, as half-open intervals -/
  dsmPend : List (Nat × Nat) := []
  scrub : List (Nat × Nat) := []
  /-- the scrub-pending ranges that the host zeroes: those marked in host-assisted mode (R157, R314) -/
  hostScrub : List (Nat × Nat) := []
  /-- lines that carry the poison of an uncorrectable error, with the bytes not yet overwritten (R155) -/
  poison : SMap (BitVec 128) := []
  /-- lines with an error that the ECC engine can correct, and the count of corrected errors (R155) -/
  flips : List Nat := []
  corrected : Nat := 0
  dirs : SMap Dir := []
  /-- messages in flight between core and slice, in order: (core, line, message) -/
  msgs : List (Nat × Nat × Msg) := []
  horizon : SMap Nat := []
  pins : List Pin := []
  /-- the lines that the L2 slices hold, by line index, each with its set (R144, R145) -/
  l2 : SMap Nat := []
  counters : SMap Counter := []
  records : List Record := []
  nextTag : Nat := 0
  climbs : List Climb := []
  shoots : List Shoot := []
  sharedTlb : SMap (List TlbEntry) := []
  /-- the table pointers that each island's walk cache holds (R271) -/
  walkCache : SMap (List WalkEntry) := []
  courses : SMap CourseSt := []
  /-- messages of the hardware that the die has received on group 0 and not yet acted on, oldest first (R274, R282) -/
  hardIn : List (BitVec 512) := []
  /-- the die's open shoot-down, the dies that have acknowledged it, the acknowledgements under way as (shoot-down, die), and the
  count of the die's shoot-downs (R275, R276) -/
  sd : Option Nat := none
  sdAcks : BitVec 8 := 0
  acksIn : List (Nat × Nat) := []
  nextSd : Nat := 0
  /-- the master has judged the die failed; it is a member of no group (R282) -/
  judged : Bool := false
  /-- the master die that the die knows of (R281) -/
  masterOf : Nat := 0
  suspects : List Nat := []
  /-- neighbours that have signalled a fatal error of their own (R281) -/
  fatals : List Nat := []
  lastHeard : SMap Nat := []
  /-- when the die last sent a heartbeat on its link to each other die (R281) -/
  beats : SMap Nat := []
  /-- links to other dies that carry nothing (R281) -/
  badLinks : List Nat := []
  /-- service time: of each domain in its present spell of records, all of the die's, that figure at the spell's start, and each
  domain's standing for its weight (R250) -/
  service : SMap Nat := []
  serviceAll : Nat := 0
  serviceFrom : SMap Nat := []
  serviceRank : SMap Nat := []
  alive : Bool := true
  started : Bool := true
  sag : Bool := false
  /-- when the supply recovered from the sag, once it has (R315) -/
  recovered : Option Nat := none
  /-- when the die last sent its digests (R298) -/
  lastDigest : Nat := 0
  /-- the host port's error counter (R220) -/
  portErrors : Nat := 0
  /-- EVQ of the die's PF (R309) -/
  evq : DWord := 0
  /-- the fused digest of the signing key and the fused rollback counter, and the images of flash slots A and B (R310, R312) -/
  fuseKey : List Byte := []
  fuseRollback : Nat := 0
  imageA : Image := {}
  imageB : Image := {}
  /-- the firmware that the die runs (R310, R313) -/
  firmware : List Byte := []
  /-- answers to course allocations that have arrived, oldest first: package, die and RESULT (R292) -/
  allocated : List (Nat × Nat × Nat) := []
  /-- the fabric port is up, and the channels retired of each stack (R21, R310) -/
  fabricUp : Bool := true
  retired : SMap Nat := []
  /-- bit i − 1: boot step i passed when the die last started (R310) -/
  passed : BitVec 8 := 0xFF
deriving DecidableEq, Repr

/-! ## The package -/

/-- The states of a task (R227). -/
inductive TaskSt where
  | pendingLaunch | waitingRoom | ready | parked | reserving | running | draining | done | refused | aborted | taken
deriving DecidableEq, Repr

/-- A task or work item (R222, R225, R227). -/
structure Task where
  st : TaskSt
  khdr : DWord
  arg : DWord
  waitc : Word
  donec : Word
  queue : Nat
  prio : Nat
  kind : Nat
  domain : Nat
  launch : Nat
  /-- the PASID under which the descriptor names its header (R219), and the header -/
  pasid : Nat
  hdr : Header
  /-- a pending launch task whose header lies in a range under shoot-down has not read it yet (R276) -/
  hdrRead : Bool := true
  readyAt : Nat := 0
  seq : Nat := 0
  /-- time of the first failed admission and the core that tried last (R230) -/
  failedAt : Option Nat := none
  failedCore : Nat := 0
  hintAt : Option Nat := none
  noHints : Bool := false
  chosen : List Nat := []
  gangId : Option Nat := none
  saved : Bool := false
  restart : Bool := false
  wct : Nat := 0
  dies : BitVec 8 := 0
  status : Nat := 0
  /-- the gang's groups as (unit, slot), and its landing slots -/
  groups : List (Nat × Nat) := []
  landing : List (Nat × Nat) := []
  tdone : Bool := false
  /-- requests, copies and transfers that the drain of R235 still waits for, by number -/
  drain : List Nat := []
  /-- the gang's groups, by GRPIX, whose fibres have all exited -/
  finished : List Nat := []
  /-- the largest WCT of each halted group's fibres, by GRPIX (R168) -/
  groupWct : SMap Nat := []
  /-- the open convergence sets of the groups saved under R49, by GRPIX -/
  savedConvs : SMap (SMap Conv) := []
  /-- for each saved group and fibre, whether it blocked in SIGN.wait, and its predicates pending for a VOTE (R49) -/
  savedWaits : SMap (SMap (Option Wait × BitVec 8)) := []
  /-- the largest T of a saved group's stores that were performed after it left, by GRPIX × 1024 + fibre (R168) -/
  lateWct : SMap Nat := []
  startWct : Nat := 0
  startMask : BitVec 8 := 0xFF
deriving DecidableEq, Repr

/-- A launch (R220, R221, R237), with the fields of its context as they stood when it was created: a later change of the context does
not reach it. -/
structure Launch where
  ctx : Nat
  seq : Nat
  domain : Nat
  root : Nat
  crec : Nat := 0
  maxpend : Nat := 1
  pasid : Nat := 0
  msie : Bool := false
  msixv : Nat := 0
  complete : Bool := false
  status : Nat := 0
deriving DecidableEq, Repr

/-- A request a core has issued that another place performs (R159): which bytes, how, and for whom. -/
inductive FlightKind where
  /-- a load of `size` bytes: acq at .pkg or .rack reads at the home and takes no lease (R169) -/
  | load (acq : Bool)
  | store
  /-- an atomic: operation 0 add … 7 cas, type code; ticketed for .sc (R175) -/
  | atomic (op ty : Nat) (sc : Bool)
  /-- a store to every replica (R181): the dies that have not applied it yet, the primary home among them -/
  | stm (dies : List Nat)
  /-- an operation at a DSM bank: 0 load, 1 store, 2 add … 7 xor, 8 fma -/
  | dsm (op ty : Nat)
deriving DecidableEq, Repr

/-- Who issued a request: fibres, a lane of a copy (R211), a tile store (R422), a fabric write, ridge or atomic that has arrived
(R295, R296, R300), or the host (R307). -/
inductive Origin where
  | fibre
  | copy (id lane : Nat)
  | tst (id : Nat)
  | fabric (p : Packet)
  | ridge (course epoch : Nat)
  | host
deriving DecidableEq, Repr

/-- A request in flight, all of whose parts name one line of `pa` (or one row of a DSM bank): the lanes combined in it are
served one after another, in the order of `parts` (R36). `arrived` says that its home has computed T (R167). -/
structure Flight where
  id : Nat
  u : Nat
  slot : Nat
  kind : FlightKind
  /-- the line or row, as a physical address -/
  pa : Nat
  parts : List Part
  arrived : Bool := false
  ticket : Option Nat := none
  t : Nat := 0
  /-- package time of the issuing die at issue -/
  since : Nat := 0
  /-- an atomic of another package: its slot and atomic tag -/
  slotTag : Option (Nat × Nat) := none
  /-- an acquire without a returned value: later accesses of the fibre wait for it (R350) -/
  acq : Bool := false
  origin : Origin := .fibre
  /-- the domain in force at issue, of an access to DSM that the owner table is checked for (R158) -/
  domain : Option Nat := none
  /-- the L2 class of the domain in force at issue (R144) -/
  cls : Nat := 8
  /-- an ATOM.sc of another package that waits for its ticket: its slot and packet (R175) -/
  packet : Option (Nat × Packet) := none
  /-- a store of a fibre to its region frame, which a forced halt waits for (R258) -/
  frame : Bool := false
  /-- a request of a fibre whose group has been saved: the task and GRPIX (R168) -/
  saved : Option (Nat × Nat) := none
  /-- the task whose WCT the request's completion time enters, when its drain covers the request (R235) -/
  task : Option Nat := none
deriving DecidableEq, Repr

/-- What the world does next: an event of the table, the passing of package time on each die's counter, or an act of software outside
the machine that the spec names (the registration of a kernel header, R131; EVQ, R309). -/
inductive Input where
  | event (i : Instr)
  /-- the package's own turn: the execution that is being issued, or the next issue opportunity (R233) -/
  | issue
  | elapse (ns : List Nat)
  | registerHeader (die domain pasid : Nat) (va : DWord) (trapClass : Bool)
  /-- the PF's driver writes EVQ (R309) -/
  | evqWrite (die : Nat) (value : DWord)
  /-- a host store to a VF's launch window that is not an aligned 8-byte store, and a host load from the window (R220) -/
  | windowStore (vf : Nat)
  | windowLoad (vf : Nat)
  /-- the host writes zero to a boot step's code (R310) -/
  | stepClear (die step : Nat)
  /-- the host programs a slot of a die's flash with a firmware image (R310, R312) -/
  | flashImage (die slot : Nat) (image : Image)
  /-- an error strikes a line of a die's stacks: one that the ECC engine corrects, or an uncorrectable one (R155) -/
  | stackError (die line : Nat) (correctable : Bool)
  /-- another package changes its own memory -/
  | rackWrite (pa : Nat) (bytes : List Byte)
  /-- the sending supervisor asks a die of another package for a course (R292): its core unit, the domain and the destination -/
  | courseRequest (u domain pkg die : Nat)
  /-- the supervisor drains a fabric slot by a close packet (R302) -/
  | slotDrain (u slot : Nat)
  /-- a digest whose tag fails arrives at a die (R303) -/
  | badDigest (die : Nat)
  /-- a die link stops carrying, or carries again (R281) -/
  | linkState (a b : Nat) (up : Bool)
  /-- a die fails: it does nothing more, and no die knows of it yet (R281) -/
  | dieFails (die : Nat)
  /-- the supervisor retires a channel of a stack (R21) -/
  | retireChannel (die stack channel : Nat)
  /-- the supply of a die has recovered after a sag (R315) -/
  | supplyUp (die : Nat)
deriving DecidableEq, Repr

/-- The fibres gathered into the execution that is being issued (R35): lane l is the l-th of `fibres`. -/
structure Sheaf where
  u : Nat
  slot : Nat
  fibres : List Nat
  pc : DWord
deriving DecidableEq, Repr

/-- A PF's event or an MSI, as the host sees it (R221, R309). -/
structure HostEvent where
  pf : Nat
  code : Nat
  domain : Nat
  die : Nat
  time : Nat
  seq : Nat
deriving DecidableEq, Repr

/-- A Satus message waiting in the sequencer (R273, R274): its group (none for unicast) and members. -/
structure Satus where
  group : Option Nat
  targets : List Nat
  seq : Nat
  /-- the 64 bytes as words of the message -/
  msg : BitVec 512
  sender : Nat
deriving DecidableEq, Repr

/-- The package. Core unit u is die × 64 + core, with supervisor core i of a die at 32 + i. -/
structure State where
  pkg : Nat := 0
  mem : List Host.Cell := []
  dies : SMap Die := []
  cores : SMap Core := []
  tasks : SMap Task := []
  nextTask : Nat := 0
  launches : SMap Launch := []
  nextLaunch : Nat := 0
  /-- watched stores held by a checkpoint, oldest first (R316) -/
  heldStores : List (Nat × Nat × DWord) := []
  checkpoint : Bool := false
  /-- event 7 has been raised for the checkpoint that stands -/
  stopRaised : Bool := false
  /-- the bytes that the last host read returned (R220, R307) -/
  hostRead : List Byte := []
  /-- memory of other packages, by physical address, as walkers and the scheduler meet it there (R272); it changes by `Input.rackWrite` -/
  rack : SMap Byte := []
  /-- the status of the last restore command (R316) -/
  restoreStatus : Option Nat := none
  flights : List Flight := []
  nextId : Nat := 0
  /-- the master die and the package sequencer's next ticket (R175, R311) -/
  master : Nat := 0
  nextTicket : Nat := 0
  /-- the present master's first ticket (R283) -/
  masterSince : Nat := 0
  svcmode : BitVec 5 := 0
  satus : List Satus := []
  groupSeq : SMap Nat := []
  headers : List (Nat × DWord × Bool) := []
  /-- packets given to the fabric, newest last (R293) -/
  fabricOut : List Packet := []
  hostEvents : List HostEvent := []
  hostSeq : SMap Nat := []
  /-- boot record: start count, master, joined dies, step codes of each die (R311) -/
  bootCount : Nat := 0
  bootJoined : BitVec 8 := 0
  bootCodes : SMap (BitVec 16) := []
  quotes : List (Nat × List Byte) := []
  /-- MSI-X vectors raised: VF v as v, the PF of die d as 256 + d (R221, R309) -/
  msix : List (Nat × Nat) := []
  /-- bytes the GN8 wrote to host memory: (PASID, I/O address, bytes) (R221) -/
  hostWrites : List (Nat × Nat × List Byte) := []
  cur : Option Sheaf := none
  turn : Nat := 0
  schedule : List Input := []
  /-- the model's own count of free values taken (never the spec's) -/
  freeCount : Nat := 0
deriving DecidableEq, Repr

/-- The reasons a step could stop with a fault. The GN8 states an effect for every behaviour, misuse included (R1),
so the model never answers with one. -/
inductive Fault where
  /-- Raised by nothing: kept because the interface asks for a type of faults. Safe. -/
  | none
deriving DecidableEq, Repr

/-- The reasons an instruction could be refused. -/
inductive Refusal where
  /-- Raised by an arm of `exec` whose instruction has no meaning yet; the mnemonic is the table's. Safe. -/
  | notModelled (mnemonic : String)
deriving DecidableEq, Repr

/-! ## Reset -/

/-- The control words of a die whose reset value the spec gives as other than zero: LEASECFG 400 (R170), SVCCAP 1,000
(R250), SDTIME 100 (R275), FABCTL 20, 200 and 5 (R297). Keys are die offsets divided by 8. -/
def resetCtl : SMap DWord :=
  [(0x6000000040 / 8, 400), (0x6000500200 / 8, 1000), (0x6000800018 / 8, 100 <<< 32),
   (0x6000C00000 / 8, (20 <<< 32) ||| (200 <<< 16) ||| 5)]

/-- A die after reset. -/
def Die.reset : Die := { ctl := resetCtl }

/-- The package after reset: nothing resident, memory with nothing listed, every register at the value the spec gives
or, where it gives none, at the value that the assumption log names. -/
def State.reset : State :=
  { dies := (List.range 8).map fun d => (d, Die.reset) }

end Sys2Proof.Machine
end

