-- ==== Sys2Proof/Machine/Ops.lean ====
section
/-! DEFINITION. The named operations over the state: sparse tables, memory, cores, groups and registers (R28 to R71), the one
operation that takes a fault (R246 to R249), and the frame in which an instruction runs over its lanes (R6, R7, R35). -/

namespace Sys2Proof.Machine

/-- The answer of every meaning. -/
abbrev Answer := Host.Outcome State Fault Refusal

/-! ## Sparse tables -/

/-- The entry of key `k`. -/
def sget {α : Type} : SMap α → Nat → Option α
  | [], _ => none
  | (j, v) :: t, k => if j = k then some v else sget t k

/-- The entry of key `k`, or the value an unlisted key stands for. -/
def sgetD {α : Type} (m : SMap α) (k : Nat) (d : α) : α :=
  match sget m k with
  | some v => v
  | none => d

/-- Put `v` at key `k`; keys stay in rising order. -/
def sset {α : Type} : SMap α → Nat → α → SMap α
  | [], k, v => [(k, v)]
  | (j, w) :: t, k, v =>
    if j = k then (k, v) :: t else if k < j then (k, v) :: (j, w) :: t else (j, w) :: sset t k v

/-- Take key `k` away. -/
def sdel {α : Type} (m : SMap α) (k : Nat) : SMap α := m.filter fun e => e.1 != k

/-- Change the entry of key `k`, if it is listed. -/
def smod {α : Type} (m : SMap α) (k : Nat) (f : α → α) : SMap α := m.map fun e => if e.1 = k then (e.1, f e.2) else e

/-! ## Bytes -/

/-- The `n` bytes of `x`, byte 0 least significant (R3). -/
def leBytes : Nat → Nat → List Byte
  | 0, _ => []
  | n + 1, x => BitVec.ofNat 8 x :: leBytes n (x / 256)

/-- The number that little-endian bytes hold (R3). -/
def ofLe : List Byte → Nat
  | [] => 0
  | b :: t => b.toNat + 256 * ofLe t

/-- A byte that an unlisted address of memory reads as: zero (assumption log). -/
def blankByte : Byte := 0

/-- One byte of memory. -/
def memGet : List Host.Cell → Nat → Byte
  | [], _ => blankByte
  | (j, b) :: t, a => if j = a then b else memGet t a

/-- Store one byte, in the canonical form: rising addresses, no blank byte listed. -/
def memSet : List Host.Cell → Nat → Byte → List Host.Cell
  | [], a, b => if b = blankByte then [] else [(a, b)]
  | (j, c) :: t, a, b =>
    if j = a then (if b = blankByte then t else (a, b) :: t)
    else if a < j then (if b = blankByte then (j, c) :: t else (a, b) :: (j, c) :: t)
    else (j, c) :: memSet t a b

/-- The canonical form of memory: strictly rising addresses from `lo` on, and no blank byte listed. -/
def Memory.wfFrom : Nat → List Host.Cell → Bool
  | _, [] => true
  | lo, (j, b) :: t => decide (lo ≤ j) && b != blankByte && Memory.wfFrom (j + 1) t

/-- The canonical form of memory. -/
def Memory.wf (m : List Host.Cell) : Bool := Memory.wfFrom 0 m

/-- `n` bytes from address `a` up. -/
def memRead (m : List Host.Cell) (a : Nat) : Nat → List Byte
  | 0 => []
  | n + 1 => memGet m a :: memRead m (a + 1) n

/-- Store bytes from address `a` up. -/
def memWrite (m : List Host.Cell) (a : Nat) : List Byte → List Host.Cell
  | [] => m
  | b :: t => memWrite (memSet m a b) (a + 1) t

/-- Bytes of a sparse byte table that reads zero where nothing is listed. -/
def bytesGet (m : SMap Byte) (a : Nat) : Nat → List Byte
  | 0 => []
  | n + 1 => sgetD m a 0 :: bytesGet m (a + 1) n

/-- Store bytes into a sparse byte table. -/
def bytesSet (m : SMap Byte) (a : Nat) : List Byte → SMap Byte
  | [] => m
  | b :: t => bytesSet (sset m a b) (a + 1) t

/-! ## Dies, cores, groups and fibres -/

/-- The die of a core unit. -/
def dieOf (u : Nat) : Nat := u / 64
/-- The core's number within its die: 0 to 31, or 32 to 35 for the supervisor cores. -/
def coreIx (u : Nat) : Nat := u % 64
/-- A supervisor core (R12). -/
def isSupCore (u : Nat) : Bool := decide (u % 64 ≥ 32)
/-- The island of a core unit (R14). -/
def islandOf (u : Nat) : Nat := if u % 64 ≥ 32 then (u % 64 - 32) / 2 else (u % 64) / 16

def State.die (s : State) (d : Nat) : Die := sgetD s.dies d Die.reset
def State.setDie (s : State) (d : Nat) (x : Die) : State := { s with dies := sset s.dies d x }
def State.modDie (s : State) (d : Nat) (f : Die → Die) : State := s.setDie d (f (s.die d))
def State.core (s : State) (u : Nat) : Core := sgetD s.cores u {}
def State.setCore (s : State) (u : Nat) (x : Core) : State := { s with cores := sset s.cores u x }
def State.modCore (s : State) (u : Nat) (f : Core → Core) : State := s.setCore u (f (s.core u))
def State.group (s : State) (u slot : Nat) : Option Group := sget (s.core u).slots slot
def State.setGroup (s : State) (u slot : Nat) (g : Group) : State :=
  s.modCore u fun c => { c with slots := sset c.slots slot g }
def State.modGroup (s : State) (u slot : Nat) (f : Group → Group) : State :=
  s.modCore u fun c => { c with slots := smod c.slots slot f }
def State.modFibre (s : State) (u slot id : Nat) (f : Fibre → Fibre) : State :=
  s.modGroup u slot fun g => { g with fibres := smod g.fibres id f }
def State.fibre (s : State) (u slot id : Nat) : Option Fibre :=
  match s.group u slot with
  | none => none
  | some g => sget g.fibres id

/-- Change the cores whose unit a test selects. -/
def State.mapCores (s : State) (p : Nat → Bool) (f : Core → Core) : State :=
  { s with cores := s.cores.map fun (e : Nat × Core) => if p e.1 then (e.1, f e.2) else e }

/-- Package time as the die's counter shows it (R24). -/
def State.now (s : State) (d : Nat) : Nat := (s.die d).time

/-- A 64-bit word of the die's control space, at a die offset that is a multiple of 8 (R138). -/
def Die.word (d : Die) (off : Nat) : DWord := sgetD d.ctl (off / 8) 0
/-- Bits `hi` to `lo` of a number. -/
def bitsOf (x hi lo : Nat) : Nat := (x >>> lo) % 2 ^ (hi + 1 - lo)
/-- `n` bytes of the control space from a die offset on. -/
def Die.bytes (d : Die) (off : Nat) : Nat → List Byte
  | 0 => []
  | n + 1 => BitVec.ofNat 8 ((d.word off).toNat >>> (8 * (off % 8))) :: d.bytes (off + 1) n
/-- Bytes `off` to `off + n − 1` as a number. -/
def Die.num (d : Die) (off n : Nat) : Nat := ofLe (d.bytes off n)
/-- Store one byte of the control space. -/
def Die.setByte (d : Die) (off : Nat) (b : Byte) : Die :=
  let w := (d.word off).toNat
  let k := 8 * (off % 8)
  let old := (w >>> k) % 256
  { d with ctl := sset d.ctl (off / 8) (BitVec.ofNat 64 (w - old * 2 ^ k + b.toNat * 2 ^ k)) }
/-- Store bytes of the control space. -/
def Die.setBytes (d : Die) (off : Nat) : List Byte → Die
  | [] => d
  | b :: t => (d.setByte off b).setBytes (off + 1) t

/-! ## Registers (R50 to R58) -/

/-- A count rounded up to granules of eight (R50). -/
def granules8 (n : Nat) : Nat := (n + 7) / 8 * 8
/-- The allocated vector registers of a fibre: its kernel's, or its gate window's (R52, R254). -/
def vecCount (g : Group) (f : Fibre) : Nat :=
  match f.gate with
  | some t => t.gregs
  | none => granules8 g.hdr.kregs
/-- The allocated uniform registers as a fibre sees them; a gate owns none (R254). -/
def uniCount (g : Group) (f : Fibre) : Nat := if f.gate.isSome then 0 else granules8 g.hdr.kuni
/-- The registers of a class that are inside the window: 0 vector, 1 uniform, 2 tile, 3 accumulator (R52). -/
def inWindow (g : Group) (f : Fibre) (cls n : Nat) : Bool :=
  match cls with
  | 0 => decide (n < vecCount g f)
  | 1 => decide (n < uniCount g f)
  | 2 => f.gate.isNone && decide (n < g.hdr.ktiles)
  | _ => f.gate.isNone && decide (n < g.hdr.kaccs)
/-- A vector register of a fibre (R58). -/
def Fibre.reg (f : Fibre) (n : Nat) : Reg := sgetD f.regs n {}
/-- A uniform register of a group (R58). -/
def Group.ureg (g : Group) (n : Nat) : Reg := sgetD g.uregs n {}
/-- A vector (class 0) or uniform (class 1) register. -/
def regGet (g : Group) (f : Fibre) (cls n : Nat) : Reg := if cls = 0 then f.reg n else g.ureg n
/-- The window-relative info of R52: class in bits 15:8, number in bits 7:0. -/
def regInfo (cls n : Nat) : Nat := cls * 256 + n
/-- A register's state code (R64). -/
def RegSt.code : RegSt → Nat
  | .empty => 0
  | .full => 1
  | .poisoned _ => 2
/-- Change a register of class 0 or 1 of a fibre. -/
def State.modReg (s : State) (u slot id cls n : Nat) (f : Reg → Reg) : State :=
  if cls = 0 then s.modFibre u slot id fun x => { x with regs := sset x.regs n (f (x.reg n)) }
  else s.modGroup u slot fun g => { g with uregs := sset g.uregs n (f (g.ureg n)) }
/-- Write a register: it becomes full with the value (R54, R57). -/
def State.writeReg (s : State) (u slot id cls n : Nat) (v : Word) : State :=
  s.modReg u slot id cls n fun _ => { val := v, st := .full }
/-- `SetEmpty`. -/
def State.setEmpty (s : State) (u slot id cls n : Nat) : State :=
  s.modReg u slot id cls n fun r => { r with st := .empty }
/-- Poison a register with the cause it records (R57). -/
def State.poisonReg (s : State) (u slot id cls n cause : Nat) : State :=
  s.modReg u slot id cls n fun r => { val := r.val, st := .poisoned cause }
/-- A producer still owes the register a value (R55, R56). -/
def Reg.pending (r : Reg) : Bool := r.st == .empty || r.owed

/-! ## Stops and lanes -/

/-- Why a lane does not go on: a call to Fault (R8), or a wait after which the instruction is executed again (R47). -/
inductive Stop where
  | fault (cause sub : Nat) (addr : Nat)
  | block (w : Wait)
deriving DecidableEq, Repr

namespace Cause
def illegal : Nat := 0x01
def privilege : Nat := 0x02
def alignment : Nat := 0x03
def misaligned : Nat := 0x04
def translation : Nat := 0x05
def permission : Nat := 0x06
def format : Nat := 0x07
def domain : Nat := 0x08
def regNotReady : Nat := 0x09
def regPoison : Nat := 0x0A
def rangeLock : Nat := 0x0B
def tileBusy : Nat := 0x0C
def cbState : Nat := 0x0D
def convWidth : Nat := 0x0E
def convMismatch : Nat := 0x0F
def convBusy : Nat := 0x10
def convCount : Nat := 0x11
def convShort : Nat := 0x12
def dsmRange : Nat := 0x13
def islandOffline : Nat := 0x14
def replicaWrite : Nat := 0x15
def homeLost : Nat := 0x16
def gate : Nat := 0x17
def migrate : Nat := 0x18
def taskDesc : Nat := 0x19
def breakpoint : Nat := 0x1A
def userTrap : Nat := 0x1B
def syscall : Nat := 0x1C
def machineCheck : Nat := 0x1D
def preempt : Nat := 0x1E
end Cause

/-- A call to Fault with sub-code 0. -/
def stopFault {α : Type} (cause addr : Nat) : Except Stop α := .error (.fault cause 0 addr)

/-- One lane of an execution: its index, its fibre's identifier and the fibre. -/
structure Lane where
  l : Nat
  id : Nat
  f : Fibre
deriving DecidableEq, Repr

/-- What an execution runs in: the group and the sheaf issued, and the die. -/
structure Ctx where
  s : State
  u : Nat
  slot : Nat
  g : Group
  pc : DWord
  lanes : List Lane

/-- A fibre that can take part in an execution: it waits for nothing, is not stopped, and its group runs (R47, R247). -/
def Fibre.canIssue (f : Fibre) : Bool := f.wait.isNone && !f.faulted && !f.stopped
/-- A group whose fibres are selected for issue: running, or saving under R260. -/
def Group.canIssue (g : Group) : Bool :=
  match g.st with
  | .run | .saving => true
  | _ => false

/-- The lanes of a sheaf: the gathered fibres that still stand ready at its program counter, in order (R35, R47). -/
def lanesOf (g : Group) (pc : DWord) : Nat → List Nat → List Lane
  | _, [] => []
  | l, id :: t =>
    match sget g.fibres id with
    | none => lanesOf g pc l t
    | some f => if f.pc = pc && f.canIssue then ⟨l, id, f⟩ :: lanesOf g pc (l + 1) t else lanesOf g pc l t

/-- The context of the sheaf being issued; none when no fibre of it is left to run. -/
def State.ctx (s : State) : Option Ctx :=
  match s.cur with
  | none => none
  | some sh =>
    match s.group sh.u sh.slot with
    | none => none
    | some g =>
      if g.canIssue then
        match lanesOf g sh.pc 0 (sh.fibres.take 32) with
        | [] => none
        | ls => some ⟨s, sh.u, sh.slot, g, sh.pc, ls⟩
      else none

/-- A predicate of a fibre; p7 reads as 1 (R28). -/
def Fibre.pred (f : Fibre) (n : Nat) : Bool := n == 7 || f.preds.getLsbD n
/-- Write a predicate; a write to p7 is ignored (R28). -/
def Fibre.setPred (f : Fibre) (n : Nat) (b : Bool) : Fibre :=
  if n ≥ 7 then f
  else
    let m : BitVec 8 := 1#8 <<< n
    { f with preds := if b then f.preds ||| m else f.preds &&& ~~~m }
/-- The guard's value in a lane (R106). -/
def guardTrue (g : Guard) (f : Fibre) : Bool := (f.pred g.p.toNat) != g.neg
/-- The fibre is ready at the core's present opportunity (R47, R233). -/
def Fibre.ready (f : Fibre) (opp : Nat) : Fibre := { f with wait := none, readyAt := opp }

/-- A predicate that is not pending for a VOTE; else the fibre waits (R54). -/
def predReady (f : Fibre) (n : Nat) : Except Stop Unit :=
  if f.predPend.getLsbD n then .error (.block (.pred n)) else .ok ()

/-- An address as the program counter holds it: that of a parcel, with bits 1:0 zero (R97). -/
def alignPc (p : DWord) : DWord := p &&& ~~~3#64

/-- The next instruction in sequence after one of `len` parcels at `pc` (R99). -/
def nextPc (pc : DWord) (len : Nat) : DWord :=
  let i := (pc.toNat / 4) % 16
  if i + len ≥ 15 then BitVec.ofNat 64 (pc.toNat / 64 * 64 + 64) else pc + BitVec.ofNat 64 (4 * len)

/-! ## Taking a fault -/

/-- FCAUSE (R246). -/
def fcauseWord (lane sub cause : Nat) : Word := BitVec.ofNat 32 (lane * 2 ^ 22 + sub % 256 * 256 + cause % 256)
/-- WHO of a service record (R249). -/
def whoWord (u slot fibre : Nat) : Word :=
  if isSupCore u then BitVec.ofNat 32 (2 ^ 31 + fibre * 2 ^ 16 + slot * 2 ^ 5 + (u % 64 - 32))
  else BitVec.ofNat 32 (fibre * 2 ^ 16 + slot * 2 ^ 5 + u % 64)
/-- A record charged to no domain: of a supervisor group, of no fibre, or a machine check (R12, R248, R437). -/
def uncharged (r : Record) : Bool :=
  r.who.getLsbD 31 || r.who.getLsbD 30 || r.fcause.toNat % 256 == Cause.machineCheck
/-- The domain in force for a fibre: the gate's target inside a gate (R239, R248). -/
def domainOf (g : Group) (f : Fibre) : Nat :=
  match f.gate with
  | some t => t.tdom
  | none => g.domain

/-- The code of step `i`, 1 to 8, of a die in the boot record. -/
def stepCode (s : State) (d i : Nat) : Nat := bitsOf (sgetD s.bootCodes d 0).toNat (2 * i - 1) (2 * i - 2)
/-- The step passed when the die last started: a code that the host clears changes the next start alone. -/
def stepPassed (s : State) (d i : Nat) : Bool := (s.die d).passed.getLsbD (i - 1)
/-- One record to the event area of a die's PF, and its MSI-X vector 0 (R309); nothing where the port is down (R310). -/
def hostRecord (s : State) (pf code dom die : Nat) : State :=
  if !stepPassed s pf 7 then s else
  let q := sgetD s.hostSeq pf 0
  let e := (s.die pf).evq.toNat
  let t := s.now (if (s.die die).alive then die else pf)
  let bytes := leBytes 4 q ++ leBytes 2 code ++ leBytes 1 dom ++ leBytes 1 die ++ leBytes 8 t
  { s with
    hostSeq := sset s.hostSeq pf ((q + 1) % 2 ^ 32)
    hostEvents := s.hostEvents ++ [{ pf := pf, code := code, domain := dom, die := die, time := t, seq := q }]
    hostWrites := s.hostWrites ++ [(0, e / 4096 * 4096 + 16 * (q % (e % 4096)), bytes)]
    msix := s.msix ++ [(256 + pf, 0)] }

/-- The 16 words of a service record, as a message holds them (R249, R385). -/
def recordWords (r : Record) : List Word :=
  [r.fcause, r.who, r.faddr.extractLsb' 0 32, r.faddr.extractLsb' 32 32, r.fpc.extractLsb' 0 32, r.fpc.extractLsb' 32 32,
   BitVec.ofNat 32 (r.domain % 256), BitVec.ofNat 32 r.tag] ++ List.replicate 8 0
/-- Sixteen bytes into the next place of the event area of a die's PF. -/
def hostChunk (pf : Nat) (s : State) (b : List Byte) : State :=
  let q := sgetD s.hostSeq pf 0
  let e := (s.die pf).evq.toNat
  { s with hostSeq := sset s.hostSeq pf ((q + 1) % 2 ^ 32)
           hostWrites := s.hostWrites ++ [(0, e / 4096 * 4096 + 16 * (q % (e % 4096)), b)] }
/-- A service record goes to the event area (R314): its event, and the record's 32 bytes in the two places that follow. DESIGN CHOICE, see
the log: R309's record has no room for it. -/
def hostService (s : State) (d : Nat) (r : Record) : State :=
  let b := ((recordWords r).take 8).flatMap fun w => leBytes 4 w.toNat
  if !stepPassed s d 7 then s
  else [b.take 16, b.drop 16].foldl (hostChunk d) (hostRecord s d (0x100 + Cause.misaligned) r.domain d)

/-- SMIN of a domain's table entry (R242). -/
def Die.smin (d : Die) (dom : Nat) : Nat := d.num (0x6000600000 + 64 * dom + 56) 2
/-- A domain without an open record begins a new spell with its next one: its minimum counts from here, and for its weight it stands
where it stood, but not ahead of the domain that is furthest behind; where no domain has a record open, all start level again (R250).
DESIGN CHOICE, see the log. -/
def Die.beginSpell (d : Die) (dom : Nat) : Die :=
  let rs := d.records.filter fun r => !uncharged r
  if rs.any fun r => r.domain == dom then d
  else
    let w := d.smin dom + 1
    let least := (rs.map fun r => sgetD d.serviceRank r.domain 0 * w / (d.smin r.domain + 1)).min?.getD 0
    { d with service := sset d.service dom 0, serviceFrom := sset d.serviceFrom dom d.serviceAll,
             serviceRank := if rs.isEmpty then [] else sset d.serviceRank dom (Nat.max (sgetD d.serviceRank dom 0) least) }

/-- Send a record to the die's service queue (R249, R437). With SVCMODE.MISAL = 1 the record of a misaligned access goes to the
PF's event area instead, and stays open for the host's response, which names its TAG (R314). -/
def State.sendRecord (s : State) (d : Nat) (r : Record) : State :=
  let host := s.svcmode.getLsbD 1 && r.fcause.toNat % 256 == Cause.misaligned
  let s1 := s.modDie d fun x0 =>
    let x := if uncharged r then x0 else x0.beginSpell r.domain
    { x with records := x.records ++ [{ r with tag := x.nextTag, taken := host, takenAt := x.time }],
             nextTag := (x.nextTag + 1) % 2 ^ 32 }
  if host then hostService s1 d { r with tag := (s.die d).nextTag } else s1

/-- A record raised by no fibre (R437). -/
def State.sendNoFibre (s : State) (d cause faddr : Nat) : State :=
  s.sendRecord d { tag := 0, fcause := fcauseWord 0 0 cause, who := BitVec.ofNat 32 (2 ^ 30), faddr := BitVec.ofNat 64 faddr,
                   fpc := 0, domain := 0 }

/-- The registers a fault writes in a fibre it stops (R246, R247). -/
def faultFibre (lane cause sub faddr : Nat) (fpc : DWord) (f : Fibre) : Fibre :=
  { f with fcause := fcauseWord lane sub cause, faddr := BitVec.ofNat 64 faddr, fpc := fpc, faulted := true, wait := none, charged := false }

/-- Take a fault: every fibre of `stopped` stops FAULTED at `fpc` with the reported fault, and one record goes to the die's
service queue for the reporting fibre (R247 to R249). A MACHINE_CHECK goes to the die's supervisor and is charged to no
domain (R248). -/
def State.takeFault (s : State) (u slot : Nat) (stopped : List Nat) (reporter lane cause sub faddr : Nat) (fpc : DWord) :
    State :=
  match s.group u slot with
  | none => s
  | some g =>
    let dom := match sget g.fibres reporter with
      | some f => if cause = Cause.machineCheck || isSupCore u then 0 else domainOf g f
      | none => 0
    let s1 := s.modGroup u slot fun g =>
      { g with fibres := g.fibres.map fun e =>
          if stopped.contains e.1 then (e.1, faultFibre lane cause sub faddr fpc e.2) else e }
    s1.sendRecord (dieOf u)
      { tag := 0, fcause := fcauseWord lane sub cause, who := whoWord u slot reporter, faddr := BitVec.ofNat 64 faddr,
        fpc := fpc, domain := dom, u := u, slot := slot, fibres := stopped }

/-! ## Running an instruction over its lanes -/

/-- A fibre goes back to the instruction at `pc`. -/
def State.rewind (s : State) (u slot id : Nat) (pc : DWord) : State := s.modFibre u slot id fun f => { f with pc := pc }

/-- Put a lane's fibre into a wait. -/
def State.block (s : State) (c : Ctx) (id : Nat) (w : Wait) : State :=
  s.modFibre c.u c.slot id fun f => { f with wait := some w }

/-- The effect of an instruction on its own fibre: register writes (class, number, value), predicates, flags raised (R63),
and a transfer of control. `late` is a long-latency producer's destination: empty now and written when it returns (R55),
with the flags it raises then. -/
structure Eff where
  regs : List (Nat × Nat × Word) := []
  preds : List (Nat × Bool) := []
  flags : BitVec 5 := 0
  pc : Option DWord := none
  late : List (Nat × Nat × Word) := []
  lateFlags : BitVec 5 := 0
  /-- FSTAT accesses wait for this producer (R92) -/
  holdsFlags : Bool := false
deriving DecidableEq, Repr

/-- Write registers in order. -/
def State.writeRegs (s : State) (u slot id : Nat) : List (Nat × Nat × Word) → State
  | [] => s
  | (c, n, v) :: t => (s.writeReg u slot id c n v).writeRegs u slot id t
/-- Mark registers empty. -/
def State.emptyRegs (s : State) (u slot id : Nat) : List (Nat × Nat × Word) → State
  | [] => s
  | (c, n, _) :: t => (s.setEmpty u slot id c n).emptyRegs u slot id t

/-- Add an outstanding return (R55). -/
def State.addReturn (s : State) (u : Nat) (r : Return) : State :=
  { s with nextId := s.nextId + 1 }.modCore u fun c => { c with returns := c.returns ++ [{ r with id := s.nextId }] }

/-- Apply a lane's effect. -/
def State.applyEff (s : State) (c : Ctx) (ln : Lane) (e : Eff) : State :=
  let s1 := s.writeRegs c.u c.slot ln.id e.regs
  let s2 := s1.modFibre c.u c.slot ln.id fun f =>
    let f1 := e.preds.foldl (fun f p => f.setPred p.1 p.2) f
    { f1 with flags := f1.flags ||| e.flags, pc := match e.pc with
      | some p => alignPc p
      | none => f1.pc }
  if e.late.isEmpty then s2
  else
    (s2.emptyRegs c.u c.slot ln.id e.late).addReturn c.u
      { id := 0, slot := c.slot, fibre := ln.id, dests := e.late, flags := e.lateFlags, holdsFlags := e.holdsFlags }

/-- The lanes whose guard holds (R106). A lane whose guard predicate is pending waits (R54). -/
def activeOf (g : Guard) (ls : List Lane) : List Lane := ls.filter fun ln => guardTrue g ln.f
def predBlocked (g : Guard) (ls : List Lane) : List Lane := ls.filter fun ln => ln.f.predPend.getLsbD g.p.toNat
def predFree (g : Guard) (ls : List Lane) : List Lane := ls.filter fun ln => !ln.f.predPend.getLsbD g.p.toNat

/-- The lanes that a check makes wait, each with its wait. -/
def blockedOf {α : Type} (rs : List (Lane × Except Stop α)) : List (Nat × Wait) :=
  rs.filterMap fun r => match r.2 with
    | .error (.block w) => some (r.1.id, w)
    | _ => none
/-- The first fault in lane order. -/
def faultOf {α : Type} : List (Lane × Except Stop α) → Option (Lane × Nat × Nat × Nat)
  | [] => none
  | (ln, .error (.fault c sub a)) :: _ => some (ln, c, sub, a)
  | _ :: t => faultOf t
/-- The lanes that pass, with what they computed. -/
def passedOf {α : Type} (rs : List (Lane × Except Stop α)) : List (Lane × α) :=
  rs.filterMap fun r => match r.2 with
    | .ok a => some (r.1, a)
    | _ => none

/-- Put the listed fibres into their waits. -/
def State.blockAll (s : State) (c : Ctx) : List (Nat × Wait) → State
  | [] => s
  | (id, w) :: t => (s.block c id w).blockAll c t

/-- Move the program counters of the listed fibres. -/
def State.advance (s : State) (c : Ctx) (len : Nat) (ids : List Nat) : State :=
  s.modGroup c.u c.slot fun g =>
    { g with fibres := g.fibres.map fun e => if ids.contains e.1 then (e.1, { e.2 with pc := nextPc c.pc len }) else e }

/-- An execution over the sheaf being issued (R6, R7, R35). Every active lane is checked before anything is written. A lane
that must wait leaves the execution and executes the instruction again later. When a lane of the rest faults, the fault is
the execution's only effect on them: every active fibre of the rest stops and the inactive fibres go on. Otherwise every
fibre of the rest moves to the next instruction, and `commit` acts on the lanes that passed, in lane order. -/
def runLanes {α : Type} (s : State) (g : Guard) (len : Nat) (check : Ctx → Lane → Except Stop α)
    (commit : Ctx → State → List (Lane × α) → State) : State :=
  match s.ctx with
  | none => s
  | some c =>
    let s0 := s.blockAll c ((predBlocked g c.lanes).map fun ln => (ln.id, .pred g.p.toNat))
    let free := predFree g c.lanes
    let active := activeOf g free
    let idle := (free.filter fun ln => !guardTrue g ln.f).map (·.id)
    let rs := active.map fun ln => (ln, check c ln)
    let s1 := s0.blockAll c (blockedOf rs)
    match faultOf rs with
    | some (ln, cause, sub, addr) =>
      let waiting := (blockedOf rs).map (·.1)
      let stopped := (active.map (·.id)).filter fun i => !waiting.contains i
      (s1.advance c len idle).takeFault c.u c.slot stopped ln.id ln.l cause sub addr c.pc
    | none =>
      let ok := passedOf rs
      let s2 := s1.advance c len (idle ++ ok.map (·.1.id))
      if ok.isEmpty then s2 else commit c s2 ok

/-- The commit of an instruction whose whole effect is on its own fibres. -/
def commitEffs (c : Ctx) (s : State) (l : List (Lane × Eff)) : State := l.foldl (fun s p => s.applyEff c p.1 p.2) s

/-- A lane of an execution that writes one uniform value: its flags and its transfer stand, and the flags of a special-function
result land in its fibre too, when the result is written (R91, R92). -/
def State.applyRest (s : State) (c : Ctx) (ln : Lane) (e : Eff) : State :=
  let s1 := s.applyEff c ln { e with regs := [], late := [], lateFlags := 0 }
  if e.late.isEmpty then s1
  else s1.addReturn c.u { id := 0, slot := c.slot, fibre := ln.id, dests := [], flags := e.lateFlags, holdsFlags := e.holdsFlags }

/-- The commit of an instruction that may write a uniform register: with DU = 1 one value is written once (R111). -/
def commitOne (du : Bool) (c : Ctx) (s : State) (l : List (Lane × Eff)) : State :=
  if du then
    match l with
    | [] => s
    | p :: t => t.foldl (fun s q => s.applyRest c q.1 q.2) (s.applyEff c p.1 p.2)
  else commitEffs c s l

/-- Run an instruction whose effect is on its own fibres. -/
def runEff (s : State) (g : Guard) (len : Nat) (du : Bool) (body : Ctx → Lane → Except Stop Eff) : State :=
  runLanes s g len body (commitOne du)

/-- A fault of the decode checks or of the fetch: every gathered fibre stops, and the reporter is the gathered fibre of lowest
lane (R247). -/
def State.faultSheaf (s : State) (cause sub faddr : Nat) : State :=
  match s.ctx with
  | none => s
  | some c =>
    match c.lanes with
    | [] => s
    | ln :: _ => s.takeFault c.u c.slot (c.lanes.map (·.id)) ln.id ln.l cause sub faddr c.pc

/-- Every gathered fibre waits, and fetches again later. -/
def State.blockSheaf (s : State) (w : Wait) : State :=
  match s.ctx with
  | none => s
  | some c => s.blockAll c (c.lanes.map fun ln => (ln.id, w))

/-! ## Free values -/

/-- A free value for this use: it depends on the model's own count alone. -/
def State.free (s : State) : Nat := Config.freeValue s.freeCount
/-- The state after a free value is taken. -/
def State.bumpFree (s : State) : State := { s with freeCount := s.freeCount + 1 }

end Sys2Proof.Machine
end

