-- ==== Sys2Proof/Machine/Operands.lean ====
section
/-! DEFINITION. The operand forms: `WaitFull` and `Src` (R8, R54), pairs (R51), the window check (R52), literals (R110),
destinations (R56, R111) and addresses (R112). -/

namespace Sys2Proof.Machine

/-- `CheckDomain` of a register: a register outside the window raises DOMAIN with its class and number (R52). -/
def checkWindow (c : Ctx) (f : Fibre) (cls n : Nat) : Except Stop Unit :=
  if inWindow c.g f cls n then .ok () else stopFault Cause.domain (regInfo cls n)

/-- `WaitFull` then the value: a register that is empty makes the fibre wait, or raises REG_NOT_READY when `w` is clear; a
poisoned one raises REG_POISON with the cause of its mark (R8, R54, R57). -/
def waitFull (r : Reg) (cls n : Nat) (w : Bool) : Except Stop Word :=
  match r.st with
  | .full => .ok r.val
  | .empty => if w then .error (.block (.reg cls n)) else stopFault Cause.regNotReady (regInfo cls n)
  | .poisoned cause => stopFault Cause.regPoison (cause * 65536 + regInfo cls n)

/-- `Src` of one register, after its window check. -/
def srcReg (c : Ctx) (f : Fibre) (cls n : Nat) (w : Bool) : Except Stop Word := do
  checkWindow c f cls n
  waitFull (regGet c.g f cls n) cls n w

/-- The class of a field whose uniform bit is `u`. -/
def clsOf (u : Bool) : Nat := if u then 1 else 0

/-- `Src` of a source field. -/
def srcField (c : Ctx) (f : Fibre) (u : Bool) (x : Src) : Except Stop Word := srcReg c f (clsOf u) x.r.toNat x.w

/-- `Src` of the aligned pair that begins at register `n`: the even register holds the low half (R51). -/
def srcPairReg (c : Ctx) (f : Fibre) (cls n : Nat) (w : Bool) : Except Stop DWord := do
  let lo ← srcReg c f cls n w
  let hi ← srcReg c f cls (n + 1) w
  return hi ++ lo

/-- `Src` of a pair field. -/
def srcPair (c : Ctx) (f : Fibre) (u : Bool) (x : Src) : Except Stop DWord := srcPairReg c f (clsOf u) x.r.toNat x.w

/-- `Src` of `k` consecutive registers from `n` on. -/
def srcRegs (c : Ctx) (f : Fibre) (cls n : Nat) (w : Bool) : Nat → Except Stop (List Word)
  | 0 => .ok []
  | k + 1 => do
    let v ← srcReg c f cls n w
    let t ← srcRegs c f cls (n + 1) w k
    return v :: t

/-- The value of a typed source: 64 bits for .i64, else the register in the low half (R322). -/
def srcTyped (c : Ctx) (f : Fibre) (wide u : Bool) (x : Src) : Except Stop DWord :=
  if wide then srcPair c f u x
  else do
    let v ← srcField c f u x
    return v.setWidth 64

/-- Source B, or the literal in its place; a .i64 literal is sign-extended (R110). -/
def srcBTyped (c : Ctx) (f : Fibre) (wide : Bool) (o : OpT) : Except Stop DWord :=
  match o.lit with
  | some l => .ok (if wide then l.signExtend 64 else l.setWidth 64)
  | none => srcTyped c f wide o.ub o.b

/-- Source B of one register, or the literal. -/
def srcB (c : Ctx) (f : Fibre) (o : OpT) : Except Stop Word :=
  match o.lit with
  | some l => .ok l
  | none => srcField c f o.ub o.b

/-- Source A of one register. -/
def srcA (c : Ctx) (f : Fibre) (o : OpT) : Except Stop Word := srcField c f o.ua o.a

/-- Source C, the third register source (R110). -/
def srcC (o : OpT) : Src := { w := o.c.getLsbD 8, r := o.c.extractLsb' 0 8 }

/-- A destination register is inside the window, and no earlier producer still owes it a value (R52, R56). -/
def destReady (c : Ctx) (f : Fibre) (cls n : Nat) : Except Stop Unit := do
  checkWindow c f cls n
  if (regGet c.g f cls n).pending then .error (.block (.reg cls n)) else .ok ()

/-- `destReady` of `k` consecutive registers. -/
def destsReady (c : Ctx) (f : Fibre) (cls n : Nat) : Nat → Except Stop Unit
  | 0 => .ok ()
  | k + 1 => do
    destReady c f cls n
    destsReady c f cls (n + 1) k

/-- The register writes of a 64-bit value: the pair from `n` on, or its low word alone. -/
def destWrites (wide : Bool) (cls n : Nat) (v : DWord) : List (Nat × Nat × Word) :=
  if wide then [(cls, n, v.extractLsb' 0 32), (cls, n + 1, v.extractLsb' 32 32)] else [(cls, n, v.extractLsb' 0 32)]

/-- The writes of consecutive registers. -/
def regWrites (cls : Nat) : Nat → List Word → List (Nat × Nat × Word)
  | _, [] => []
  | n, v :: t => (cls, n, v) :: regWrites cls (n + 1) t

/-- The condition a predicate source meets before it is read (R54). -/
def srcPred (f : Fibre) (n : Nat) : Except Stop Bool := do
  predReady f n
  return f.pred n

/-- The byte offset of a format M or ML address, in units of `unit` bytes for OFF (R112). -/
def memOffset (o : OpM) (unit : Nat) : Int :=
  match o.off32 with
  | some v => v.toInt
  | none => o.off.toInt * unit

/-- `Wrap(x, n)` (R8). -/
def wrapNat (x : Int) (n : Nat) : Nat := (x % (2 ^ n : Nat)).toNat

/-- The effective address of a .g operand: its pair plus the offset, modulo 2^64 (R112). -/
def addr64 (c : Ctx) (f : Fibre) (o : OpM) (unit : Nat) : Except Stop Nat := do
  let a ← srcPair c f o.ua o.a
  return wrapNat (a.toNat + memOffset o unit) 64

/-- The effective address of a .sp or .ds operand: its register plus the offset, modulo 2^32 (R112). -/
def addr32 (c : Ctx) (f : Fibre) (o : OpM) (unit : Nat) : Except Stop Nat := do
  let a ← srcField c f o.ua o.a
  return wrapNat (a.toNat + memOffset o unit) 32

/-- The effective address in the space of the operand. -/
def addrOf (c : Ctx) (f : Fibre) (o : OpM) (unit : Nat) : Except Stop Nat :=
  if o.space = 0 then addr64 c f o unit else addr32 c f o unit

/-- The bytes of registers, in register order. -/
def wordsBytes : List Word → List Byte
  | [] => []
  | w :: t => leBytes 4 w.toNat ++ wordsBytes t

/-- Registers of a byte list, four bytes each; a short last one is zero-extended. -/
def bytesWords : Nat → List Byte → List Word
  | 0, _ => []
  | k + 1, bs => BitVec.ofNat 32 (ofLe (bs.take 4)) :: bytesWords k (bs.drop 4)

/-! ## Drowsy granules (R59) -/

/-- The granule of a vector register of a fibre, as `Group.drowsy` numbers it. -/
def granuleOf (f : Fibre) (id n : Nat) : Nat := 32 * (if f.gate.isSome then 1024 + id else id) + n / 8
/-- The granules of a gate window that a fibre leaves are no longer its group's. -/
def State.forgetWindow (s : State) (u slot id : Nat) : State :=
  s.modGroup u slot fun g => { g with drowsy := g.drowsy.filter fun k => k / 32 != 1024 + id }
/-- The vector registers that an instruction names in its active lanes wake their drowsy granules. -/
def State.wakeFor (s : State) (i : Instr) : State :=
  match s.ctx, i.view with
  | some c, some (_, x) =>
    if c.g.drowsy.isEmpty then s
    else
      let ks := (activeOf x.guard c.lanes).flatMap fun ln => (vregsOf i).map fun r => granuleOf ln.f ln.id r
      s.modGroup c.u c.slot fun g => { g with drowsy := g.drowsy.filter fun k => !ks.contains k }
  | _, _ => s

end Sys2Proof.Machine
end

