-- ==== Sys2Proof/Machine/Translate.lean ====
section
/-! DEFINITION. `Translate` (R8, R266 to R272, R278, R284): page-table entries, the walk, the translation caches, and which
die and island an address reaches (R14, R16, R138). -/

namespace Sys2Proof.Machine

/-- The access kinds of `Translate` (R8). -/
inductive Access where
  | load | store | atomic | exec
deriving DecidableEq, Repr

/-! ## Addresses (R138) -/

def paPkg (pa : Nat) : Nat := pa / 2 ^ 42 % 1024
def paDie (pa : Nat) : Nat := pa / 2 ^ 39 % 8
def paOff (pa : Nat) : Nat := pa % 2 ^ 39
def mkPa (pkg die off : Nat) : Nat := pkg * 2 ^ 42 + die * 2 ^ 39 + off
/-- The 128-byte line of an address. -/
def lineOf (pa : Nat) : Nat := pa / 128
/-- The bytes of one memory stack (R21). -/
def stackSize : Nat := 0xC00000000
/-- The island that holds a stack offset of a die (R14). -/
def stackIsland (off : Nat) : Nat := off / stackSize / 2
/-- A die offset in stack memory, outside the retransmission regions (R22, R138). An access to a stack whose STKP bit is clear is
served like one to a stack that is present: R19 gives the mask no other effect. DESIGN CHOICE. -/
def inStack (off : Nat) : Bool := off < 4 * stackSize && off % stackSize < stackSize - 0x800000
/-- A span of stack memory that touches no retransmission region. -/
def spanInStack (off size : Nat) : Bool :=
  inStack off && inStack (off + size - 1) && off / stackSize == (off + size - 1) / stackSize

/-- The window onto a die's DSM and its control registers (R138). -/
def inDsmWindow (pa : Nat) : Bool := 0x4000000000 ≤ paOff pa && paOff pa < 0x4010000000
def inControl (pa : Nat) : Bool := 0x6000000000 ≤ paOff pa && paOff pa < 0x6100000000
/-- The island that holds what a physical address reaches, a stack or a DSM bank (R14, R17); none for the rest. -/
def paIsland (pa : Nat) : Option Nat :=
  if paOff pa < 4 * stackSize then some (stackIsland (paOff pa))
  else if inDsmWindow pa then some ((paOff pa - 0x4000000000) / 0x4000000 % 2)
  else none
/-- The bytes of DSM of a die (R17). -/
def dsmSize (s : State) (d : Nat) : Nat := if (s.die d).capd then 0x10000000 else 0x8000000

/-! ## Page-table entries (R267) -/

def pteFmt (e : Nat) : Nat := bitsOf e 127 124
def pteBlk (e : Nat) : Nat := bitsOf e 123 122
/-- SCOFF, signed. -/
def pteScoff (e : Nat) : Int := (BitVec.ofNat 24 (bitsOf e 121 98)).toInt
def pteKey (e : Nat) : Nat := bitsOf e 97 86
def pteT (e : Nat) : Nat := bitsOf e 63 62
def pteRd (e : Nat) : Bool := e.testBit 61
def pteWr (e : Nat) : Bool := e.testBit 60
def pteEx (e : Nat) : Bool := e.testBit 59
def pteSup (e : Nat) : Bool := e.testBit 58
def pteHome (e : Nat) : Nat := bitsOf e 55 53
def pteRmask (e : Nat) : Nat := bitsOf e 52 45
def ptePkg (e : Nat) : Nat := bitsOf e 44 35
def pteDoff (e : Nat) : Nat := bitsOf e 34 12

/-- The dies whose bit is set in an 8-bit mask. -/
def maskDies (m : Nat) : List Nat := (List.range 8).filter fun d => m.testBit d

/-- A table pointer with any other bit set is malformed (R267, R268). -/
def tablePtrBad (e : Nat) : Bool :=
  bitsOf e 127 64 != 0 || bitsOf e 61 56 != 0 || pteRmask e != 0 || bitsOf e 11 0 != 0 ||
  !spanInStack (pteDoff e * 65536) 65536

/-- A leaf that a walk refuses (R268). `big` marks a 256 MiB leaf. -/
def leafBad (pkg : Nat) (big : Bool) (e : Nat) : Bool :=
  bitsOf e 85 64 != 0 || e.testBit 56 || bitsOf e 11 0 != 0 ||
  (big && pteDoff e % 4096 != 0) ||
  !spanInStack (pteDoff e * 65536) (if big then 2 ^ 28 else 65536) ||
  (maskDies (pteRmask e)).length > 3 || (pteRmask e).testBit (pteHome e) ||
  (pteRmask e != 0 && ptePkg e != pkg) ||
  (pteBlk e != 0 && !(4 ≤ pteFmt e && pteFmt e ≤ 8)) || pteFmt e ≥ 11

/-- DIELOST of a die (R283). -/
def dieLost (s : State) (d : Nat) : Nat := (s.die d).num 0x6000800040 1

/-- The surviving replica set of a page as a die sees it (R278). -/
def survivors (s : State) (d e : Nat) : List Nat :=
  (maskDies (pteRmask e)).filter fun r => r != pteHome e && !(dieLost s d).testBit r

/-- The effective home of a page, none when it is lost (R278, R284). A page of another package keeps its home. -/
def effHome (s : State) (d e : Nat) : Option Nat :=
  if ptePkg e != s.pkg || !(dieLost s d).testBit (pteHome e) then some (pteHome e) else (survivors s d e).head?

/-- The effective replica set (R278). -/
def effReplicas (s : State) (d e : Nat) : List Nat :=
  (survivors s d e).filter fun r => some r != effHome s d e

/-! ## The walk -/

/-- What a walk ends in: a leaf with its size, or a cause (R268, R284). -/
inductive WalkEnd where
  | leaf (e : Nat) (big : Bool)
  | bad (cause : Nat)
deriving DecidableEq, Repr

/-- The index of a level in a virtual address (R266). -/
def levelIndex (va level : Nat) : Nat := if level = 3 then bitsOf va 56 52 else va / 2 ^ (16 + 12 * level) % 4096

/-- Bytes of stack memory, here or in another package. -/
def stackBytes (s : State) (pa n : Nat) : List Byte := if paPkg pa = s.pkg then memRead s.mem pa n else bytesGet s.rack pa n

/-- A line of this package carries the poison of an uncorrectable error (R155). -/
def poisonedAt (s : State) (pa : Nat) : Bool := paPkg pa == s.pkg && (sget (s.die (paDie pa)).poison (paOff pa / 128)).isSome
/-- The physical address of the entry that a walk reads in the table of level `n` behind the pointer `e`, at the table's effective
home `h`. -/
def entryPa (e h va n : Nat) : Nat := mkPa (ptePkg e) h (pteDoff e * 65536) + 16 * levelIndex va n

/-- The walk from a table pointer `e` at `level` down (R266, R268, R272). Each table page is read at its effective home. An entry in a
line that carries poison ends the walk with MACHINE_CHECK: DESIGN CHOICE, see the log. -/
def walkFrom (s : State) (d va : Nat) : Nat → Nat → WalkEnd
  | 0, _ => .bad Cause.translation
  | n + 1, e =>
    if pteT e != 1 || tablePtrBad e then .bad Cause.translation
    else
      match effHome s d e with
      | none => .bad Cause.homeLost
      | some h =>
        let x := ofLe (stackBytes s (entryPa e h va n) 16)
        if poisonedAt s (entryPa e h va n) then .bad Cause.machineCheck
        else if pteT x = 2 then
          if n = 0 then (if leafBad s.pkg false x then .bad Cause.translation else .leaf x false)
          else if n = 1 then (if leafBad s.pkg true x then .bad Cause.translation else .leaf x true)
          else .bad Cause.translation
        else if pteT x = 1 && n != 0 then walkFrom s d va n x
        else .bad Cause.translation

/-- The root entry of a PASID on a die (R266). -/
def rootEntry (s : State) (d pasid : Nat) : Nat := (s.die d).num (0x6010000000 + 16 * pasid) 16

/-- The tag of an address for a table of a level: the bits above the table's index. -/
def walkTag (va level : Nat) : Nat := va / 2 ^ (16 + 12 * (level + 1))
/-- The walk cache of a core unit's island (R271). -/
def walkCacheOf (s : State) (u : Nat) : List WalkEntry := sgetD (s.die (dieOf u)).walkCache (islandOf u) []
/-- Where a walk for an address of a PASID and domain begins: at the lowest table that the island's walk cache points to, else at the
root entry (R266, R271). -/
def walkStart (s : State) (u pasid domain va : Nat) : Nat × Nat :=
  match (List.range 3).findSome? fun n => (walkCacheOf s u).find? fun w =>
      w.level == n && w.pasid == pasid && w.domain == domain && w.vtag == walkTag va n with
  | some w => (w.level + 1, w.entry.toNat)
  | none => (4, rootEntry s (dieOf u) pasid)

/-- The walk of a canonical address (R266). -/
def walk (s : State) (u pasid domain va : Nat) : WalkEnd :=
  walkFrom s (dieOf u) va (walkStart s u pasid domain va).1 (walkStart s u pasid domain va).2

/-- The table entries that a walk reads, by physical address, and the table pointers below the root that it passes (R271). -/
def walkReads (s : State) (d va : Nat) : Nat → Nat → List (Nat × Nat × Nat)
  | 0, _ => []
  | n + 1, e =>
    if pteT e != 1 || tablePtrBad e then []
    else
      match effHome s d e with
      | none => []
      | some h => (n, e, entryPa e h va n) :: walkReads s d va n (ofLe (stackBytes s (entryPa e h va n) 16))
/-- The table pointers of a walk, as the walk cache holds them. -/
def walkPointers (s : State) (u pasid domain va : Nat) : List WalkEntry :=
  let a := walkStart s u pasid domain va
  (walkReads s (dieOf u) va a.1 a.2).filterMap fun r =>
    if r.1 < 3 then some ⟨pasid, domain, r.1, walkTag va r.1, BitVec.ofNat 128 r.2.1⟩ else none

/-- A canonical address: bits 63:57 equal bit 56 (R137). -/
def canonical (va : Nat) : Bool := va / 2 ^ 56 % 256 == 0 || va / 2 ^ 56 % 256 == 255

/-- The entry of a translation cache for an address (R271). -/
def TlbEntry.hits (t : TlbEntry) (pasid domain va : Nat) : Bool :=
  t.pasid == pasid && t.domain == domain && (if t.big then t.vpage == va / 2 ^ 28 else t.vpage == va / 65536)

/-- The cached entry for an address: the core's cache, then its island's shared cache (R271). -/
def cachedEntry (s : State) (u pasid domain va : Nat) : Option TlbEntry :=
  match (s.core u).tlb.find? fun t => t.hits pasid domain va with
  | some t => some t
  | none => (sgetD (s.die (dieOf u)).sharedTlb (islandOf u) []).find? fun t => t.hits pasid domain va

/-- Units of 64 KiB of a virtual address, for shoot-down ranges (R275). -/
def inShoot (x : Shoot) (pasid va : Nat) : Bool :=
  x.pasid == pasid && decide (x.va / 65536 ≤ va / 65536) && decide (va / 65536 < x.va / 65536 + x.npg)

/-- A walk that enters a range under shoot-down on the die waits (R276). -/
def retracted (s : State) (d pasid va : Nat) : Bool := (s.die d).shoots.any fun x => inShoot x pasid va

/-- Service mode WALK: a miss goes to the host (R314). -/
def hostWalks (s : State) : Bool := s.svcmode.getLsbD 0

/-! ## The translation of an access -/

/-- Who translates: the fibre's PASID, domain, KEY, mode, and physical addressing (R12). -/
structure Who where
  pasid : Nat
  domain : Nat
  key : Nat
  sup : Bool
  phys : Bool

/-- A translated access: its physical address and the page's attributes. -/
structure Page where
  pa : Nat
  fmt : Nat := 0
  blk : Nat := 0
  /-- first virtual byte of the page, and SCOFF (R269) -/
  first : Nat := 0
  size : Nat := 65536
  scoff : Int := 0
  key : Nat := 0
  /-- replicas beside the effective home (R278) -/
  reps : List Nat := []
deriving DecidableEq, Repr

/-- The DPART set of a domain on a core (R239, R240). No set applies to a supervisor core's groups (R12). -/
def dpartOf (s : State) (u domain : Nat) : Option (Nat × Dpart) :=
  if isSupCore u then none
  else (s.core u).dparts.find? fun e => e.2.reg.getLsbD 63 && (e.2.reg.toNat >>> 55) % 256 == domain
/-- KEY of a DPART register (R240). -/
def dpartKey (r : DWord) : Nat := bitsOf r.toNat 42 31
/-- The KEY of a domain's set on a core; 0 without one. -/
def keyOf (s : State) (u domain : Nat) : Nat :=
  match dpartOf s u domain with
  | some e => dpartKey e.2.reg
  | none => 0

/-- A domain table entry's offset (R242) and a field of it. -/
def domBase (dom : Nat) : Nat := 0x6000600000 + 64 * dom
def domField (s : State) (d dom off n : Nat) : Nat := (s.die d).num (domBase dom + off) n

/-- The identity under which a fibre's accesses translate (R12, R254). -/
def whoOf (s : State) (u : Nat) (g : Group) (f : Fibre) : Who :=
  match f.gate with
  | some t => ⟨domField s (dieOf u) t.tdom 4 4 % 2 ^ 20, t.tdom, keyOf s u t.tdom, f.sup, false⟩
  | none => ⟨g.pasid, g.domain, keyOf s u g.domain, f.sup, g.phys⟩

/-- A physical address lies in a channel that is retired: within a stack, 256-byte pieces go to the sixteen channels in turn (R21, R138). -/
def inRetired (s : State) (pa : Nat) : Bool :=
  let off := pa % 2 ^ 39
  paPkg pa == s.pkg && decide (off < 4 * stackSize) &&
    (sgetD (s.die (paDie pa)).retired (off / stackSize) 0).testBit (off % stackSize / 256 % 16)
/-- The attributes of a leaf for an access from die `d`. `stm` asks for the primary home (R181). A retired channel is removed by
translation (R21, R138): an address in one does not translate. DESIGN CHOICE, see the log. -/
def pageOf (s : State) (d va : Nat) (kind : Access) (stm : Bool) (e : Nat) (big : Bool) : Except Stop Page :=
  match effHome s d e with
  | none => stopFault Cause.homeLost va
  | some h =>
    let size := if big then 2 ^ 28 else 65536
    let own := (effReplicas s d e).contains d && !stm && (kind == .load || kind == .exec)
    let pa := mkPa (ptePkg e) (if own then d else h) (pteDoff e * 65536 + va % size)
    if inRetired s pa then stopFault Cause.translation va
    else .ok { pa := pa, fmt := pteFmt e, blk := pteBlk e,
               first := va / size * size, size := size, scoff := pteScoff e, key := pteKey e, reps := effReplicas s d e }

/-- The permission stage (R268): the access kind, SUP, the KEY of another package (R270), then REPLICA_WRITE (R181). -/
def permit (s : State) (w : Who) (va : Nat) (kind : Access) (stm : Bool) (e : Nat) (p : Page) : Except Stop Page :=
  let kindOk := match kind with
    | .load => pteRd e
    | .store => pteWr e
    | .atomic => pteRd e && pteWr e
    | .exec => pteEx e
  if !kindOk || (pteSup e && !w.sup) || (ptePkg e != s.pkg && pteKey e != w.key) then stopFault Cause.permission va
  else if (kind == .store || kind == .atomic) && !stm && !p.reps.isEmpty then stopFault Cause.replicaWrite va
  else .ok p

/-- `Translate(va, kind, size)` for an access of the identity `w` from core unit `u`: misalignment, translation, permission
(R8). A miss whose walk ends in a leaf waits until the walk has filled the caches; a walk inside a range under shoot-down,
and a walk that the host makes, wait too (R271, R276, R314). -/
def translate (s : State) (u : Nat) (w : Who) (va : Nat) (kind : Access) (size : Nat) (stm : Bool := false) :
    Except Stop Page :=
  if va % size != 0 then stopFault Cause.misaligned va
  else if w.phys then
    if va ≥ 2 ^ 52 then stopFault Cause.translation va else .ok { pa := va }
  else if !canonical va then stopFault Cause.translation va
  else
    match cachedEntry s u w.pasid w.domain va with
    | some t => do
      let p ← pageOf s (dieOf u) va kind stm t.entry.toNat t.big
      permit s w va kind stm t.entry.toNat p
    | none =>
      if retracted s (dieOf u) w.pasid va || hostWalks s then .error (.block (.walk w.pasid (BitVec.ofNat 64 va) (hostWalks s)))
      else
        match walk s u w.pasid w.domain va with
        | .bad cause => stopFault cause va
        | .leaf _ _ => .error (.block (.walk w.pasid (BitVec.ofNat 64 va) false))

/-- The checks of a translation by the scheduler, which fills no cache: a miss uses the walk's own leaf. A walk that enters a range
under shoot-down waits (R276). A walk that the host makes waits for its reply, and a refused one raises TRANSLATION (R314). -/
def translateNow (s : State) (u : Nat) (w : Who) (va : Nat) (kind : Access) (size : Nat) (stm : Bool := false) :
    Except Stop Page :=
  match translate s u w va kind size stm with
  | .error (.block x) =>
    if retracted s (dieOf u) w.pasid va then .error (.block x)
    else if hostWalks s then
      (if (s.core u).noPage.contains (w.pasid, w.domain, va / 65536) then stopFault Cause.translation va else .error (.block x))
    else match walk s u w.pasid w.domain va with
    | .bad cause => stopFault cause va
    | .leaf e big => do
      let p ← pageOf s (dieOf u) va kind stm e big
      permit s w va kind stm e p
  | r => r

/-- Put an entry in a translation cache, newest first, of at most `cap` entries. -/
def cacheAdd (cap : Nat) (t : TlbEntry) (l : List TlbEntry) : List TlbEntry := (t :: l.filter (· != t)).take cap

/-! ## Where an address lies -/

/-- An island is closed to requests from outside it (R16). -/
def clamped (s : State) (d k : Nat) : Bool :=
  match sget (s.die d).islands k with
  | some i => !i.up
  | none => false

/-- A physical address of the package lies in a clamped island that core unit `u` is not part of (R16). -/
def islandClosed (s : State) (u pa : Nat) : Bool :=
  match paIsland pa with
  | some k => paPkg pa == s.pkg && clamped s (paDie pa) k && !(dieOf u == paDie pa && islandOf u == k)
  | none => false
/-- The checks of a physical address that an access reaches from core unit `u`: the size of the target die's DSM for its window
(R18), and the island (R16). -/
def islandCheck (s : State) (u va pa : Nat) : Except Stop Unit :=
  if paPkg pa = s.pkg && inDsmWindow pa && decide (paOff pa - 0x4000000000 ≥ dsmSize s (paDie pa)) then stopFault Cause.dsmRange va
  else if islandClosed s u pa then stopFault Cause.islandOffline va
  else .ok ()

/-- The fields of a core's slot-map entry (R286). Only cores 0 to 31 of a die have a slot map. -/
def slotEntryOff (u n : Nat) : Nat := 0x6000A00000 + 1024 * (u % 64) + 16 * n
def slotLo (s : State) (u n : Nat) : Nat := (s.die (dieOf u)).num (slotEntryOff u n) 8
def slotHi (s : State) (u n : Nat) : Nat := (s.die (dieOf u)).num (slotEntryOff u n + 8) 8
def slotValid (s : State) (u n : Nat) : Bool := !isSupCore u && (slotLo s u n).testBit 63
def slotDomain (s : State) (u n : Nat) : Nat := bitsOf (slotLo s u n) 62 55
def slotFab (s : State) (u n : Nat) : Bool := (slotLo s u n).testBit 54
def slotPkg (s : State) (u n : Nat) : Nat := bitsOf (slotLo s u n) 53 44
def slotDie (s : State) (u n : Nat) : Nat := bitsOf (slotLo s u n) 43 41
def slotCourse (s : State) (u n : Nat) : Nat := bitsOf (slotLo s u n) 40 29
def slotBroken (s : State) (u n : Nat) : Bool := (slotLo s u n).testBit 25

/-- The slot that a domain's requests to a die use: the lowest-numbered one that is VALID, carries the domain, and names the
package and die (R287). -/
def slotFor (s : State) (u domain pkg die : Nat) : Option Nat :=
  (List.range 64).find? fun n =>
    slotValid s u n && slotDomain s u n == domain && slotPkg s u n == pkg && slotDie s u n == die

/-- The routing check of an address: the own die needs no slot, a supervisor group uses physical links (R12), any other die
needs a slot, and a broken slot raises HOME_LOST (R287, R299). The slot is none for the own die and for supervisor groups. A supervisor
group's access to another package, to which R12 gives it no link and R286 no slot, raises class 8 with index 0xFF, as for a domain
without a slot: DESIGN CHOICE, see the log, since R12 says that class 8 does not apply to it. -/
def routeCheck (s : State) (u domain va pa : Nat) : Except Stop (Option Nat) :=
  if paPkg pa = s.pkg && paDie pa = dieOf u then .ok none
  else if isSupCore u then
    if paPkg pa = s.pkg then .ok none else stopFault Cause.domain (8 * 256 + 0xFF)
  else
    match slotFor s u domain (paPkg pa) (paDie pa) with
    | none => stopFault Cause.domain (8 * 256 + 0xFF)
    | some n => if slotBroken s u n then stopFault Cause.homeLost va else .ok (some n)

end Sys2Proof.Machine
end

