-- ==== Sys2Proof/Machine/Fetch.lean ====
section
/-! DEFINITION. Instruction fetch (R97 to R104): reading a line, its parity, the check of a transfer of control (R101, R321),
and the fetch that comes before every execution. -/

namespace Sys2Proof.Machine

/-- Bits set in a list of words. -/
def onesOf (l : List Word) : Nat := (l.map fun w => popCount w).foldl (· + ·) 0

/-- The parity of R100: PAR0 over bytes 0 to 31 and PAR1 over bytes 32 to 59 are even. -/
def parityOk (x : Line) : Bool :=
  let w := lineParcel x 15
  (onesOf (x.take 8) + (if w.getLsbD 30 then 1 else 0)) % 2 == 0 &&
  (onesOf ((x.drop 8).take 7) + (if w.getLsbD 31 then 1 else 0)) % 2 == 0

/-- The word of counter i of a die (R347). -/
def counterWord (c : Counter) : Nat :=
  c.count + (if c.underBit then 2 ^ 24 else 0) + (if c.overBit then 2 ^ 25 else 0) + (if c.parked.isEmpty then 0 else 2 ^ 26)

/-- A byte of a die's control space as a supervisor physical load sees it: the counters show their state (R347) and the key
store is write-only (R303); the other registers hold their words. -/
def ctlByte (d : Die) (off : Nat) : Byte :=
  if 0x6000700000 ≤ off && off < 0x6000780000 then
    BitVec.ofNat 8 (counterWord (sgetD d.counters ((off - 0x6000700000) / 8) {}) >>> (8 * (off % 8)))
  else if 0x6000D00000 ≤ off && off < 0x6000D20000 then 0
  else BitVec.ofNat 8 ((d.word off).toNat >>> (8 * (off % 8)))

/-- `n` bytes of a die's control space. -/
def ctlBytes (d : Die) (off : Nat) : Nat → List Byte
  | 0 => []
  | n + 1 => ctlByte d off :: ctlBytes d (off + 1) n

/-- The reserved offsets (R138). -/
def isReserved (pa : Nat) : Bool := paOff pa ≥ 4 * stackSize && !inDsmWindow pa && !inControl pa

/-- The bytes behind a physical address (R138): stack memory, DSM, control registers; a reserved offset returns zero. -/
def paBytes (s : State) (pa n : Nat) : List Byte :=
  if paPkg pa != s.pkg then bytesGet s.rack pa n
  else if inDsmWindow pa then bytesGet (s.die (paDie pa)).dsm (paOff pa - 0x4000000000) n
  else if inControl pa then ctlBytes (s.die (paDie pa)) (paOff pa) n
  else if isReserved pa then List.replicate n 0
  else memRead s.mem pa n

/-- Stack memory, as opposed to the DSM window, the control registers and the reserved offsets (R138). -/
def plainPa (pa : Nat) : Bool := paOff pa < 4 * stackSize

/-- The line offset within its die. -/
def lineIx (pa : Nat) : Nat := paOff pa / 128

/-- Take one number out of a list of half-open intervals. -/
def ivRemove (l : List (Nat × Nat)) (x : Nat) : List (Nat × Nat) :=
  l.flatMap fun e =>
    if e.1 ≤ x && x < e.2 then
      (if e.1 < x then [(e.1, x)] else []) ++ (if x + 1 < e.2 then [(x + 1, e.2)] else [])
    else [e]
/-- Take an interval out of a list of half-open intervals. -/
def ivMinus (l : List (Nat × Nat)) (e : Nat × Nat) : List (Nat × Nat) :=
  l.flatMap fun x =>
    (if x.1 < Nat.min x.2 e.1 then [(x.1, Nat.min x.2 e.1)] else []) ++ (if Nat.max x.1 e.2 < x.2 then [(Nat.max x.1 e.2, x.2)] else [])
/-- A number lies in one of the intervals. -/
def ivMem (l : List (Nat × Nat)) (x : Nat) : Bool := l.any fun e => e.1 ≤ x && x < e.2

/-- The line carries the poison of an uncorrectable error (R155). -/
def isPoisoned (s : State) (pa : Nat) : Bool := poisonedAt s pa

/-- An access to a line clears its scrub-pending bit (R156); the zeros it stands for were written when the bit was set. The ECC engine
corrects and counts an error that it can correct (R155). -/
def touchLine (s : State) (pa : Nat) : State :=
  s.modDie (paDie pa) fun d =>
    { d with scrub := ivRemove d.scrub (lineIx pa), flips := d.flips.filter (· != lineIx pa),
             corrected := d.corrected + (if d.flips.contains (lineIx pa) then 1 else 0) }
/-- Count an access to a reserved offset in the die's error counter (R138). -/
def countReserved (s : State) (pa : Nat) : State := s.modDie (paDie pa) fun d => { d with errors := d.errors + 1 }
/-- What a read at a physical address of this package does beside giving its bytes: a line of a stack is read (R155, R156), a row of DSM
leaves the zero-pending state (R152), a reserved offset is counted (R138). -/
def noteRead (s : State) (pa : Nat) : State :=
  if paPkg pa ≠ s.pkg then s
  else if inDsmWindow pa then s.modDie (paDie pa) fun d => { d with dsmPend := ivRemove d.dsmPend ((paOff pa - 0x4000000000) / 64) }
  else if plainPa pa then touchLine s pa
  else if isReserved pa then countReserved s pa else s

/-! ## The L2 slices (R15, R144, R145) -/

/-- The L2 slice of a line of a die, 0 to 15: its island's eight, by the fixed hash. -/
def sliceOf (pa : Nat) : Nat := 8 * stackIsland (paOff pa) + Config.l2Hash (pa % 2 ^ 42 / 128) % 8
/-- The set of a line under a class code (R144). -/
def setOf (pa cls : Nat) : Nat := if cls ≤ 7 then cls * 256 + pa / 128 % 256 else pa / 128 % 2048
/-- The class of a domain on a core; a supervisor group has no DPART set and uses the full index. -/
def classOf (s : State) (u dom : Nat) : Nat :=
  match dpartOf s u dom with
  | some e => bitsOf e.2.reg.toNat 54 51
  | none => 8
/-- The class of the domain in force for a fibre (R144, R244). -/
def fibreClass (s : State) (u slot id : Nat) : Nat :=
  match s.group u slot, s.fibre u slot id with
  | some g, some f => classOf s u (domainOf g f)
  | _, _ => 8
/-- The lines of a set of a slice beside one line. -/
def setMates (s : State) (pa set : Nat) : List Nat :=
  (((s.die (paDie pa)).l2.filter fun e =>
    e.2 == set && e.1 != lineIx pa && sliceOf (mkPa s.pkg (paDie pa) (128 * e.1)) == sliceOf pa)).map (·.1)
/-- A line that a pin holds in its slice (R377). -/
def pinnedLine (d : Die) (line : Nat) : Bool := d.pins.any fun p => p.line == line
/-- Bring a line into its slice under a class. A line that stands in another class's set moves; a full set gives up a line that is
not pinned, which one being the hardware's choice: a free value. -/
def l2Fill (s : State) (pa cls : Nat) : State :=
  let d := paDie pa
  let set := setOf pa cls
  if paPkg pa ≠ s.pkg || !plainPa pa || sget (s.die d).l2 (lineIx pa) = some set then s
  else
    let mates := setMates s pa set
    let put := s.modDie d fun x => { x with l2 := sset x.l2 (lineIx pa) set }
    if mates.length < 16 then put
    else
      match mates.filter fun l => !pinnedLine (s.die d) l with
      | [] => s
      | l :: t => (put.modDie d fun x => { x with l2 := sdel x.l2 ((l :: t).getD (s.free % (t.length + 1)) l) }).bumpFree
/-- A request of a class reads the line of a physical address: it comes into its slice, and is read there (R144, R145, R155, R156). -/
def readLine (s : State) (pa cls : Nat) : State := noteRead (l2Fill s pa cls) pa

/-- The sixteen parcels of the line at a physical address, as memory holds them now. -/
def lineAt (s : State) (pa : Nat) : Line := bytesWords 16 (paBytes s (pa / 64 * 64) 64)

/-- The line as the core's instruction cache holds it, else as memory holds it (R104). -/
def coreLine (s : State) (u pa : Nat) : Line :=
  match sget (s.core u).icache (pa / 64) with
  | some x => x
  | none => lineAt s pa

/-- The route of a fetch to the line's die, and the island (R16, R104, R287). Every fault of a fetch reports the line's address. -/
def fetchRoute (s : State) (u : Nat) (g : Group) (f : Fibre) (line : Nat) (p : Page) : Except Stop Page :=
  match routeCheck s u (domainOf g f) line p.pa, islandCheck s u line p.pa with
  | .error (.fault cause sub _), _ | .ok _, .error (.fault cause sub _) => .error (.fault cause sub line)
  | .error w, _ | .ok _, .error w => .error w
  | .ok _, .ok _ => .ok p
/-- The translation of a fetch: the line's address, for execution, 64 bytes; then its route (R104). -/
def fetchPage (s : State) (u : Nat) (g : Group) (f : Fibre) (va : Nat) : Except Stop Page :=
  match translate s u (whoOf s u g f) (va / 64 * 64) .exec 64 with
  | .error e => .error e
  | .ok p => fetchRoute s u g f (va / 64 * 64) p
/-- The same by the scheduler and the supervisor's responses, which fill no cache. -/
def fetchPageNow (s : State) (u : Nat) (g : Group) (f : Fibre) (va : Nat) : Except Stop Page :=
  match translateNow s u (whoOf s u g f) (va / 64 * 64) .exec 64 with
  | .error e => .error e
  | .ok p => fetchRoute s u g f (va / 64 * 64) p
/-- The line cannot be used: it is not in the core's instruction cache, and where it lies its parity fails or it carries poison (R103,
R155). -/
def fetchBroken (s : State) (u pa : Nat) : Bool :=
  (sget (s.core u).icache (pa / 64)).isNone && (!parityOk (lineAt s pa) || isPoisoned s pa)

/-- R101 on a line: the parcel is an instruction start with its BTM bit set. -/
def targetOk (x : Line) (va : Nat) : Bool :=
  let k := va / 4 % 16
  va % 4 == 0 && k < 15 && (lineStarts x).contains k && (lineParcel x 15).getLsbD k

/-- The check of a transfer to `va` (R321): the target line is fetched; where that fetch would fault the transfer is made
unchecked, else R101 decides. -/
def transferCheck (c : Ctx) (f : Fibre) (va : Nat) : Except Stop Unit :=
  match fetchPage c.s c.u c.g f va with
  | .error (.block w) => .error (.block w)
  | .error (.fault _ _ _) => .ok ()
  | .ok p => if fetchBroken c.s c.u p.pa || targetOk (coreLine c.s c.u p.pa) va then .ok () else stopFault Cause.alignment va

/-- The check of SPAWN's target (R31). Where the fetch of the target's line would fault, the mask cannot be read, and SPAWN raises
the fetch's own fault: DESIGN CHOICE, since R406 lists TRANSLATION and PERMISSION for the frames alone. -/
def targetCheck (c : Ctx) (f : Fibre) (va : Nat) : Except Stop Unit := do
  let p ← fetchPage c.s c.u c.g f va
  if fetchBroken c.s c.u p.pa then stopFault Cause.machineCheck (va / 64 * 64)
  else if targetOk (coreLine c.s c.u p.pa) va then .ok () else stopFault Cause.alignment va

/-- The line of a transfer's target comes into the core's instruction cache, from where the check reads it (R104, R138, R155, R156, R321);
one that cannot be used does not. -/
def fillTarget (s : State) (u cls : Nat) (p : Page) : State :=
  if (sget (s.core u).icache (p.pa / 64)).isNone && !fetchBroken s u p.pa then
    (readLine s p.pa cls).modCore u fun c => { c with icache := sset c.icache (p.pa / 64) (lineAt s p.pa) }
  else s
/-- The fetch of the line at `va` for a fibre, where it faults nothing. -/
def fetchTarget (s : State) (u : Nat) (g : Group) (f : Fibre) (va : Nat) : State :=
  match fetchPage s u g f va with
  | .ok p => fillTarget s u (classOf s u (domainOf g f)) p
  | .error _ => s
/-- The same by the scheduler and the supervisor's responses. -/
def fetchTargetNow (s : State) (u : Nat) (g : Group) (f : Fibre) (va : Nat) : State :=
  match fetchPageNow s u g f va with
  | .ok p => fillTarget s u (classOf s u (domainOf g f)) p
  | .error _ => s

/-- What the fetch for the sheaf being issued ends in. -/
inductive FetchEnd where
  /-- no fibre of the sheaf is left to run -/
  | gone
  | fault (cause faddr : Nat)
  | wait (w : Wait)
  /-- the line is not in the instruction cache -/
  | miss (u line : Nat)
  | line (x : Line) (k : Nat) (conv : Nat) (sup : Bool)

/-- The fetch for the sheaf being issued (R104). -/
def fetchSheaf (s : State) : FetchEnd :=
  match s.ctx with
  | none => .gone
  | some c =>
    match c.lanes with
    | [] => .gone
    | ln :: _ =>
      match fetchPage s c.u c.g ln.f c.pc.toNat with
      | .error (.fault cause _ a) => .fault cause a
      | .error (.block w) => .wait w
      | .ok p =>
        match sget (s.core c.u).icache (p.pa / 64) with
        | none => .miss c.u (p.pa / 64)
        | some x => .line x (c.pc.toNat / 4 % 16) c.g.hdr.kconv ln.f.sup

/-- Check 7 of R118 after the checks of the fields. -/
def decodeFor (x : Line) (k conv : Nat) (sup : Bool) : Except DecodeError Instr :=
  match decodeLine conv x k with
  | .error e => .error e
  | .ok i => if supervisorOnly i && !sup then .error .priv else .ok i

/-- The fault of a failed check of R118, in every gathered fibre. -/
def decodeFault (err : DecodeError) (s : State) : State :=
  match err with
  | .illegal code parcel bit => s.faultSheaf Cause.illegal code (parcel * 256 + bit)
  | .priv => s.faultSheaf Cause.privilege 0 0
/-- ILLEGAL_ENCODING (R118 to R120): the failed check raises its cause in every gathered fibre, with the field's place in
FADDR, and has no other effect. -/
def execIllegalEncoding (err : DecodeError) (s : State) : Host.Outcome State Fault Refusal := .next (decodeFault err s)

/-- A forced halt meets the sheaf that is about to execute: a decode fault of its instruction is delivered first (R121). -/
def deliverDecode (s : State) : State :=
  match fetchSheaf s with
  | .line x k conv sup => match decodeFor x k conv sup with
    | .error e => { decodeFault e s with cur := none }
    | .ok _ => s
  | _ => s

/-- XOR of a line with the flips of a transfer, which may be shorter. -/
def flipLine (x flips : List Word) : Line := (List.range 16).map fun k => x.getD k 0 ^^^ flips.getD k 0

/-- The class of a core's fetch: that of the domain in force for the sheaf being issued (R144). -/
def fetchClass (s : State) (u : Nat) : Nat :=
  match s.ctx with
  | some c => if c.u = u then match c.lanes with
      | ln :: _ => classOf s u (domainOf c.g ln.f)
      | [] => 8
    else 8
  | none => 8
/-- A line that cannot be fetched raises MACHINE_CHECK in the sheaf that is about to execute it (R103). -/
def brokenLine (u line : Nat) (s s1 : State) : State :=
  match fetchSheaf s, s.ctx with
  | .miss u' line', some c =>
    if u' = u && line' = line then { s1.faultSheaf Cause.machineCheck 0 (c.pc.toNat / 64 * 64) with cur := none } else s1
  | _, _ => s1

/-- LINE_FILL (R103): the line at 64 × `line` arrives with flips `x1`; on a parity mismatch it is fetched once more, with flips
`x2`. A second mismatch raises MACHINE_CHECK for the sheaf that is about to execute the line. Each mismatch counts as a soft
error of the die. A line that carries poison raises MACHINE_CHECK too: DESIGN CHOICE, since R155 delivers the poison to every requester
and says no more of one without a destination register. -/
def execLineFill (u line : Nat) (x1 x2 : List Word) (s0 : State) : Host.Outcome State Fault Refusal :=
  let raw := lineAt s0 (64 * line)
  let s := readLine s0 (64 * line) (fetchClass s0 u)
  let put := fun (s : State) (x : Line) => s.modCore u fun c => { c with icache := sset c.icache line x }
  let count := fun (s : State) => s.modDie (dieOf u) fun d => { d with softErrors := d.softErrors + 1 }
  .next <|
    if isPoisoned s0 (64 * line) then brokenLine u line s s
    else if parityOk (flipLine raw x1) then put s (flipLine raw x1)
    else if parityOk (flipLine raw x2) then put (count s) (flipLine raw x2)
    else brokenLine u line s (count (count s))

end Sys2Proof.Machine
end

