-- ==== Sys2Proof/Machine/Flags.lean ====
section
/-! DEFINITION. The sticky flags of a fibre (R63, R91) and the ranges of the integer types (R322). -/

namespace Sys2Proof.Machine

/-- FSTAT bits 4:0 (R63). -/
def flagInv : BitVec 5 := 1
def flagDvz : BitVec 5 := 2
def flagOfl : BitVec 5 := 4
def flagUfl : BitVec 5 := 8
def flagInx : BitVec 5 := 16

/-- FSTAT as MFSR reads it: MODE in bit 16, FTZ in bit 8, the flags in bits 4:0 (R63). -/
def fstatWord (f : Fibre) : Word :=
  BitVec.ofNat 32 (f.flags.toNat + (if f.ftz then 256 else 0) + (if f.sup then 65536 else 0))

/-- An MTSR to FSTAT writes the flags and FTZ together; MODE is read-only (R63). -/
def setFstat (v : Word) (f : Fibre) : Fibre := { f with flags := v.extractLsb' 0 5, ftz := v.getLsbD 8 }

/-- The width of an integer type: 64 for .i64, else 32 (R322). -/
def intWidth (ty : BitVec 4) : Nat := if ty = 2 then 64 else 32
/-- A type whose operands are read as signed integers: .i32 and .i64 (R322). -/
def intSigned (ty : BitVec 4) : Bool := ty != 1
/-- The least and greatest values of an integer type. -/
def intLo (ty : BitVec 4) : Int := if ty = 1 then 0 else if ty = 2 then -(2 ^ 63 : Int) else -(2 ^ 31 : Int)
def intHi (ty : BitVec 4) : Int := if ty = 1 then 2 ^ 32 - 1 else if ty = 2 then 2 ^ 63 - 1 else 2 ^ 31 - 1
/-- A typed source as an exact integer (R322). -/
def intVal (ty : BitVec 4) (x : DWord) : Int :=
  if ty = 2 then x.toInt else if ty = 1 then (x.extractLsb' 0 32).toNat else (x.extractLsb' 0 32).toInt
/-- `Wrap(x, w)` into a 64-bit container. -/
def intWrap (ty : BitVec 4) (x : Int) : DWord := BitVec.ofNat 64 (wrapNat x (intWidth ty))
/-- The clamp of .sat (R322). -/
def intClamp (ty : BitVec 4) (x : Int) : Int := if x < intLo ty then intLo ty else if x > intHi ty then intHi ty else x
/-- The result of the mould: clamped when SAT = 1, then wrapped (R322). -/
def intResult (ty : BitVec 4) (sat : Bool) (x : Int) : DWord := intWrap ty (if sat then intClamp ty x else x)

/-- An integer operation on w-bit patterns: 0 add, 1 min, 2 max, 3 and, 4 or, 5 xor (R154, R329). -/
def intOp (op : Nat) (signed : Bool) (w : Nat) (a b : Nat) : Nat :=
  let sv := fun x : Nat => if signed && x ≥ 2 ^ (w - 1) then (x : Int) - (2 ^ w : Nat) else (x : Int)
  if op = 0 then (a + b) % 2 ^ w
  else if op = 1 then (if sv a ≤ sv b then a else b)
  else if op = 2 then (if sv a ≤ sv b then b else a)
  else if op = 3 then a &&& b
  else if op = 4 then a ||| b
  else a ^^^ b

end Sys2Proof.Machine
end

