-- ==== Sys2Proof/Machine/Formats.lean ====
section
/-! DEFINITION. The element formats, `Value` and `RoundTo` (R72 to R96): exact dyadic values, rounding in two steps, the flags,
and the arithmetic that several units share. -/

namespace Sys2Proof.Machine

/-- A value of a floating-point format: ± m × 2^e exactly, an infinity, or a NaN. -/
inductive Val where
  | fin (neg : Bool) (m : Nat) (e : Int)
  | inf (neg : Bool)
  | nan (signalling : Bool)
deriving DecidableEq, Repr

/-- A floating-point format: mantissa width, width in bits, bias, the code of the largest finite magnitude, and the codes of
+infinity and of the canonical NaN where the format has them (R72, R88). -/
structure Fmt where
  mb : Nat
  width : Nat
  bias : Nat
  maxCode : Nat
  inf : Option Nat
  nan : Option Nat
deriving DecidableEq, Repr

def fmtF32 : Fmt := ⟨23, 32, 127, 0x7F7FFFFF, some 0x7F800000, some 0x7FC00000⟩
def fmtF16 : Fmt := ⟨10, 16, 15, 0x7BFF, some 0x7C00, some 0x7E00⟩
def fmtBF16 : Fmt := ⟨7, 16, 127, 0x7F7F, some 0x7F80, some 0x7FC0⟩
def fmtE5M2 : Fmt := ⟨2, 8, 15, 0x7B, some 0x7C, some 0x7E⟩
def fmtE4M3 : Fmt := ⟨3, 8, 7, 0x7E, none, some 0x7F⟩
def fmtE3M2 : Fmt := ⟨2, 6, 3, 0x1F, none, none⟩
def fmtE2M3 : Fmt := ⟨3, 6, 1, 0x1F, none, none⟩
def fmtE2M1 : Fmt := ⟨1, 4, 1, 0x7, none, none⟩
/-- A block scale, unsigned E3M5 (R77); it is never rounded to. -/
def fmtE3M5 : Fmt := ⟨5, 9, 3, 0xFE, none, some 0xFF⟩

/-- `Value(fmt, code)` (R8, R72). A NaN is signalling when its quiet bit, the top mantissa bit, is clear (R355); E4M3's NaNs
have all mantissa bits set. -/
def value (f : Fmt) (code : Nat) : Val :=
  let neg := code.testBit (f.width - 1)
  let mag := code % 2 ^ (f.width - 1)
  let e := mag / 2 ^ f.mb
  let m := mag % 2 ^ f.mb
  if f.inf == some mag then .inf neg
  else if mag > f.maxCode then .nan (!m.testBit (f.mb - 1))
  else if e = 0 then .fin neg m (1 - (f.bias : Int) - f.mb)
  else .fin neg (2 ^ f.mb + m) ((e : Int) - f.bias - f.mb)

/-- The rounding modes (R84). -/
inductive Rnd where
  | rne | rna | rz | rdn | rup
deriving DecidableEq, Repr

/-- A rounding mode's code (R108). -/
def rndOf (c : Nat) : Rnd :=
  if c = 1 then .rna else if c = 2 then .rz else if c = 3 then .rdn else if c = 4 then .rup else .rne

/-- Whether the magnitude kept, `n`, goes up: `twice` is twice the part cut off, `unit` what one step of `n` is worth. -/
def roundUp (mode : Rnd) (neg : Bool) (n twice unit : Nat) : Bool :=
  match mode with
  | .rne => twice > unit || (twice == unit && n % 2 == 1)
  | .rna => twice ≥ unit
  | .rz => false
  | .rdn => neg && twice > 0
  | .rup => !neg && twice > 0

/-- m × 2^e in units of 2^q, rounded under the mode: the integer and whether something was cut off. -/
def roundUnits (mode : Rnd) (neg : Bool) (m : Nat) (e q : Int) : Nat × Bool :=
  if q ≤ e then (m * 2 ^ (e - q).toNat, false)
  else
    let unit := 2 ^ (q - e).toNat
    let n := m / unit
    let r := m % unit
    (if roundUp mode neg n (2 * r) unit then n + 1 else n, r != 0)

/-- A mode rounds toward zero for a sign (R86). -/
def towardZero (mode : Rnd) (neg : Bool) : Bool :=
  match mode with
  | .rz => true
  | .rdn => !neg
  | .rup => neg
  | _ => false

/-- The sign bit of a format. -/
def signBit (f : Fmt) (neg : Bool) : Nat := if neg then 2 ^ (f.width - 1) else 0

/-- The code of an overflow of a sign (R86). -/
def overflowCode (f : Fmt) (neg : Bool) (mode : Rnd) (sat : Bool) : Nat :=
  signBit f neg +
    if sat || towardZero mode neg then f.maxCode
    else match f.inf with
      | some i => i
      | none => f.nan.getD f.maxCode

/-- `RoundTo` of the exact value ± m × 2^e: the code and the flags raised (R85 to R87). -/
def roundFin (f : Fmt) (neg : Bool) (m : Nat) (e : Int) (mode : Rnd) (sat : Bool) : Nat × BitVec 5 :=
  if m = 0 then (signBit f neg, 0)
  else
    let lowest : Int := 1 - (f.bias : Int) - f.mb
    let q := max (e + (m.log2 : Int) - f.mb) lowest
    let (n, cut) := roundUnits mode neg m e q
    let code := n + (q - lowest).toNat * 2 ^ f.mb
    if code > f.maxCode then (overflowCode f neg mode sat, flagOfl ||| flagInx)
    else (signBit f neg + code, if cut then (if code < 2 ^ f.mb then flagUfl ||| flagInx else flagInx) else 0)

/-- `RoundTo` of a value (R8, R86, R88): an infinity overflows with the overflow flag alone; a NaN gives the format's NaN, or
code 0 with the invalid flag. -/
def roundVal (f : Fmt) (v : Val) (mode : Rnd) (sat : Bool) : Nat × BitVec 5 :=
  match v with
  | .fin neg m e => roundFin f neg m e mode sat
  | .inf neg => (overflowCode f neg mode sat, flagOfl)
  | .nan _ => match f.nan with
    | some c => (c, 0)
    | none => (0, flagInv)

/-- The canonical NaN of a format that has one (R88). -/
def canonNan (f : Fmt) : Nat := f.nan.getD 0
/-- The infinity of a sign. -/
def infCode (f : Fmt) (neg : Bool) : Nat := signBit f neg + f.inf.getD f.maxCode

/-! ## Exact arithmetic -/

/-- A signed dyadic as an integer of units 2^q, for q at or below its exponent. -/
def dyUnits (neg : Bool) (m : Nat) (e q : Int) : Int :=
  let x : Int := (m * 2 ^ (e - q).toNat : Nat)
  if neg then -x else x

/-- The exact sum of two finite values, as a sign, magnitude and exponent; the sign of a zero sum is false. -/
def addFin (n1 : Bool) (m1 : Nat) (e1 : Int) (n2 : Bool) (m2 : Nat) (e2 : Int) : Bool × Nat × Int :=
  let q := min e1 e2
  let s := dyUnits n1 m1 e1 q + dyUnits n2 m2 e2 q
  (decide (s < 0), s.natAbs, q)

/-- A NaN operand that is signalling. -/
def Val.isSnan : Val → Bool
  | .nan true => true
  | _ => false
def Val.isNan : Val → Bool
  | .nan _ => true
  | _ => false
def Val.neg? : Val → Bool
  | .fin n _ _ | .inf n => n
  | .nan _ => false
/-- The opposite value (FSUB). -/
def Val.negate : Val → Val
  | .fin n m e => .fin (!n) m e
  | .inf n => .inf (!n)
  | .nan s => .nan s
def Val.isZero : Val → Bool
  | .fin _ m _ => m == 0
  | _ => false
def Val.isInf : Val → Bool
  | .inf _ => true
  | _ => false

/-- The exact product, with IEEE 754 rules for infinities; a NaN comes out of a NaN or of 0 × ∞. -/
def Val.mul (x y : Val) : Val :=
  match x, y with
  | .nan _, _ | _, .nan _ => .nan false
  | .inf a, .inf b => .inf (a != b)
  | .inf a, .fin b m _ | .fin b m _, .inf a => if m = 0 then .nan false else .inf (a != b)
  | .fin a m e, .fin b k d => .fin (a != b) (m * k) (e + d)

/-- 0 × ∞ in either order (R357). -/
def zeroTimesInf (x y : Val) : Bool := (x.isZero && y.isInf) || (x.isInf && y.isZero)

/-- The sum of two values rounded to `f` (R356, R357): the code and the flags. -/
def addRound (f : Fmt) (x y : Val) (mode : Rnd) (sat : Bool) : Nat × BitVec 5 :=
  match x, y with
  | .inf a, .inf b => if a = b then (infCode f a, 0) else (canonNan f, flagInv)
  | .nan a, .nan b => (canonNan f, if a || b then flagInv else 0)
  | .nan a, _ | _, .nan a => (canonNan f, if a then flagInv else 0)
  | .inf a, _ | _, .inf a => (infCode f a, 0)
  | .fin n1 m1 e1, .fin n2 m2 e2 =>
    let (n, m, e) := addFin n1 m1 e1 n2 m2 e2
    if m = 0 then
      (signBit f (if m1 = 0 && m2 = 0 && n1 == n2 then n1 else mode == .rdn), 0)
    else roundFin f n m e mode sat

/-- The product of two values rounded to `f` (R356, R357). -/
def mulRound (f : Fmt) (x y : Val) (mode : Rnd) (sat : Bool) : Nat × BitVec 5 :=
  if zeroTimesInf x y then (canonNan f, flagInv)
  else match x.mul y with
    | .nan _ => (canonNan f, if x.isSnan || y.isSnan then flagInv else 0)
    | .inf n => (infCode f n, 0)
    | .fin n m e => roundFin f n m e mode sat

/-- x × z + y rounded once to `f` (R356, R357). -/
def fmaRound (f : Fmt) (x z y : Val) (mode : Rnd) (sat : Bool) : Nat × BitVec 5 :=
  if zeroTimesInf x z then (canonNan f, flagInv)
  else if x.isNan || z.isNan || y.isNan then
    (canonNan f, if x.isSnan || z.isSnan || y.isSnan then flagInv else 0)
  else addRound f (x.mul z) y mode sat

/-- An operand read under FTZ: a subnormal is zero of its sign (R90). -/
def flushIn (f : Fmt) (ftz : Bool) (code : Nat) : Nat :=
  let mag := code % 2 ^ (f.width - 1)
  if ftz && mag < 2 ^ f.mb then code - mag else code
/-- A result written under FTZ: a subnormal is zero of its sign, with underflow and inexact (R90, R356). -/
def flushOut (f : Fmt) (ftz : Bool) (r : Nat × BitVec 5) : Nat × BitVec 5 :=
  let mag := r.1 % 2 ^ (f.width - 1)
  if ftz && 0 < mag && mag < 2 ^ f.mb then (r.1 - mag, r.2 ||| flagUfl ||| flagInx) else r

/-- The order of two values that are not NaN: less than. −0 equals +0. -/
def Val.lt (x y : Val) : Bool :=
  match x, y with
  | .inf a, .inf b => a && !b
  | .inf a, _ => a
  | _, .inf b => !b
  | .fin n1 m1 e1, .fin n2 m2 e2 =>
    let q := min e1 e2
    dyUnits n1 m1 e1 q < dyUnits n2 m2 e2 q
  | _, _ => false

/-- FMIN and FMAX on codes, and the min and max of R95: one of the operands unchanged, the other operand of a NaN, the
canonical NaN of two, −0 below +0 (R358). -/
def minMax (f : Fmt) (isMin : Bool) (a b : Nat) : Nat :=
  match value f a, value f b with
  | .nan _, .nan _ => canonNan f
  | .nan _, _ => b
  | _, .nan _ => a
  | x, y =>
    if x.lt y then (if isMin then a else b)
    else if y.lt x then (if isMin then b else a)
    else if x.neg? == isMin then a else b

/-! ## The formats of types, tiles and pages -/

/-- The floating-point format of a TYPE code (R108). -/
def typeFmt (ty : Nat) : Option Fmt :=
  if ty = 3 then some fmtF32 else if ty = 4 then some fmtBF16 else if ty = 5 then some fmtF16
  else if ty = 6 then some fmtE4M3 else if ty = 7 then some fmtE5M2 else if ty = 8 then some fmtE3M2
  else if ty = 9 then some fmtE2M3 else if ty = 10 then some fmtE2M1 else none

/-- The page format code that a TYPE selects (R81, R371). -/
def typePageFmt (ty : Nat) : Nat := if 3 ≤ ty && ty ≤ 12 then ty - 2 else 0

/-- The floating-point format of a page format code (R81). -/
def pageFmt (c : Nat) : Option Fmt := typeFmt (c + 2)

/-- The width in bits of an element of a page format code: FP32 32, 16-bit 16, FP8 and INT8 8, FP6 6, FP4 and INT4 4. -/
def elemBits (c : Nat) : Nat :=
  if c = 1 then 32 else if c = 2 || c = 3 then 16 else if c = 4 || c = 5 || c = 9 then 8
  else if c = 6 || c = 7 then 6 else 4

/-- Codes of `n` elements packed little-endian in bytes, the first in the low bits (R73). -/
def unpackCodes (bits n : Nat) (bytes : List Byte) : List Nat :=
  let x := ofLe bytes
  (List.range n).map fun i => x / 2 ^ (bits * i) % 2 ^ bits
/-- Pack element codes into bytes (R73). -/
def packCodes (bits : Nat) (codes : List Nat) (bytes : Nat) : List Byte :=
  leBytes bytes ((codes.zipIdx.map fun e => e.1 % 2 ^ bits * 2 ^ (bits * e.2)).foldl (· + ·) 0)

/-- The decoded value of an element under a block scale (R78): the value, and whether 0 × ∞ was formed. -/
def scaledValue (f : Fmt) (code scale : Nat) : Val × Bool :=
  let x := value f code
  let k := value fmtE3M5 scale
  (match x with
    | .nan s => .nan s
    | _ => x.mul k, x.isInf && k.isZero)

/-- A block scale of 1.0 (R77). -/
def unitScale : Nat := 0x60

/-- The register of a loaded element of page format `c` (R371): a floating element widened to FP32 with its block scale, an
integer sign-extended. The flag is the invalid of R78. -/
def loadElem (c code scale : Nat) : Word × BitVec 5 :=
  match pageFmt c with
  | some f =>
    let (v, bad) := scaledValue f code scale
    (BitVec.ofNat 32 (roundVal fmtF32 v .rne false).1 |> fun w => match v with
      | .inf n => BitVec.ofNat 32 (infCode fmtF32 n)
      | _ => w, if bad then flagInv else 0)
  | none => (if c = 9 then (BitVec.ofNat 8 code).signExtend 32 else (BitVec.ofNat 4 code).signExtend 32, 0)

/-- A float as an FP32 pattern. -/
def w32 (r : Nat × BitVec 5) : Word := BitVec.ofNat 32 r.1

/-- FP32 operations that round with RNE and honour subnormals (R95, R329). -/
def f32Add (a b : Word) : Word := w32 (addRound fmtF32 (value fmtF32 a.toNat) (value fmtF32 b.toNat) .rne false)
def f32Min (a b : Word) : Word := BitVec.ofNat 32 (minMax fmtF32 true a.toNat b.toNat)
def f32Max (a b : Word) : Word := BitVec.ofNat 32 (minMax fmtF32 false a.toNat b.toNat)
def f32Fma (a x y : Word) : Word :=
  w32 (fmaRound fmtF32 (value fmtF32 a.toNat) (value fmtF32 x.toNat) (value fmtF32 y.toNat) .rne false)
def bf16Add (a b : BitVec 16) : BitVec 16 :=
  BitVec.ofNat 16 (addRound fmtBF16 (value fmtBF16 a.toNat) (value fmtBF16 b.toNat) .rne false).1

end Sys2Proof.Machine
end

