-- ==== Sys2Proof/Machine/Home.lean ====
section
/-! DEFINITION. What happens at the home of a line (R155, R156, R159 to R175): reading and writing stack memory and DSM, leases
and completion times, the requests in flight and what performing one does. -/

namespace Sys2Proof.Machine

/-! ## Stack memory -/

/-- Mark bytes of a line overwritten; the poison mark goes when every byte of the line has been (R155). -/
def cleanPoison (m : SMap (BitVec 128)) (line first n : Nat) : SMap (BitVec 128) :=
  match sget m line with
  | none => m
  | some b =>
    let b' := b &&& ~~~(BitVec.ofNat 128 ((2 ^ n - 1) * 2 ^ first))
    if b' = 0 then sdel m line else sset m line b'

/-- Write bytes into a row of a die's DSM; the row leaves the zero-pending state (R152). The zeros it stands for were written
when it entered that state. -/
def dsmWrite (s : State) (die off : Nat) (bytes : List Byte) : State :=
  s.modDie die fun d => { d with dsm := bytesSet d.dsm off bytes, dsmPend := ivRemove d.dsmPend (off / 64) }

/-- Write bytes within one line of stack memory, or into the physical window onto DSM (R138, R156). Control registers and
reserved offsets are not written here. -/
def homeWrite (s : State) (pa : Nat) (bytes : List Byte) : State :=
  if inDsmWindow pa then dsmWrite s (paDie pa) (paOff pa - 0x4000000000) bytes
  else if !plainPa pa then s
  else
    let s1 := (touchLine s pa).modDie (paDie pa) fun d =>
      { d with poison := cleanPoison d.poison (lineIx pa) (pa % 128) bytes.length }
    { s1 with mem := memWrite s1.mem pa bytes }

/-- Read bytes of one line; none when the line carries poison (R57, R155). -/
def homeRead (s : State) (pa n : Nat) : Option (List Byte) :=
  if isPoisoned s pa then none else some (paBytes s pa n)

/-! ## Leases and completion times (R166, R167) -/

/-- LEASE of a die (R170). -/
def leaseLen (s : State) (d : Nat) : Nat := (s.die d).num 0x6000000040 8 % 8192
/-- The largest lease expiry the home has granted for a line (R166). -/
def horizonOf (s : State) (pa : Nat) : Nat := sgetD (s.die (paDie pa)).horizon (lineIx pa) 0
/-- Record a lease expiry. -/
def raiseHorizon (s : State) (pa e : Nat) : State :=
  s.modDie (paDie pa) fun d => { d with horizon := sset d.horizon (lineIx pa) (Nat.max (sgetD d.horizon (lineIx pa) 0) e) }

/-- A store or atomic that changes a line: which dies it still has to be applied at. -/
def Flight.applyDies (f : Flight) : List Nat :=
  match f.kind with
  | .store | .atomic _ _ _ => [paDie f.pa]
  | .stm ds => ds
  | _ => []

/-- The requests pending at die `d` for the line at die offset index `ix`: arrived, not applied there. -/
def pendingAt (s : State) (d ix : Nat) : List Flight :=
  s.flights.filter fun f => f.arrived && f.applyDies.contains d && lineIx f.pa == ix && paPkg f.pa == s.pkg

/-- The completion time of a store that reaches the home of a line now: the largest of the arrival time, the line's lease
horizon, and T of any earlier store still pending (R167). -/
def completionTime (s : State) (d pa : Nat) : Nat :=
  (pendingAt s d (lineIx pa)).foldl (fun t f => Nat.max t f.t)
    (Nat.max (s.now d) (sgetD (s.die d).horizon (lineIx pa) 0))

/-! ## Atomic arithmetic on a location (R329) -/

/-- The new value of a location under an atomic: 0 add to 5 xor, 6 exch, 7 cas; `ty` is the TYPE code (R329). -/
def atomicNew (op ty n : Nat) (old b cmp : Nat) : Nat :=
  if op = 6 then b
  else if op = 7 then (if old = cmp then b else old)
  else if ty = 3 then
    let x := BitVec.ofNat 32 old
    let y := BitVec.ofNat 32 b
    (if op = 0 then f32Add x y else if op = 1 then f32Min x y else f32Max x y).toNat
  else intOp op (ty != 1) (8 * n) old b

/-! ## Requests -/

/-- Raise a fibre's WCT; a fibre that is gone raises nothing (R33, R168). -/
def raiseWct (s : State) (u slot id t : Nat) : State := s.modFibre u slot id fun f => { f with wct := Nat.max f.wct t }

/-- The latest package time that any die's counter shows (R24). -/
def latest (s : State) : Nat := (s.dies.map fun e => e.2.time).foldl Nat.max 0

/-- Change the outstanding return `id` of a core. -/
def State.modReturn (s : State) (u id : Nat) (f : Return → Return) : State :=
  s.modCore u fun c => { c with returns := c.returns.map fun r => if r.id = id then f r else r }

/-- The returned registers of a part get their values (R55); it may then be written by LONG_LATENCY_RETURN. -/
def fillReturn (s : State) (u : Nat) (p : Part) (vals : List Word) : State :=
  match p.ret with
  | none => s
  | some id =>
    s.modReturn u id fun r =>
      { r with st := .ready, dests := (r.dests.zip vals).map fun e => (e.1.1, e.1.2.1, e.2), after := latest s }

/-- The returned registers of a part are to be poisoned with `cause` (R57). -/
def failReturn (s : State) (u : Nat) (cause : Nat) (p : Part) : State :=
  match p.ret with
  | none => s
  | some id => s.modReturn u id fun r => { r with st := .failed cause }

/-- Every part of a request ends with an error (R16, R57, R283). -/
def failFlight (s : State) (cause : Nat) (f : Flight) : State :=
  f.parts.foldl (fun s p => failReturn s f.u cause p) s

/-- Take a request out of those in flight. -/
def dropFlight (s : State) (id : Nat) : State := { s with flights := s.flights.filter fun f => f.id != id }

/-- Two parts touch a line in common. -/
def Part.touches (p q : Part) : Bool :=
  lineOf p.addr ≤ lineOf (q.addr + q.size - 1) && lineOf q.addr ≤ lineOf (p.addr + p.size - 1)

/-- The places that a part of a request is performed at: its own, and the replicas that an STM has still to write (R181). -/
def Flight.places (x : Flight) (p : Part) : List Part :=
  p :: match x.kind with
    | .stm ds => ds.map fun d => { p with addr := mkPa (paPkg p.addr) d (paOff p.addr) }
    | _ => []
/-- A part of a request and another request's meet at some place. -/
def Flight.meets (x f : Flight) (p q : Part) : Bool := (x.places p).any fun a => (f.places q).any fun b => a.touches b

/-- Another request of the same fibre to the same line or row was issued earlier and is not yet performed: the later one
waits for it, so that a fibre's accesses to one location are performed in program order (R160). -/
def olderSame (s : State) (f : Flight) : Bool :=
  s.flights.any fun x => x.id < f.id && x.u == f.u && x.slot == f.slot &&
    x.parts.any fun p => f.parts.any fun q => p.fibre == q.fibre && x.meets f p q

/-- The `n` registers of the bytes that a part has read, and the flags of R78: whole words little-endian, or elements of a
page format decoded with their block scale, or their codes zero-extended (R370, R371). -/
def partWords (decode n scale : Nat) (bytes : List Byte) : List Word × BitVec 5 :=
  if decode = 0 then (bytesWords n bytes, 0)
  else
    let c := (decode - 1) % 16
    let codes := unpackCodes (elemBits c) n bytes
    if decode > 16 then (codes.map (BitVec.ofNat 32), 0)
    else
      let rs := codes.map fun k => loadElem c k scale
      (rs.map (·.1), (rs.map (·.2)).foldl (· ||| ·) 0)

/-- All that a return waits for is there: its registers' values are (R55, R370, R371). -/
def Return.filled (r : Return) (decode : Nat) (bytes : List Byte) : Return :=
  let v := partWords decode r.dests.length r.scale bytes
  { r with st := .ready, flags := v.2, dests := (r.dests.zip v.1).map fun e => (e.1.1, e.1.2.1, e.2) }
/-- The marker of a part that fetches a block scale. -/
def scaleMark : Nat := 33
/-- The bytes of a load part have arrived (R55, R372). A typed load's elements and its block scale are separate accesses, and the return
can be written when both are there. One of them may have ended with an error. -/
def fillLoad (s : State) (u : Nat) (p : Part) (bytes : List Byte) : State :=
  match p.ret with
  | none => s
  | some id =>
    s.modReturn u id fun r0 =>
      let r := { r0 with after := latest s }
      match r.st with
      | .failed _ => r
      | _ =>
        if p.decode ≥ scaleMark then
          let r1 := { r with scale := ofLe bytes, scaleFlight := none }
          match r.raw with
          | some b => r1.filled (p.decode - scaleMark) b
          | none => r1
        else match r.scaleFlight with
          | some n => { r with raw := some bytes, st := .away n }
          | none => r.filled p.decode bytes

/-- Perform one part of an atomic at the applied line: the old value goes to its return. -/
def applyAtomicPart (op ty : Nat) (u : Nat) (s : State) (p : Part) : State :=
  let old := ofLe (memRead s.mem p.addr p.size)
  let new := atomicNew op ty p.size old (ofLe p.data) p.cmp.toNat
  fillReturn (homeWrite s p.addr (leBytes p.size new)) u p
    (if p.size = 8 then [BitVec.ofNat 32 old, BitVec.ofNat 32 (old / 2 ^ 32)] else [BitVec.ofNat 32 old])

/-- Apply a store, atomic or STM at die `d`, where it is applied at once: the parts in their order (R36, R410). An atomic on
a poisoned line performs nothing and poisons its destinations (R330). -/
def applyFlight (s : State) (d : Nat) (f : Flight) : State :=
  match f.kind with
  | .store => f.parts.foldl (fun s p => homeWrite s p.addr p.data) s
  | .stm _ =>
    f.parts.foldl (fun s p => homeWrite s (mkPa (paPkg p.addr) d (paOff p.addr)) p.data) s
  | .atomic op ty _ =>
    if isPoisoned s f.pa then failFlight s Cause.machineCheck f
    else f.parts.foldl (applyAtomicPart op ty f.u) s
  | _ => s

/-- T for a fibre of a group that has been saved: its task keeps it for the restore (R168). -/
def lateWct (s : State) (k grp id t : Nat) : State :=
  { s with tasks := smod s.tasks k fun (x : Task) =>
      { x with lateWct := sset x.lateWct (1024 * grp + id) (Nat.max (sgetD x.lateWct (1024 * grp + id) 0) t) } }

/-- Every fibre of a request has T in its WCT (R168); T enters the WCT of the task whose drain covers the request (R235). -/
def ackFlight (s : State) (f : Flight) (t : Nat) : State :=
  let s1 := f.parts.foldl (fun s p => match f.saved with
    | some (k, grp) => lateWct s k grp p.fibre t
    | none => raiseWct s f.u f.slot p.fibre t) s
  match f.task with
  | none => s1
  | some k => { s1 with tasks := smod s1.tasks k fun (x : Task) => { x with wct := Nat.max x.wct t } }

/-- Put a changed request back in its place. -/
def putFlight (s : State) (f : Flight) : State :=
  { s with flights := s.flights.map fun x => if x.id = f.id then f else x }

/-- Drop a core's leased copy of a line. -/
def dropCopy (s : State) (u pa : Nat) : State := s.modCore u fun c => { c with lcopies := sdel c.lcopies (lineOf pa) }

/-- A request is performed: its completion time reaches the issuing fibres, and a copy of the line that the issuing core took before it
goes, so that no fibre of the core reads older data (R160, R168). A store of the home's own die reports the line's lease horizon, where
that lay in the future when the store was issued (R167, R331, R409): DEDUCED from R164, a lease counts until its expiry has passed by
the 4 ns of R24. -/
def finishFlight (s : State) (d : Nat) (f : Flight) (t : Nat) : State :=
  if dieOf f.u ≠ d then dropCopy (ackFlight s f t) f.u f.pa
  else if horizonOf s f.pa + 4 < f.since then s
  else ackFlight s f (horizonOf s f.pa)

/-- The completion time that a write of an engine of die `own`, applied at die `d` at time `t`, makes the engine wait for (R168). -/
def reportT (s : State) (own d pa t : Nat) : Option Nat :=
  if own ≠ d then some t else if horizonOf s pa + 4 < s.now d then none else some (horizonOf s pa)

/-- Apply a request at die `d` now, at its completion time there. A store or atomic is then done; an STM is done when its last
die has applied it. T enters the issuing fibres' WCT (R167, R168, R181). -/
def performAt (s : State) (d : Nat) (f : Flight) (t : Nat) : State :=
  let s1 := applyFlight (l2Fill s f.pa f.cls) d f
  match f.kind with
  | .stm ds =>
    let rest := ds.filter (· != d)
    let f' := { f with kind := .stm rest, t := Nat.max f.t t }
    if rest.isEmpty then dropCopy (ackFlight (dropFlight s1 f.id) f f'.t) f.u f.pa else putFlight s1 f'
  | _ => finishFlight (dropFlight s1 f.id) d f t

/-- A request reaches the home of its line (R167): its completion time is fixed now, and it is applied at once when that time has come
and nothing is pending before it. Otherwise it is pending, behind what arrived before it. The answer says whether it was applied. -/
def reachHome (s : State) (d : Nat) (f : Flight) : State × Bool :=
  let t := completionTime s d f.pa
  let f1 := { f with arrived := true, t := t }
  let s1 := { dropFlight s f.id with flights := (s.flights.filter fun x => x.id != f.id) ++ [f1] }
  if t ≤ s.now d && (pendingAt s d (lineIx f.pa)).isEmpty then (performAt s1 d f1 t, true) else (s1, false)

/-! ## The L1 of the issuing core for lines of its own die (R143, R149) -/

def l1State (s : State) (u pa : Nat) : L1St := sgetD (s.core u).l1 (lineIx pa) .i
def L1St.writable : L1St → Bool
  | .m | .e => true
  | _ => false
def L1St.readable : L1St → Bool
  | .i => false
  | _ => true

/-- Send a request of the core's L1 to the line's home slice, unless one is outstanding, under the L2 class `cls` (R144, R147, R148). -/
def l1Request (s : State) (u pa cls : Nat) (k : ReqKind) : State :=
  if (sget (s.core u).l1Req (lineIx pa)).isSome then s
  else
    (s.modCore u fun c => { c with l1Req := sset c.l1Req (lineIx pa) k, l1Cls := sset c.l1Cls (lineIx pa) cls }).modDie (dieOf u) fun d =>
      { d with msgs := d.msgs ++ [(coreIx u, lineIx pa, .req k)] }

/-- The request a store needs: an upgrade of a held copy, else read-exclusive (R148). -/
def storeRequest (s : State) (u pa cls : Nat) : State :=
  match l1State s u pa with
  | .s | .o => l1Request s u pa cls .upg
  | .i => l1Request s u pa cls .getx
  | _ => s
/-- The request a load needs. -/
def loadRequest (s : State) (u pa cls : Nat) : State :=
  match l1State s u pa with
  | .i => l1Request s u pa cls .gets
  | _ => s

/-- A store or atomic of a core to a line of its own die can reach its home: the L1 holds the line in M (a store to E makes it M
silently), or the core is a supervisor core performing it at the home slice; and it is the fibre's next to the line. A supervisor core
has an L1 (R12), but the directory's owner is one of cores 0 to 31 (R146): its accesses to its own die are performed at the home slice.
DESIGN CHOICE, see the log. -/
def localReady (s : State) (f : Flight) : Bool :=
  plainPa f.pa && (isSupCore f.u || (l1State s f.u f.pa).writable) && !olderSame s f

/-- Perform a store or atomic of a core to a line of its own die, at once or, on a line in a state of lease, at its completion time
(R167). -/
def performLocal (s : State) (f : Flight) : State :=
  (reachHome (if isSupCore f.u then s else s.modCore f.u fun c => { c with l1 := sset c.l1 (lineIx f.pa) .m }) (dieOf f.u) f).1

/-- A request as it is issued now: its number, its time, and the L2 class of its fibre's domain (R144). -/
def Flight.issued (s : State) (f : Flight) : Flight :=
  { f with id := s.nextId, since := s.now (dieOf f.u), cls := match f.parts with
      | p :: _ => fibreClass s f.u f.slot p.fibre
      | [] => 8 }
/-- Add a request in flight. -/
def addFlight (s : State) (f : Flight) : State := { s with flights := s.flights ++ [f.issued s], nextId := s.nextId + 1 }

/-- The read-only copy of a line of another die that a core may still use (R143, R166). -/
def validCopy (s : State) (u pa : Nat) : Option (List Byte) :=
  match sget (s.core u).lcopies (lineOf pa) with
  | some c => if s.now (dieOf u) < c.expiry then some ((c.data.drop (pa % 128))) else none
  | none => none

end Sys2Proof.Machine
end

