-- ==== Sys2Proof/Machine/Slots.lean ====
section
/-! DEFINITION. Destination slots: their epoch fields, the allowance and its charges, and the packets that leave through them
(R286 to R294, R300, R303). -/

namespace Sys2Proof.Machine

/-- EPOCH, WCNT and CONF of a slot-map entry (R286). -/
def slotEpoch (s : State) (u n : Nat) : Nat := bitsOf (slotHi s u n) 63 56
def slotWcnt (s : State) (u n : Nat) : Nat := bitsOf (slotHi s u n) 55 32
def slotConf (s : State) (u n : Nat) : Nat := bitsOf (slotHi s u n) 31 24
/-- Write EPOCH, WCNT and CONF. -/
def setSlotHi (s : State) (u n epoch wcnt conf : Nat) : State :=
  s.modDie (dieOf u) fun d =>
    d.setBytes (slotEntryOff u n + 8) (leBytes 8 (epoch % 256 * 2 ^ 56 + wcnt % 2 ^ 24 * 2 ^ 32 + conf % 256 * 2 ^ 24))
/-- Set or clear BROKEN (R286, R299). -/
def setSlotBroken (s : State) (u n : Nat) (b : Bool) : State :=
  let lo := slotLo s u n
  let cleared := lo - (if lo.testBit 25 then 2 ^ 25 else 0)
  s.modDie (dieOf u) fun d => d.setBytes (slotEntryOff u n) (leBytes 8 (cleared + (if b then 2 ^ 25 else 0)))

/-- The state of a slot beside its map entry. -/
def slotSt (s : State) (u n : Nat) : SlotState := sgetD (s.core u).slotSt n {}
def modSlot (s : State) (u n : Nat) (f : SlotState → SlotState) : State :=
  s.modCore u fun c => { c with slotSt := sset c.slotSt n (f (sgetD c.slotSt n {})) }

/-- The charge of a packet: its payload rounded up to 32 bytes, plus 32 (R290). -/
def packetCharge (payload : Nat) : Nat := (payload + 31) / 32 * 32 + 32

/-- One packet of an execution: its slot, the line it aims at, and the distinct byte addresses it covers. -/
structure OutPacket where
  slot : Nat
  line : Nat
  bytes : List Nat

/-- Merge accesses that aim at one line through one slot (R290). -/
def mergeAccess : List OutPacket → Nat → Nat → List Nat → List OutPacket
  | [], n, l, bs => [⟨n, l, bs⟩]
  | p :: t, n, l, bs =>
    if p.slot = n && p.line = l then { p with bytes := p.bytes ++ bs.filter fun b => !p.bytes.contains b } :: t
    else p :: mergeAccess t n l bs

/-- The pieces of an access of at most 128 bytes, each within one line. -/
def linePieces (a : Nat × Nat × Nat) : List (Nat × Nat × Nat) :=
  let room := 128 - a.2.1 % 128
  if a.2.2 ≤ room then [a] else [(a.1, a.2.1, room), (a.1, a.2.1 + room, a.2.2 - room)]
/-- The packets of an execution's accesses, each a slot, an address and a size: one for each line (R290). -/
def packetsOf (as : List (Nat × Nat × Nat)) : List OutPacket :=
  (as.flatMap linePieces).foldl (fun ps a => mergeAccess ps a.1 (lineOf a.2.1) ((List.range a.2.2).map (a.2.1 + ·))) []

/-- The need of an execution on each slot (R290). -/
def needsOf (ps : List OutPacket) : SMap Nat :=
  ps.foldl (fun m p => sset m p.slot (sgetD m p.slot 0 + packetCharge p.bytes.length)) []

/-- Bytes of the core's share of the retransmission buffer in use (R22, R289): the charges of the writes, atomics and ridges of every
epoch not yet confirmed. -/
def rbufUsed (s : State) (u : Nat) : Nat :=
  ((s.core u).slotSt.map fun e => (e.2.buf.map (·.charge)).foldl (· + ·) 0).foldl (· + ·) 0

/-- The epoch `k` after the slot's lies two or more beyond CONF (R294). -/
def pastWindow (s : State) (u n k : Nat) : Bool := decide (2 ≤ (slotEpoch s u n + 256 - slotConf s u n) % 256 + k)

/-- The terms of a slot's allowance with their CAUSE codes (R288, R289). -/
def allowTerms (s : State) (u n : Nat) : List (Nat × Nat) :=
  let x := slotSt s u n
  if slotBroken s u n then [(0, 5)]
  else
    [(65536 + Config.linkExtra n - x.linkUsed, 1), (x.cwnd - x.cwndUsed, 2)] ++
    (if slotFab s u n then
      [(1048576 - rbufUsed s u, 3)] ++
      (if pastWindow s u n (if slotWcnt s u n = 16777215 then 1 else 0) then [(0, 4)] else [])
     else [])

/-- ALLOW: the least of the ceiling and the terms (R289); nothing may be charged to a slot that is not VALID, and ALLOW reads its
reset value 0 (R288). -/
def allow (s : State) (u n : Nat) : Nat :=
  if slotValid s u n then (allowTerms s u n).foldl (fun a t => Nat.min a t.1) (slotSt s u n).ceiling else 0

/-- CAUSE after a change: the term that brings ALLOW below 5,120, else the cause kept (R288). -/
def noteCause (s : State) (u n : Nat) : State :=
  if slotValid s u n then
    match (allowTerms s u n).find? fun t => t.1 < 5120 && t.1 == allow s u n with
    | some t => modSlot s u n fun x => { x with cause := t.2 }
    | none => s
  else s

/-- CAUSE of a core's slots after the use of its retransmission buffer has risen: every fabric slot shares it (R289). -/
def noteShared (s : State) (u : Nat) : State :=
  if rbufUsed s u + 5120 ≤ 1048576 then s
  else (List.range 64).foldl (fun s n => if slotValid s u n && slotFab s u n then noteCause s u n else s) s

/-- COLn (R288). A broken slot reads cause 5. -/
def colWord (s : State) (u n : Nat) : Word :=
  BitVec.ofNat 32 ((if slotBroken s u n then 5 else (slotSt s u n).cause) * 2 ^ 28 + allow s u n % 2 ^ 28)

/-- The check of class 8 for a slot: VALID and of the domain (R244, R288). It does not apply to a supervisor group (R12). What COLRD,
BCOL and MFSR then read of a slot on a supervisor core, which has no slot map (R286), no rule says: they read the word of a slot that
is not VALID, and a slot number above 63 raises class 8 there as elsewhere. DESIGN CHOICE, see the log. -/
def slotCheck (s : State) (u domain n : Nat) : Except Stop Unit :=
  if isSupCore u || (slotValid s u n && slotDomain s u n == domain) then .ok () else stopFault Cause.domain (8 * 256 + n % 256)

/-! ## Packets and charges -/

/-- The fabric writes of an execution on each slot. -/
def writesOf (s : State) (u : Nat) (ps : List OutPacket) : SMap Nat :=
  ps.foldl (fun m p => if slotFab s u p.slot then sset m p.slot (sgetD m p.slot 0 + 1) else m) []
/-- `k` further writes would fill the slot's epoch and open one that lies past the window (R294). -/
def epochFull (s : State) (u n k : Nat) : Bool := decide (16777215 < slotWcnt s u n + k) && pastWindow s u n 1
/-- The first slot, in slot order, whose allowance is below the need, or whose window the writes would pass (R290, R294). -/
def shortSlot (s : State) (u : Nat) (needs : SMap Nat) (writes : SMap Nat := []) : Option (Nat × Nat) :=
  needs.find? fun e => allow s u e.1 < e.2 || epochFull s u e.1 (sgetD writes e.1 0)

/-- Charge a slot's link credits and congestion window (R289). -/
def chargeSlot (s : State) (u n c : Nat) : State :=
  noteCause (modSlot s u n fun x => { x with linkUsed := x.linkUsed + c, cwndUsed := x.cwndUsed + c }) u n
def chargeSlots (s : State) (u : Nat) (needs : SMap Nat) : State := needs.foldl (fun s e => chargeSlot s u e.1 e.2) s

/-- The group waits for allowance under the domain in force: nothing of the execution is charged or sent (R232, R290). -/
def enterColwait (s : State) (u slot n need dom : Nat) : State :=
  s.modGroup u slot fun g => { g with st := .colwait n need (s.now (dieOf u)) dom (match g.st with
    | .saving => true
    | .colwait _ _ _ _ saving => saving
    | _ => false) }

/-- The header fields of a packet that leaves through a slot (R293). -/
def packetFrom (s : State) (u n key type : Nat) : Packet :=
  { type := type, srcPkg := s.pkg, srcDie := dieOf u, srcCore := coreIx u, dstPkg := slotPkg s u n, dstDie := slotDie s u n,
    course := slotCourse s u n, epoch := slotEpoch s u n, gen := 0, count := 0, keyId := key, atag := 0, addr := 0, data := [],
    op := 0, ty := 0, size := 0, tagOk := true }

/-- Give a packet to the fabric; the core's nonce count rises (R303). A fabric port that is down carries nothing (R310). -/
def emit (s : State) (u : Nat) (p : Packet) : State :=
  { s.modCore u (fun c => { c with nonces := c.nonces + 1 }) with
    fabricOut := if (s.die (dieOf u)).fabricUp then s.fabricOut ++ [p] else s.fabricOut }

/-- Change the buffered epoch `e` of a slot, opening it when it is not there. -/
def modEpoch (s : State) (u n e : Nat) (f : EpochBuf → EpochBuf) : State :=
  modSlot s u n fun x =>
    if x.buf.any fun b => b.epoch == e then { x with buf := x.buf.map fun b => if b.epoch = e then f b else b }
    else { x with buf := x.buf ++ [f { epoch := e }] }

/-- Send a ridge (type 1) or a count-only ridge (type 2) and open the next epoch (R294). A ridge's 64 bytes were charged to the slot at
issue (R402); a count-only ridge, which no execution asks for, charges its 32 as it is sent (R290). -/
def sendRidge (s : State) (u n key : Nat) (flag : Option (Nat × List Byte)) : State :=
  let e := slotEpoch s u n
  let p := { packetFrom s u n key (if flag.isSome then 1 else 2) with
    count := slotWcnt s u n
    addr := (flag.map (·.1)).getD 0
    data := match flag with
      | some f => f.2.zipIdx.map fun b => (b.2, b.1)
      | none => [] }
  let s0 := if flag.isSome then s else chargeSlot s u n (packetCharge 0)
  let s1 := modEpoch (emit s0 u p) u n e fun b =>
    { b with ridge := some p, charge := b.charge + (if flag.isSome then 64 else packetCharge 0), closedAt := s.now (dieOf u) }
  noteShared (noteCause (setSlotHi s1 u n (e + 1) 0 (slotConf s u n)) u n) u

/-- A slot whose count is full closes its epoch before the next fabric write (R294). -/
def roomEpoch (s : State) (u n key : Nat) : State := if slotWcnt s u n = 16777215 then sendRidge s u n key none else s
/-- A fabric write of `size` bytes joins the slot's epoch: it is counted, and charged to the retransmission buffer (R289, R294, R403). -/
def joinEpoch (s : State) (u n key size : Nat) : State :=
  let s0 := roomEpoch s u n key
  let s1 := modEpoch s0 u n (slotEpoch s0 u n) fun b => { b with charge := b.charge + packetCharge size }
  noteShared (noteCause (setSlotHi s1 u n (slotEpoch s0 u n) (slotWcnt s0 u n + 1) (slotConf s0 u n)) u n) u
/-- The packet of a write that has joined epoch `e` leaves: a replay of the epoch meanwhile has raised its generation (R298). The data
are bytes with their addresses, all of one line. -/
def sendJoined (s : State) (u n key e line : Nat) (data : List (Nat × Byte)) : State :=
  let gen := (((slotSt s u n).buf.find? fun b => b.epoch == e).map (·.gen)).getD 0
  let p := { packetFrom s u n key 0 with epoch := e, gen := gen, addr := 128 * line, data := data.map fun b => (b.1 - 128 * line, b.2) }
  modEpoch (emit s u p) u n e fun b => { b with writes := b.writes ++ [p] }
/-- Send one fabric write. -/
def sendWrite (s : State) (u n key : Nat) (line : Nat) (data : List (Nat × Byte)) : State :=
  let s1 := joinEpoch s u n key data.length
  sendJoined s1 u n key (slotEpoch s1 u n) line data

/-- Later bytes win over earlier ones of one line (R410). -/
def overlay (ds : List (Nat × Byte)) : List (Nat × Byte) := ds.foldl (fun m e => sset m e.1 e.2) []

/-- Send the fabric writes of an execution's packets, with the bytes its lanes give in order (R290, R294, R410). -/
def sendWrites (s : State) (u key : Nat) (ps : List OutPacket) (data : List (Nat × Byte)) : State :=
  ps.foldl (fun s p => sendWrite s u p.slot key p.line (overlay (data.filter fun e => lineOf e.1 == p.line))) s

/-- An atomic packet that leaves through a slot; operation 8 + k is the RED of operation k, which a slot with SWR = 1 marks as reducible
(R300, R304). -/
def atomicPacket (s : State) (u n key op ty size addr : Nat) (data : List Byte) : Packet :=
  { packetFrom s u n key 3 with
    swr := decide (8 ≤ op) && (slotLo s u n).testBit 26, addr := addr, op := op, ty := ty, size := size, data := data.zipIdx.map fun b => (b.2, b.1) }
/-- Send an atomic packet with the slot's next tag, for a request in flight. The slot remembers the packet until it is answered (R300);
its charge to the retransmission buffer stands in the epoch that is open, and recovers with it (R289). -/
def sendAtomic (s : State) (u n : Nat) (p0 : Packet) (flight : Nat) : State :=
  let tag := (slotSt s u n).nextTag
  let p := { p0 with atag := tag }
  let s0 := modEpoch (emit s u p) u n (slotEpoch s u n) fun b => { b with charge := b.charge + packetCharge p.data.length }
  let s1 := modSlot s0 u n fun x =>
    { x with atomics := x.atomics ++ [⟨tag, p, s.now (dieOf u), 0⟩], nextTag := (tag + 1) % 65536 }
  noteShared { s1 with flights := s1.flights.map fun f => if f.id = flight then { f with slotTag := some (n, tag), packet := none } else f } u

end Sys2Proof.Machine
end

