-- ==== Sys2Proof/Machine/Access.lean ====
section
/-! DEFINITION. The accesses of the fibres to the three spaces: LD (R369 to R373), ST (R407 to R410), STM (R412), ATOM and RED
(R329 to R331, R395), DSOP and DSRED (R348 to R350) and FENCE (R362 to R364), with their checks, their orderings (R162, R163)
and the requests they leave in flight. -/

namespace Sys2Proof.Machine

/-! ## Where an access goes -/

/-- A checked access: a scratchpad offset, a page's physical address with the slot it leaves by, or an offset of a die's
DSM. -/
inductive Target where
  | sp (off : Nat)
  | g (p : Page) (slot : Option Nat)
  | ds (die off : Nat) (slot : Option Nat)
deriving DecidableEq, Repr

/-- The banks of scratchpad that a fibre may use: none inside a gate (R254). -/
def spBanks (g : Group) (f : Fibre) : List Nat := if f.gate.isSome then [] else g.banks
/-- The physical bank behind a scratchpad address, as DOMAIN reports it (R139). -/
def spBank (g : Group) (f : Fibre) (a : Nat) : Nat :=
  let bs := spBanks g f
  if bs.isEmpty then a / 4 % 64 else bs.getD (a / 4 % bs.length) 0
/-- The range check of R139. -/
def spRange (g : Group) (f : Fibre) (a size : Nat) : Except Stop Unit :=
  if a + size ≤ 32768 * (spBanks g f).length then .ok () else stopFault Cause.domain (4 * 256 + spBank g f a)

/-- The alignment of an access counted from the start of its space: whole three-byte groups for FP6 (R371). -/
def misaligned (fp6 : Bool) (a size : Nat) : Bool := if fp6 then a % 3 != 0 else a % size != 0

/-- A scratchpad access: alignment, then range. -/
def targetSp (c : Ctx) (f : Fibre) (ea size : Nat) (fp6 : Bool) : Except Stop Target :=
  if misaligned fp6 ea size then stopFault Cause.misaligned ea
  else do
    spRange c.g f ea size
    return .sp ea

/-- The physical address of a DSM offset (R138). -/
def dsmPa (s : State) (die off : Nat) : Nat := mkPa s.pkg die (0x4000000000 + off)
/-- The owner check of a DSM segment (R152); a supervisor group carries no domain (R12). -/
def dsmOwner (s : State) (u dom die off : Nat) : Except Stop Unit :=
  let seg := off / 0x200000
  let e := (s.die die).num (0x6000100000 + 4 * seg) 4
  if isSupCore u || (e.testBit 31 && e % 256 == dom) then .ok () else stopFault Cause.domain (5 * 256 + seg)

/-- The checks of a DSM access, each with what it raises. -/
structure DsCheck where
  range : Bool
  owner : Except Stop Unit
  align : Bool
  lost : Bool
  offline : Bool
  slot : Except Stop (Option Nat)

/-- The checks of a DSM access: selector (R151) and size of the target die (R18), owner (R152), alignment within a row (R153), a lost
die (R151), island (R16) and the slot to another die (R287). -/
def dsChecks (c : Ctx) (f : Fibre) (ea size : Nat) (fp6 : Bool) : DsCheck :=
  let sel := ea / 2 ^ 28 % 16
  let off := ea % 2 ^ 28
  let die := if sel = 15 then dieOf c.u else sel
  { range := (8 ≤ sel && sel ≤ 14) || off ≥ dsmSize c.s die
    owner := dsmOwner c.s c.u (domainOf c.g f) die off
    align := misaligned fp6 off size || off / 64 != (off + size - 1) / 64
    lost := (dieLost c.s (dieOf c.u)).testBit die
    offline := clamped c.s die (off / 0x4000000 % 2) && !(dieOf c.u == die && islandOf c.u == off / 0x4000000 % 2)
    slot := routeCheck c.s c.u (domainOf c.g f) ea (dsmPa c.s die off) }

/-- A DSM access, checked in the order of LD (R372); `probe` for the order of a copy's probe: alignment, range, owner and slot, then
the island (R208). -/
def targetDs (c : Ctx) (f : Fibre) (ea size : Nat) (fp6 : Bool) (probe : Bool := false) : Except Stop Target := do
  let k := dsChecks c f ea size fp6
  let die := if ea / 2 ^ 28 % 16 = 15 then dieOf c.u else ea / 2 ^ 28 % 16
  if probe && k.align then stopFault Cause.misaligned ea
  if k.range then stopFault Cause.dsmRange ea
  k.owner
  if k.align then stopFault Cause.misaligned ea
  if k.lost then stopFault Cause.homeLost ea
  if !probe && k.offline then stopFault Cause.islandOffline ea
  let slot ← k.slot
  if k.offline then stopFault Cause.islandOffline ea
  return .ds die (ea % 2 ^ 28) slot

/-- The page of a global access: `Translate`, then the page's format; an FP6 group is aligned from the start of its page and stays
within it (R371). -/
def pageG (c : Ctx) (f : Fibre) (ea size : Nat) (kind : Access) (fp6 : Bool) (want : List Nat) (stm : Bool := false) :
    Except Stop Page := do
  let p ← translate c.s c.u (whoOf c.s c.u c.g f) ea kind (if fp6 then 1 else size) stm
  if fp6 && ((ea - p.first) % 3 != 0 || ea - p.first + 3 > p.size) then stopFault Cause.misaligned ea
  else if !want.contains p.fmt then stopFault Cause.format ea
  else return p
/-- The slot and the island behind a page; the replicas must be reachable too for STM. -/
def reachG (c : Ctx) (f : Fibre) (ea : Nat) (p : Page) (stm : Bool := false) : Except Stop Target := do
  let slot ← routeCheck c.s c.u (domainOf c.g f) ea p.pa
  islandCheck c.s c.u ea p.pa
  if stm && p.reps.any fun r => islandClosed c.s c.u (mkPa c.s.pkg r (paOff p.pa)) then stopFault Cause.islandOffline ea
  return .g p slot
/-- A global access: its page, then the slot and the island. -/
def targetG (c : Ctx) (f : Fibre) (ea size : Nat) (kind : Access) (fp6 : Bool) (want : List Nat) (stm : Bool := false) :
    Except Stop Target := do
  let p ← pageG c f ea size kind fp6 want stm
  reachG c f ea p stm

/-- The checks of an access in the space of its SPACE field. -/
def targetOf (c : Ctx) (f : Fibre) (space : BitVec 2) (ea size : Nat) (kind : Access) (fp6 : Bool) (want : List Nat)
    (stm : Bool := false) : Except Stop Target :=
  if space = 0 then targetG c f ea size kind fp6 want stm
  else if space = 1 then targetSp c f ea size fp6
  else targetDs c f ea size fp6

/-! ## Range locks (R142, R209) -/

/-- The 128-byte lines of a span. -/
def spanLines (a size : Nat) : List Nat := (List.range (lineOf (a + size - 1) + 1 - lineOf a)).map (lineOf a + ·)
/-- A locked line of the core for a domain, in one space. -/
def Lock.covers (k : Lock) (dom slot space : Nat) : Bool := k.domain == dom && k.space == space && (space == 0 || k.slot == slot)
/-- The span overlaps a locked line. -/
def lockHit (s : State) (u dom slot space a size : Nat) : Bool :=
  (s.core u).locks.any fun k => k.covers dom slot space && (spanLines a size).any fun l => k.lines.contains l
/-- A circular-buffer block of a group that a CPY.cb in flight names or that a fibre waits on (R142). Where the lanes of a CPY.cb name
different blocks, a block's lock ends with the last lane that names it: DESIGN CHOICE, see the log, since R212 names one block. -/
def blocksInUse (s : State) (u slot : Nat) : List Nat :=
  ((s.core u).copies.filter fun x => x.registered && x.space == 3 && x.slot == slot).flatMap
    (fun x => (x.lanes.filter fun l => !l.done).map (·.ctr)) ++
  match s.group u slot with
  | none => []
  | some g => g.fibres.filterMap fun e => match e.2.wait with
    | some (.buffer b _ _ _) => some b
    | _ => none
/-- The span overlaps such a block. -/
def blockHit (s : State) (u slot a size : Nat) : Bool :=
  (blocksInUse s u slot).any fun b => decide (a < b + 32) && decide (b < a + size)

/-- RANGE_LOCK of an access; `write` for one that stores. -/
def lockCheck (c : Ctx) (f : Fibre) (space : BitVec 2) (ea size : Nat) (write : Bool) : Except Stop Unit :=
  if space = 2 then .ok ()
  else if lockHit c.s c.u (domainOf c.g f) c.slot space.toNat ea size ||
      (write && space == 1 && blockHit c.s c.u c.slot ea size) then stopFault Cause.rangeLock ea
  else .ok ()

/-! ## Orderings (R163) -/

/-- A request of a fibre. -/
def Flight.isOf (x : Flight) (u slot id : Nat) : Bool := x.u == u && x.slot == slot && x.parts.any fun p => p.fibre == id
/-- A release at a scope still waits for this request of the fibre (R161, R163, R174): at .grp, .core and .die those of the
issuing die, at .pkg those of the package, at .rack the remote atomics. -/
def coveredBy (s : State) (scope : Nat) (x : Flight) : Bool :=
  if scope ≤ 3 then paPkg x.pa == s.pkg && paDie x.pa == dieOf x.u
  else if scope = 4 then paPkg x.pa == s.pkg
  else x.slotTag.isSome
/-- A release at a scope is done: the covered accesses are performed and, at .pkg, Now() > WCT + 4 ns (R163, R168). -/
def released (s : State) (u slot id wct scope : Nat) : Bool :=
  !(s.flights.any fun x => x.isOf u slot id && coveredBy s scope x) && (scope != 4 || decide (s.now (dieOf u) > wct + 4))
/-- The release of a lane: the fibre waits until it is done. -/
def releaseCheck (c : Ctx) (ln : Lane) (scope : Nat) : Except Stop Unit :=
  if released c.s c.u c.slot ln.id ln.f.wct scope then .ok () else .error (.block (.release scope))
/-- An acquiring access of the fibre has not returned yet. -/
def acquiring (s : State) (u slot id : Nat) : Bool :=
  ((s.core u).returns.any fun r => r.slot == slot && r.fibre == id && r.acq) ||
  s.flights.any fun x => x.acq && x.isOf u slot id
/-- The hold of an acquire on later accesses (R163). -/
def holdCheck (c : Ctx) (ln : Lane) : Except Stop Unit :=
  if acquiring c.s c.u c.slot ln.id then .error (.block (.acquire 0)) else .ok ()
/-- Every earlier load, atomic and .ret operation of the fibre has returned its value; other producers are not waited for (R363, R364). -/
def allReturned (s : State) (u slot id : Nat) : Bool :=
  !((s.core u).returns.any fun r => r.slot == slot && r.fibre == id && r.data) && !(s.flights.any fun x => x.acq && x.isOf u slot id)

/-! ## Helpers of the commits -/

/-- Group a list by a key, each group in order and the groups in the order of their first members. -/
def groupInto {α : Type} (k : Nat) (x : α) : List (Nat × List α) → List (Nat × List α)
  | [] => [(k, [x])]
  | (j, l) :: t => if j = k then (j, l ++ [x]) :: t else (j, l) :: groupInto k x t
def groupBy {α : Type} (key : α → Nat) (l : List α) : List (Nat × List α) := l.foldl (fun m x => groupInto (key x) x m) []

/-- Bytes from an address cut at line boundaries. A span of at most 128 bytes has at most two pieces. -/
def cutLines (a : Nat) (bs : List Byte) : List (Nat × List Byte) :=
  let room := 128 - a % 128
  if bs.length ≤ room then [(a, bs)] else [(a, bs.take room), (a + room, bs.drop room)]

/-- The fibres of an execution go back to its instruction, and the group waits for allowance (R232, R290). -/
def colwait (c : Ctx) (s : State) (ids : List Nat) (n need : Nat) : State :=
  (enterColwait s c.u c.slot n need (slotDomain s c.u n)).modGroup c.u c.slot fun g =>
    { g with fibres := g.fibres.map fun e => if ids.contains e.1 then (e.1, { e.2 with pc := c.pc }) else e }

/-- Charge an execution's slots at once, then go on; when one falls short nothing is charged or performed (R290). -/
def withCharge (c : Ctx) (s : State) (ids : List Nat) (needs : SMap Nat) (go : State → State) (writes : SMap Nat := []) : State :=
  match shortSlot s c.u needs writes with
  | some (n, need) => colwait c s ids n need
  | none => go (chargeSlots s c.u needs)

/-- The needs of an execution whose lanes have in part charged already: those lanes ask for nothing more. -/
def freshNeeds {α : Type} (needs : List (Lane × α) → SMap Nat) (l : List (Lane × α)) : SMap Nat :=
  let m := needs (l.filter fun x => !x.1.f.charged)
  (needs l).map fun e => (e.1, sgetD m e.1 0)
/-- A lane waits at its instruction, whose slots it has charged. -/
def State.holdCharged (s : State) (c : Ctx) (id : Nat) (w : Wait) : State :=
  ((s.rewind c.u c.slot id c.pc).block c id w).modFibre c.u c.slot id fun f => { f with charged := true }
/-- The commit of an execution that charges slots and then may make a release (R290, R402, R408): its lanes charge together, or the group
col-waits; then a lane whose release is not over, as `hold` says, waits for it with its charge, and the others go on. A lane that has
waited does not charge again. -/
def chargeThenHold {α : Type} (c : Ctx) (s : State) (l : List (Lane × α)) (needs : List (Lane × α) → SMap Nat)
    (writes : List (Lane × α) → SMap Nat) (hold : Lane → Option Wait) (go : State → List (Lane × α) → State) : State :=
  withCharge c s (l.map (·.1.id)) (freshNeeds needs l) (fun s =>
    let s1 := l.foldl (fun s x => match hold x.1 with
      | some w => s.holdCharged c x.1.id w
      | none => if x.1.f.charged then s.modFibre c.u c.slot x.1.id fun f => { f with charged := false } else s) s
    match l.filter fun x => (hold x.1).isNone with
    | [] => s1
    | rest => go s1 rest) (writes l)
/-- The release of a lane at a scope, as a wait (R163). -/
def releaseHold (c : Ctx) (scope : Nat) (ln : Lane) : Option Wait :=
  if released c.s c.u c.slot ln.id ln.f.wct scope then none else some (.release scope)
/-- The release that ORD = .rel asks for. -/
def relHold (o : OpM) (c : Ctx) (ln : Lane) : Option Wait := if o.ord = 2 then releaseHold c o.scope.toNat ln else none

/-- KEY of the domain in force for the first lane. -/
def keyFor (c : Ctx) (ls : List Lane) : Nat :=
  match ls with
  | [] => 0
  | ln :: _ => keyOf c.s c.u (domainOf c.g ln.f)

/-- Mark a lane's destinations empty and add the return that will write them (R55). -/
def oweReturn (c : Ctx) (ln : Lane) (s : State) (dests : List (Nat × Nat × Word)) (holds acq : Bool) (st : ReturnSt)
    (flags : BitVec 5 := 0) (data : Bool := false) : State :=
  (s.emptyRegs c.u c.slot ln.id dests).addReturn c.u
    { id := 0, slot := c.slot, fibre := ln.id, dests := dests, flags := flags, holdsFlags := holds, acq := acq, data := data, st := st }

/-- The destination registers d to d + n − 1, not yet written. -/
def blankDests (d n : Nat) : List (Nat × Nat × Word) := (List.range n).map fun i => (0, d + i, 0)

/-- The physical address behind a target, as packets and requests name it. -/
def Target.pa (s : State) : Target → Nat
  | .sp off => off
  | .g p _ => p.pa
  | .ds die off _ => dsmPa s die off
def Target.slot : Target → Option Nat
  | .sp _ => none
  | .g _ k => k
  | .ds _ _ k => k
/-- The translation behind a target: PASID, first virtual byte and size of its page; none for physical addressing. -/
def Target.via (c : Ctx) (f : Fibre) : Target → Option (Nat × Nat × Nat)
  | .g p _ => if (whoOf c.s c.u c.g f).phys then none else some ((whoOf c.s c.u c.g f).pasid, p.first, p.size)
  | _ => none
/-- A target in another package. -/
def Target.foreign (s : State) : Target → Bool
  | .g p _ => paPkg p.pa != s.pkg
  | _ => false
/-- A global target homed on the issuing die. -/
def ownDie (s : State) (u pa : Nat) : Bool := paPkg pa == s.pkg && paDie pa == dieOf u

/-- An earlier request of the fibre to the line of an address has not been performed. -/
def locationBusy (s : State) (u slot id pa : Nat) : Bool :=
  s.flights.any fun x => x.isOf u slot id && x.parts.any fun p => p.fibre == id && lineOf p.addr == lineOf pa
/-- A location of another package that an earlier request of the fibre has not read or changed yet: packets may arrive in any order
(R293), so the later one waits (R160). -/
def foreignBusy (s : State) (u slot id pa : Nat) : Bool := paPkg pa != s.pkg && locationBusy s u slot id pa
/-- The hold of a lane whose targets are such locations. -/
def foreignHold (c : Ctx) (ln : Lane) (ts : List Target) : Except Stop Unit :=
  match ts.find? fun t => t.foreign c.s && foreignBusy c.s c.u c.slot ln.id (t.pa c.s) with
  | some t => .error (.block (.sameLine (t.pa c.s)))
  | none => .ok ()

/-! ## LD -/

/-- The shape of an LD or ST (R370, R371): registers, span in bytes, FP6, the page format, and how loaded bytes are read. -/
structure Shape where
  n : Nat
  span : Nat
  fp6 : Bool
  want : Nat
  decode : Nat

/-- The shape that SIZE, TYPE and RAW select. -/
def shapeOf (o : OpM) : Shape :=
  let k := 2 ^ o.size.toNat
  if o.ty = 15 then { n := Nat.max 1 (k / 4), span := k, fp6 := false, want := 0, decode := 0 }
  else
    let c := typePageFmt o.ty.toNat
    { n := k, span := elemBits c * k / 8, fp6 := elemBits c == 6, want := c, decode := (if o.raw then 17 else 1) + c }

/-- The number of the first element at a byte of a page (R73). -/
def elemIndex (c off : Nat) : Nat := if elemBits c = 6 then off / 3 * 4 else off * 8 / elemBits c
/-- The elements of a block (R81). -/
def blockLen (blk : Nat) : Nat := 4 * 2 ^ blk
/-- The scale byte of the block that holds an element: its address (R269). -/
def scaleAddr (p : Page) (n : Nat) : Nat := wrapNat (p.first + 16384 * p.scoff + (n / blockLen p.blk : Nat)) 64

/-- The page of the block scale of a typed load, and its virtual address (R269); none without block scales. -/
def scalePage (c : Ctx) (f : Fibre) (sh : Shape) (ea : Nat) (p : Page) : Except Stop (Option (Nat × Page)) :=
  if sh.decode = 0 || sh.decode > 16 || p.blk = 0 then .ok none
  else do
    let a := scaleAddr p (elemIndex sh.want (ea - p.first))
    let q ← pageG c f a 1 .load false [0]
    return some (a, q)

/-- A checked lane of an LD, with the address and place of its block scale. -/
structure LdLane where
  t : Target
  scale : Option (Nat × Target)
deriving DecidableEq, Repr

/-- The checks of a global LD: its page and the page of its block scale, then where each lies (R372). -/
def ldGlobal (c : Ctx) (f : Fibre) (sh : Shape) (ea : Nat) : Except Stop LdLane := do
  let p ← pageG c f ea sh.span .load sh.fp6 [sh.want]
  let q ← scalePage c f sh ea p
  let t ← reachG c f ea p
  match q with
  | none => return ⟨t, none⟩
  | some (a, q) => do
    let t2 ← reachG c f a q
    return ⟨t, some (a, t2)⟩

/-- The places that an LD reads. -/
def ldPlaces (o : OpM) (c : Ctx) (f : Fibre) (sh : Shape) (ea : Nat) : Except Stop LdLane :=
  if o.space = 0 then ldGlobal c f sh ea
  else (targetOf c f o.space ea sh.span .load sh.fp6 [sh.want]).map fun t => ⟨t, none⟩
/-- The checks of LD (R372). The block scale's line is one of the lines it reads (R209). -/
def ldCheck (o : OpM) (c : Ctx) (ln : Lane) : Except Stop LdLane := do
  let sh := shapeOf o
  holdCheck c ln
  let ea ← addrOf c ln.f o sh.span
  destsReady c ln.f 0 o.d.toNat sh.n
  let x ← ldPlaces o c ln.f sh ea
  lockCheck c ln.f o.space ea sh.span false
  match x.scale with
  | some (a, _) => if lockHit c.s c.u (domainOf c.g ln.f) c.slot 0 a 1 then stopFault Cause.rangeLock ea
  | none => pure ()
  foreignHold c ln (x.t :: (x.scale.map (·.2)).toList)
  return x

/-- An acquire that reads at the home (R169). -/
def homeAcquire (o : OpM) : Bool := o.ord == 1 && decide (4 ≤ o.scope.toNat)

/-- Give a load packet to the fabric (R293). Loads are not charged (R290). -/
def emitLoad (s : State) (u n key addr size flight : Nat) : State :=
  emit s u { packetFrom s u n key 5 with epoch := 0, addr := addr, size := size, atag := flight }

/-- The domain that an access to DSM is checked for; a supervisor group carries none (R12). -/
def dsDomain (c : Ctx) (f : Fibre) : Option Nat := if isSupCore c.u then none else some (domainOf c.g f)

/-- An access of a load goes where its place asks (R373): a scratchpad bank or a valid leased copy gives its bytes at once; otherwise the
request is in flight, and the return waits for it. `own` names the return's state while it does. -/
def loadAccess (o : OpM) (c : Ctx) (f : Fibre) (t : Target) (part : Part) (own : Nat → Return → Return) (s : State) : State :=
  let pa := t.pa s
  let fl := fun (kind : FlightKind) =>
    ({ id := s.nextId, u := c.u, slot := c.slot, kind := kind, pa := pa, parts := [part], domain := dsDomain c f } : Flight)
  let fly := fun (s : State) (kind : FlightKind) =>
    addFlight (s.modReturn c.u (part.ret.getD 0) (own s.nextId)) (fl kind)
  match t with
  | .sp off =>
    match s.group c.u c.slot with
    | none => s
    | some g => fillLoad s c.u part (bytesGet g.scratch off part.size)
  | .ds _ _ _ => fly s (.dsm 0 0)
  | .g _ slot =>
    if paPkg pa ≠ s.pkg then emitLoad (fly s (.load true)) c.u (slot.getD 0) (keyOf s c.u (domainOf c.g f)) pa part.size s.nextId
    else if ownDie s c.u pa then
      let s1 := fly s (.load (homeAcquire o))
      if plainPa pa && !isSupCore c.u then loadRequest s1 c.u pa (classOf s c.u (domainOf c.g f)) else s1
    else if homeAcquire o then fly (dropCopy s c.u pa) (.load true)
    else
      match validCopy s c.u pa with
      | some bytes =>
        if olderSame s (fl (.load false)) || pa % 128 + part.size > 128 then fly s (.load false)
        else fillLoad s c.u part (bytes.take part.size)
      | none => fly s (.load false)

/-- Perform or send one lane's load: the return that its registers are owed, then the block scale of a typed load, then its bytes
(R78, R372, R373). -/
def ldLane (o : OpM) (c : Ctx) (s : State) (x : Lane × LdLane) : State :=
  let sh := shapeOf o
  let ln := x.1
  let id := s.nextId
  let s1 := oweReturn c ln s (blankDests o.d.toNat sh.n) (sh.decode != 0) (o.ord == 1) .ready 0 true
  let s2 := match x.2.scale with
    | some (_, t) =>
      loadAccess o c ln.f t { fibre := ln.id, addr := t.pa s, size := 1, ret := some id, decode := scaleMark + sh.decode, page := t.via c ln.f }
        (fun n r => { r with scaleFlight := some n }) s1
    | none => s1
  loadAccess o c ln.f x.2.t
    { fibre := ln.id, addr := x.2.t.pa s, size := sh.span, ret := some id, decode := sh.decode, page := x.2.t.via c ln.f }
    (fun n r => { r with st := .away n }) s2

/-- LD (R372). -/
def execLd (o : OpM) (s : State) : Answer :=
  .next <| runLanes s o.g o.len (ldCheck o) fun c s l => l.foldl (ldLane o c) s

/-! ## ST and STM -/

/-- A checked lane of a store. -/
structure StLane where
  t : Target
  bytes : List Byte
deriving DecidableEq, Repr

/-- The bytes a store writes (R407): the registers' bytes, or their low bits packed as elements. -/
def storeBytes (sh : Shape) (ws : List Word) : List Byte :=
  if sh.decode = 0 then (wordsBytes ws).take sh.span
  else packCodes (elemBits sh.want) (ws.map fun w => w.toNat) sh.span

/-- The checks of ST and STM (R408, R412). -/
def stCheck (o : OpM) (stm : Bool) (c : Ctx) (ln : Lane) : Except Stop StLane := do
  let sh := shapeOf o
  holdCheck c ln
  let ea ← addrOf c ln.f o sh.span
  let ws ← srcRegs c ln.f (clsOf o.ub) o.b.r.toNat o.b.w sh.n
  let t ← targetOf c ln.f o.space ea sh.span .store sh.fp6 [sh.want] stm
  lockCheck c ln.f o.space ea sh.span true
  return { t := t, bytes := storeBytes sh ws }

/-- The packets of an execution's stores (R290). -/
def storePackets (s : State) (l : List (Lane × StLane)) : List OutPacket :=
  packetsOf (l.filterMap fun x => x.2.t.slot.map fun n => (n, x.2.t.pa s, x.2.bytes.length))
/-- The slot charges of an execution's stores. -/
def storeNeeds (s : State) (l : List (Lane × StLane)) : SMap Nat := needsOf (storePackets s l)
/-- Charge an execution's stores, release, and go on (R290, R294, R408). -/
def withStores (o : OpM) (c : Ctx) (s : State) (l : List (Lane × StLane)) (go : State → List (Lane × StLane) → State) : State :=
  chargeThenHold c s l (storeNeeds s) (fun l => writesOf s c.u (storePackets s l)) (relHold o c) go

/-- The scratchpad stores of an execution, in lane order (R410). -/
def storeScratch (c : Ctx) (s : State) (l : List (Lane × StLane)) : State :=
  l.foldl (fun s x => match x.2.t with
    | .sp off => s.modGroup c.u c.slot fun g => { g with scratch := bytesSet g.scratch off x.2.bytes }
    | _ => s) s

/-- The stores to DSM banks, one request for each lane. -/
def storeDsm (c : Ctx) (s : State) (l : List (Lane × StLane)) : State :=
  l.foldl (fun s x => match x.2.t with
    | .ds die off _ =>
      addFlight s { id := 0, u := c.u, slot := c.slot, kind := .dsm 1 0, pa := dsmPa s die off, domain := dsDomain c x.1.f,
                    parts := [{ fibre := x.1.id, addr := dsmPa s die off, size := x.2.bytes.length, data := x.2.bytes }] }
    | _ => s) s

/-- Add a store or atomic in flight to a line of the package. On the issuing die it is performed at once when it can be, and
otherwise the L1 asks for the line; on another die it travels to the home, and the issuing L1 drops its leased copy. -/
def launchFlight (s : State) (f : Flight) : State :=
  let s1 := addFlight s f
  if ownDie s f.u f.pa then
    let f1 := f.issued s
    if localReady s1 f1 then performLocal s1 f1
    else if isSupCore f.u || !plainPa f.pa then s1 else storeRequest s1 f.u f.pa f1.cls
  else dropCopy s1 f.u f.pa

/-- The parts of global stores cut at line boundaries. -/
def storeParts (c : Ctx) (s : State) (l : List (Lane × StLane)) : List Part :=
  l.flatMap fun x => (cutLines (x.2.t.pa s) x.2.bytes).map fun b =>
    { fibre := x.1.id, addr := b.1, size := b.2.length, data := b.2, page := x.2.t.via c x.1.f }

/-- Global stores without replicas: a request for each line of the package, packets for the others (R409). -/
def storeGlobal (c : Ctx) (s : State) (l : List (Lane × StLane)) : State :=
  let near := l.filter fun x => match x.2.t with
    | .g _ _ => !x.2.t.foreign s
    | _ => false
  let far := l.filter fun x => x.2.t.foreign s
  let s1 := (groupBy (fun p : Part => lineOf p.addr) (storeParts c s near)).foldl
    (fun s e => launchFlight s { id := 0, u := c.u, slot := c.slot, kind := .store, pa := 128 * e.1, parts := e.2 }) s
  let ps := packetsOf (far.filterMap fun x => x.2.t.slot.map fun n => (n, x.2.t.pa s, x.2.bytes.length))
  sendWrites s1 c.u (keyFor c (far.map (·.1))) ps
    ((storeParts c s far).flatMap fun p => p.data.zipIdx.map fun b => (p.addr + b.2, b.1))

/-- Perform an execution's stores (R409). -/
def storeAll (c : Ctx) (s : State) (l : List (Lane × StLane)) : State :=
  storeGlobal c (storeDsm c (storeScratch c s l) l) l

/-- ST (R408). -/
def execSt (o : OpM) (s : State) : Answer :=
  .next <| runLanes s o.g o.len (stCheck o false) fun c s l =>
    withStores o c s l fun s l => storeAll c s l

/-- The replicas behind a target. -/
def Target.reps : Target → List Nat
  | .g p _ => p.reps
  | _ => []

/-- The lanes of an STM that store to one line of replicated pages: one request, its parts in lane order, so that the lane of the higher
identifier is later in coherence order (R410, R412). -/
def stmLine (c : Ctx) (s : State) (l : List (Lane × StLane)) : State :=
  match l with
  | [] => s
  | x :: _ =>
    let pa := x.2.t.pa s
    addFlight (dropCopy s c.u pa)
      { id := 0, u := c.u, slot := c.slot, kind := .stm (paDie pa :: x.2.t.reps), pa := pa / 128 * 128
        parts := l.map fun y => { fibre := y.1.id, addr := y.2.t.pa s, size := y.2.bytes.length, data := y.2.bytes, page := y.2.t.via c y.1.f } }

/-- STM (R412): a lane whose page has no replica is a store; another goes to the primary home, which applies it there and at
every replica (R181). -/
def execStm (o : OpM) (s : State) : Answer :=
  .next <| runLanes s o.g o.len (stCheck o true) fun c s l =>
    withStores o c s l fun s l =>
      (groupBy (fun x => lineOf (x.2.t.pa s)) (l.filter fun x => !x.2.t.reps.isEmpty)).foldl (fun s e => stmLine c s e.2)
        (storeAll c s (l.filter fun x => x.2.t.reps.isEmpty))

/-! ## ATOM and RED -/

/-- The bytes of an atomic's location (R329). -/
def atomSize (o : OpM) : Nat := if o.ty = 2 then 8 else 4

/-- A checked lane of an atomic. -/
structure AtLane where
  t : Target
  b : DWord
  cmp : DWord
deriving DecidableEq, Repr

/-- A fibre's earlier ATOM.sc is not yet performed (R175). -/
def ticketWait (s : State) (u slot id : Nat) : Bool :=
  s.flights.any fun x => x.isOf u slot id && match x.kind with
    | .atomic _ _ sc => sc
    | _ => false

/-- The lanes that a packet to another package combines (R301): those with one location, unless the operation is exch, cas or a
fetching add on f32. -/
def combines (o : OpM) (op : Nat) (ret : Bool) : Bool := op < 6 && !(op == 0 && o.ty == 3 && ret)

/-- The slot through which a lane's atomic leaves for another package, and its location. -/
def atSlot (o : OpM) (c : Ctx) (ln : Lane) : Option (Nat × Nat) :=
  match (do
    let ea ← addrOf c ln.f o (atomSize o)
    targetOf c ln.f o.space ea (atomSize o) .atomic false [0, 1]) with
  | .ok t => if t.foreign c.s then t.slot.map fun k => (k, t.pa c.s) else none
  | .error _ => none
/-- A slot has no room for a lane's atomic: 64 packets are unanswered, those of the lanes before this one counted, which one packet may
combine with this lane (R300, R301). -/
def atFull (o : OpM) (op : Nat) (ret : Bool) (c : Ctx) (ln : Lane) (k pa : Nat) : Bool :=
  let before := ((activeOf o.g (predFree o.g c.lanes)).takeWhile fun x => x.id != ln.id).filterMap fun x => match atSlot o c x with
    | some e => if e.1 = k then some e.2 else none
    | none => none
  let packets := if combines o op ret then (before.filter (· != pa)).eraseDups else before
  decide ((slotSt c.s c.u k).atomics.length + packets.length ≥ 64)

/-- The checks of ATOM and RED (R330). `op` is 0 add, 1 min, 2 max, 3 and, 4 or, 5 xor, 6 exch, 7 cas; `ret` for ATOM. -/
def atCheck (o : OpM) (op : Nat) (ret : Bool) (c : Ctx) (ln : Lane) : Except Stop AtLane := do
  let n := atomSize o
  holdCheck c ln
  let ea ← addrOf c ln.f o n
  let b ← srcTyped c ln.f (o.ty = 2) o.ub o.b
  let k ← if op = 7 then srcTyped c ln.f (o.ty = 2) false ⟨true, o.d⟩ else pure 0
  if ret then destsReady c ln.f 0 o.d.toNat (n / 4)
  let t ← targetOf c ln.f o.space ea n .atomic false (if o.ty = 3 then [0, 1] else [0])
  lockCheck c ln.f o.space ea n true
  foreignHold c ln [t]
  match t.foreign c.s, t.slot with
  | true, some k => if atFull o op ret c ln k (t.pa c.s) then throw (Stop.block (.atomicRoom k))
  | _, _ => pure ()
  return { t := t, b := b, cmp := k }
/-- What an atomic waits for once its slots are charged: its release, and an ATOM.sc also the fibre's earlier one (R163, R175). -/
def atHold (o : OpM) (c : Ctx) (ln : Lane) : Option Wait :=
  match (if o.ord = 2 || o.ord = 3 then releaseHold c o.scope.toNat ln else none) with
  | some w => some w
  | none => if o.ord = 3 && ticketWait c.s c.u c.slot ln.id then some .ticket else none

/-- The words of an atomic's old value. -/
def oldWords (n old : Nat) : List Word := bytesWords (n / 4) (leBytes n old)

/-- One lane of an atomic in scratchpad, performed at its bank. -/
def atScratch (o : OpM) (op : Nat) (ret : Bool) (c : Ctx) (s : State) (x : Lane × AtLane) (off : Nat) : State :=
  let n := atomSize o
  match s.group c.u c.slot with
  | none => s
  | some g =>
    let old := ofLe (bytesGet g.scratch off n)
    let new := atomicNew op o.ty.toNat n old x.2.b.toNat x.2.cmp.toNat
    let s1 := s.modGroup c.u c.slot fun g => { g with scratch := bytesSet g.scratch off (leBytes n new) }
    if ret then
      oweReturn c x.1 s1 (regWrites 0 o.d.toNat (oldWords n old)) false (o.ord == 1 || o.ord == 3) .ready 0 true
    else s1

/-- The operand of a combined packet: the lanes' operands under the operation, in rank order (R301). -/
def combined (o : OpM) (op : Nat) (bs : List Nat) : Nat :=
  match bs with
  | [] => 0
  | b :: t => t.foldl (fun a x => atomicNew op o.ty.toNat (atomSize o) a x 0) b

/-- Make every lane of one location owe its return, and give the request's parts in lane order. -/
def atParts (o : OpM) (ret : Bool) (c : Ctx) (s : State) (l : List (Lane × AtLane)) : State × List Part :=
  let n := atomSize o
  let fid := s.nextId + (if ret then l.length else 0)
  l.foldl (fun r x =>
    let part : Part := { fibre := x.1.id, addr := x.2.t.pa s, size := n, data := leBytes n x.2.b.toNat, cmp := x.2.cmp,
                         ret := if ret then some r.1.nextId else none, page := x.2.t.via c x.1.f }
    (if ret then oweReturn c x.1 r.1 (blankDests o.d.toNat (n / 4)) false (o.ord == 1 || o.ord == 3) (.away fid) 0 true else r.1,
      r.2 ++ [part])) (s, [])

/-- The lanes of one location: in scratchpad one after another; in the package one request; in another package one packet
for each combining (R301, R331). -/
def atLocation (o : OpM) (op : Nat) (ret : Bool) (c : Ctx) (s : State) (l : List (Lane × AtLane)) : State :=
  match l with
  | [] => s
  | x :: _ =>
    match x.2.t with
    | .sp off => l.foldl (fun s y => atScratch o op ret c s y off) s
    | t =>
      let pa := t.pa s
      let n := atomSize o
      let one := fun (s : State) (l : List (Lane × AtLane)) =>
        let r := atParts o ret c s l
        let f : Flight := { id := 0, u := c.u, slot := c.slot, kind := .atomic op o.ty.toNat (o.ord == 3),
                            pa := pa / 128 * 128, parts := r.2 }
        if paPkg pa = s.pkg then (if o.ord = 3 then addFlight (dropCopy r.1 c.u pa) f else launchFlight r.1 f)
        else
          let bs := l.map fun y => y.2.b.toNat
          let data := if op = 7 then (l.map fun y => y.2.cmp.toNat).flatMap (leBytes n) else []
          let k := t.slot.getD 0
          let p := atomicPacket s c.u k (keyFor c [x.1]) (if ret then op else 8 + op) o.ty.toNat n pa (leBytes n (combined o op bs) ++ data)
          if o.ord = 3 then addFlight r.1 { f with packet := some (k, p) } else sendAtomic (addFlight r.1 f) c.u k p r.1.nextId
      if paPkg pa = s.pkg || combines o op ret then one s l else l.foldl (fun s y => one s [y]) s

/-- The slot charges of an atomic (R290, R301). -/
def atNeeds (o : OpM) (op : Nat) (ret : Bool) (s : State) (l : List (Lane × AtLane)) : SMap Nat :=
  let n := atomSize o
  let near := needsOf (packetsOf ((l.filter fun x => !x.2.t.foreign s).filterMap fun x =>
    x.2.t.slot.map fun k => (k, x.2.t.pa s, n)))
  let far := l.filter fun x => x.2.t.foreign s
  let packs := if combines o op ret then (groupBy (fun x => x.2.t.pa s) far).filterMap fun e => e.2.head? else far
  packs.foldl (fun m x => match x.2.t.slot with
    | some k => sset m k (sgetD m k 0 + packetCharge (if op = 7 then 2 * n else n))
    | none => m) near

/-- ATOM and RED (R330, R395). -/
def atomGeneral (o : OpM) (op : Nat) (ret : Bool) (s : State) : Answer :=
  .next <| runLanes s o.g o.len (atCheck o op ret) fun c s l =>
    chargeThenHold c s l (atNeeds o op ret s) (fun _ => []) (atHold o c) fun s l =>
      (groupBy (fun x => x.2.t.pa s) l).foldl (fun s e => atLocation o op ret c s e.2) s

/-- ATOM.add (R330). -/
def execAtomAdd (o : OpM) (s : State) : Answer := atomGeneral o 0 true s
/-- ATOM.min (R330). -/
def execAtomMin (o : OpM) (s : State) : Answer := atomGeneral o 1 true s
/-- ATOM.max (R330). -/
def execAtomMax (o : OpM) (s : State) : Answer := atomGeneral o 2 true s
/-- ATOM.and (R330). -/
def execAtomAnd (o : OpM) (s : State) : Answer := atomGeneral o 3 true s
/-- ATOM.or (R330). -/
def execAtomOr (o : OpM) (s : State) : Answer := atomGeneral o 4 true s
/-- ATOM.xor (R330). -/
def execAtomXor (o : OpM) (s : State) : Answer := atomGeneral o 5 true s
/-- ATOM.exch (R330). -/
def execAtomExch (o : OpM) (s : State) : Answer := atomGeneral o 6 true s
/-- ATOM.cas (R330). -/
def execAtomCas (o : OpM) (s : State) : Answer := atomGeneral o 7 true s
/-- RED.add (R395). -/
def execRedAdd (o : OpM) (s : State) : Answer := atomGeneral o 0 false s
/-- RED.min (R395). -/
def execRedMin (o : OpM) (s : State) : Answer := atomGeneral o 1 false s
/-- RED.max (R395). -/
def execRedMax (o : OpM) (s : State) : Answer := atomGeneral o 2 false s
/-- RED.and (R395). -/
def execRedAnd (o : OpM) (s : State) : Answer := atomGeneral o 3 false s
/-- RED.or (R395). -/
def execRedOr (o : OpM) (s : State) : Answer := atomGeneral o 4 false s
/-- RED.xor (R395). -/
def execRedXor (o : OpM) (s : State) : Answer := atomGeneral o 5 false s

/-! ## DSOP and DSRED -/

/-- A checked lane of a DSM operation: its bytes x, then y for .fma (R349). -/
structure DsLane where
  t : Target
  bytes : List Byte
deriving DecidableEq, Repr

/-- The checks of DSOP and DSRED (R349). `op` is 2 add to 7 xor in bank numbering, 8 fma; `ret` for the .ret forms. -/
def dsCheck (o : OpM) (op : Nat) (ret : Bool) (c : Ctx) (ln : Lane) : Except Stop DsLane := do
  let n := 2 ^ o.size.toNat
  holdCheck c ln
  let ea ← addr32 c ln.f o n
  let x ← srcRegs c ln.f (clsOf o.ub) o.b.r.toNat o.b.w (n / 4)
  let y ← if op = 8 then srcRegs c ln.f 0 o.d.toNat true (n / 4) else pure []
  if ret then destsReady c ln.f 0 o.d.toNat (n / 4)
  let t ← targetDs c ln.f ea n false
  return { t := t, bytes := wordsBytes x ++ wordsBytes y }

/-- One bank operation for the lanes of a row, in rank order (R36, R349). -/
def dsRow (o : OpM) (op : Nat) (ret : Bool) (c : Ctx) (s : State) (l : List (Lane × DsLane)) : State :=
  match l with
  | [] => s
  | x :: _ =>
    let n := 2 ^ o.size.toNat
    let fid := s.nextId + (if ret then l.length else 0)
    let r := l.foldl (fun r y =>
      let part : Part := { fibre := y.1.id, addr := y.2.t.pa s, size := n, data := y.2.bytes,
                           ret := if ret then some r.1.nextId else none }
      (if ret then oweReturn c y.1 r.1 (blankDests o.d.toNat (n / 4)) false (o.ord == 1) (.away fid) 0 true else r.1,
        r.2 ++ [part])) (s, ([] : List Part))
    addFlight r.1 { id := 0, u := c.u, slot := c.slot, kind := .dsm op o.ty.toNat, pa := x.2.t.pa s / 64 * 64, parts := r.2, domain := dsDomain c x.1.f,
                    acq := o.ord == 1 && !ret }

/-- DSOP and DSRED (R349). -/
def dsGeneral (o : OpM) (op : Nat) (ret : Bool) (s : State) : Answer :=
  .next <| runLanes s o.g o.len (dsCheck o op ret) fun c s l =>
    let needs := fun (l : List (Lane × DsLane)) =>
      needsOf (packetsOf (l.filterMap fun x => x.2.t.slot.map fun k => (k, x.2.t.pa s, 2 ^ o.size.toNat)))
    chargeThenHold c s l needs (fun _ => []) (relHold o c) fun s l =>
      (groupBy (fun x => x.2.t.pa s / 64) l).foldl (fun s e => dsRow o op ret c s e.2) s

/-- DSOP.add (R349). -/
def execDsopAdd (o : OpM) (s : State) : Answer := dsGeneral o 2 false s
/-- DSOP.min (R349). -/
def execDsopMin (o : OpM) (s : State) : Answer := dsGeneral o 3 false s
/-- DSOP.max (R349). -/
def execDsopMax (o : OpM) (s : State) : Answer := dsGeneral o 4 false s
/-- DSOP.and (R349). -/
def execDsopAnd (o : OpM) (s : State) : Answer := dsGeneral o 5 false s
/-- DSOP.or (R349). -/
def execDsopOr (o : OpM) (s : State) : Answer := dsGeneral o 6 false s
/-- DSOP.xor (R349). -/
def execDsopXor (o : OpM) (s : State) : Answer := dsGeneral o 7 false s
/-- DSOP.fma (R349). -/
def execDsopFma (o : OpM) (s : State) : Answer := dsGeneral o 8 false s
/-- DSRED.add (R349). -/
def execDsredAdd (o : OpM) (s : State) : Answer := dsGeneral o 2 false s
/-- DSRED.min (R349). -/
def execDsredMin (o : OpM) (s : State) : Answer := dsGeneral o 3 false s
/-- DSRED.max (R349). -/
def execDsredMax (o : OpM) (s : State) : Answer := dsGeneral o 4 false s
/-- DSRED.and (R349). -/
def execDsredAnd (o : OpM) (s : State) : Answer := dsGeneral o 5 false s
/-- DSRED.or (R349). -/
def execDsredOr (o : OpM) (s : State) : Answer := dsGeneral o 6 false s
/-- DSRED.xor (R349). -/
def execDsredXor (o : OpM) (s : State) : Answer := dsGeneral o 7 false s
/-- DSRED.add.ret (R349). -/
def execDsredAddRet (o : OpM) (s : State) : Answer := dsGeneral o 2 true s
/-- DSRED.min.ret (R349). -/
def execDsredMinRet (o : OpM) (s : State) : Answer := dsGeneral o 3 true s
/-- DSRED.max.ret (R349). -/
def execDsredMaxRet (o : OpM) (s : State) : Answer := dsGeneral o 4 true s
/-- DSRED.and.ret (R349). -/
def execDsredAndRet (o : OpM) (s : State) : Answer := dsGeneral o 5 true s
/-- DSRED.or.ret (R349). -/
def execDsredOrRet (o : OpM) (s : State) : Answer := dsGeneral o 6 true s
/-- DSRED.xor.ret (R349). -/
def execDsredXorRet (o : OpM) (s : State) : Answer := dsGeneral o 7 true s

/-! ## FENCE -/

/-- FENCE (R363): ORD 1 acquires, 2 releases, 3 does both. The fibre waits until the release is done and, for an acquire, until
its earlier loads have returned; an acquire at .pkg or .rack then drops every L copy of the core's L1. -/
def execFence (o : OpM) (s : State) : Answer :=
  .next <| runLanes s o.g o.len
    (fun c ln => do
      if o.ord = 2 || o.ord = 3 then releaseCheck c ln o.scope.toNat
      if (o.ord = 1 || o.ord = 3) && !allReturned c.s c.u c.slot ln.id then throw (Stop.block (.acquire o.scope.toNat))
      return ())
    fun c s _ =>
      if (o.ord = 1 || o.ord = 3) && decide (4 ≤ o.scope.toNat) then s.modCore c.u fun x => { x with lcopies := [] } else s

end Sys2Proof.Machine
end

