-- ==== Sys2Proof/Machine/Signing.lean ====
section
/-! DEFINITION. Signing a convergence register (R37 to R40, R189): the shared operation of SIGN (R405) and of the cross-lane
entries SHFL, VOTE, REDUX and SCAN (R396 to R398). -/

namespace Sys2Proof.Machine

/-- A convergence register of a group (R37). -/
def Group.conv (g : Group) (n : Nat) : Conv := sgetD g.convs n {}

/-- What a lane signs with. -/
structure SignReq where
  cv : Nat
  /-- opcode, suffixes and tile, accumulator or uniform operand fields (R39) -/
  key : List Nat
  /-- a cross-lane instruction: E must not exceed 32 -/
  cross : Bool := false
  signer : Signer
  /-- the vector registers that are empty, and the predicates that are pending, until the set completes -/
  dests : List Nat := []
  preds : List Nat := []
  /-- the member blocks until the set completes (SIGN.wait) -/
  waits : Bool := false

/-- What signing comes to in one lane. -/
inductive SignEnd where
  | done (s : State)
  | block (w : Wait)
  | refuse (cause sub addr : Nat)

/-- Put a signer into the list in the order of fibre identifiers (R37). -/
def insertSigner (x : Signer) : List Signer → List Signer
  | [] => [x]
  | y :: t => if x.fibre < y.fibre then x :: y :: t else y :: insertSigner x t

/-- The predicates of a fibre as its kernel's code knows them: those kept aside while it is inside a gate. -/
def Fibre.setOwnPred (f : Fibre) (p : Nat) (b : Bool) : Fibre :=
  let clear : BitVec 8 := ~~~(1#8 <<< p)
  match f.gate with
  | some t =>
    let x := ({ f with preds := t.callerPreds }.setPred p b).preds
    { f with gate := some { t with callerPreds := x, callerPend := t.callerPend &&& clear } }
  | none => { f.setPred p b with predPend := f.predPend &&& clear }

/-- The registers of a fibre as its kernel names them: those kept aside while it is inside a gate (R254). -/
def Fibre.setOwnReg (f : Fibre) (n : Nat) (r : Reg) : Fibre :=
  match f.gate with
  | some t => { f with gate := some { t with callerRegs := sset t.callerRegs n r } }
  | none => { f with regs := sset f.regs n r }
/-- Such a register. -/
def Fibre.ownReg (f : Fibre) (n : Nat) : Reg :=
  match f.gate with
  | some t => sgetD t.callerRegs n {}
  | none => f.reg n

/-- The members' signing bits clear, and a set opens anew with E kept (R37). -/
def closeSet (s : State) (u slot cv : Nat) (members : List Signer) : State :=
  (s.modGroup u slot fun g => { g with convs := sset g.convs cv { (g.conv cv) with signers := [], key := [] } }).modGroup u slot
    fun g => { g with fibres := g.fibres.map fun e =>
      if (members.any fun m => m.fibre == e.1) then (e.1, { e.2 with signs := e.2.signs &&& ~~~(1#16 <<< cv) }) else e }

/-- Members that wait for a set to complete go on. -/
def wakeSigned (s : State) (u slot cv : Nat) (ids : List Nat) : State :=
  s.modGroup u slot fun g =>
    { g with fibres := g.fibres.map fun e =>
        if ids.contains e.1 && e.2.wait == some (.signed cv) then (e.1, e.2.ready (s.core u).opp) else e }

/-- Sign in one lane (R37, R39, R40). `refuse` gives the refusals of the entry's own checks, which come first; `complete` acts
for the whole set when this lane is its last signer, and may make that signer block or refuse it instead. `last` gives the refusals that
come after the convergence causes (R424). -/
def signLane (c : Ctx) (s : State) (id : Nat) (r : SignReq) (refuse : State → Option (Nat × Nat × Nat))
    (complete : State → List Signer → SignEnd) (last : State → Option (Nat × Nat × Nat) := fun _ => none) : SignEnd :=
  match s.group c.u c.slot, s.fibre c.u c.slot id with
  | some g, some f =>
    let k := g.conv r.cv
    if f.signs.getLsbD r.cv then .block (.sign r.cv)
    else
      match refuse s with
      | some (cause, sub, addr) => .refuse cause sub addr
      | none =>
        if r.cross && k.e > 32 then .refuse Cause.convWidth 0 r.cv
        else if !k.signers.isEmpty && k.key != r.key then .refuse Cause.convMismatch 0 r.cv
        else match last s with
        | some (cause, sub, addr) => .refuse cause sub addr
        | none =>
          let members := insertSigner r.signer k.signers
          let owe := fun (s : State) => s.modFibre c.u c.slot id fun f =>
            let f1 := r.dests.foldl (fun f n => f.setOwnReg n { f.ownReg n with st := .empty }) f
            { f1 with predPend := r.preds.foldl (fun b p => b ||| (1#8 <<< p)) f1.predPend }
          if members.length < k.e then
            let s1 := owe (s.modGroup c.u c.slot fun g =>
              { g with convs := sset g.convs r.cv { k with signers := members, key := r.key } })
            .done (s1.modFibre c.u c.slot id fun f =>
              { f with signs := f.signs ||| (1#16 <<< r.cv), wait := if r.waits then some (.signed r.cv) else f.wait })
          else
            match complete (closeSet (owe s) c.u c.slot r.cv members) members with
            | .done s1 => .done s1
            | e => e
  | _, _ => .done s

/-- The commit of a signing instruction: its lanes sign one after another in lane order. A lane that blocks or is refused goes
back to the instruction; only the refused signer faults (R39, R247). -/
def commitSign {α : Type} (sign : Ctx → State → Lane → α → SignEnd) (c : Ctx) (s : State) (l : List (Lane × α)) : State :=
  l.foldl (fun s x =>
    match sign c s x.1 x.2 with
    | .done s1 => s1
    | .block w => (s.rewind c.u c.slot x.1.id c.pc).block c x.1.id w
    | .refuse cause sub addr =>
      (s.rewind c.u c.slot x.1.id c.pc).takeFault c.u c.slot [x.1.id] x.1.id x.1.l cause sub addr c.pc) s

/-- Convergence registers are not a gate's (R254). -/
def convCheck (ln : Lane) (cv : Nat) : Except Stop Unit :=
  if ln.f.gate.isSome then stopFault Cause.domain (Config.gateConvIndex cv) else .ok ()

/-! ## SIGN (R405) -/

/-- CF bits 3:0. -/
def convOf (o : OpT) : Nat := o.c.toNat % 16

/-- SIGN.init: the count is checked before S (R39). -/
def execSignInit (o : OpT) (s : State) : Answer :=
  .next <| runLanes s o.g o.len
    (fun c ln => do
      convCheck ln (convOf o)
      srcB c ln.f o)
    (commitSign fun c s _ n =>
      match s.group c.u c.slot with
      | none => .done s
      | some g =>
        if n.toNat = 0 || n.toNat > 1024 || n.toNat > g.hdr.kfibs then .refuse Cause.convCount 0 (convOf o)
        else if !(g.conv (convOf o)).signers.isEmpty then .refuse Cause.convBusy 0 (convOf o)
        else .done (s.modGroup c.u c.slot fun g => { g with convs := sset g.convs (convOf o) { e := n.toNat } }))

/-- SIGN.arv and SIGN.wait. -/
def signGeneral (o : OpT) (waits : Bool) (s : State) : Answer :=
  .next <| runLanes s o.g o.len (fun _ ln => convCheck ln (convOf o))
    (commitSign fun c s ln _ =>
      signLane c s ln.id
        { cv := convOf o, key := [0x013], signer := { fibre := ln.id, x := 0, y := 0, p := false, d := 0 }, waits := waits }
        (fun _ => none)
        fun s ms => .done (wakeSigned s c.u c.slot (convOf o) (ms.map (·.fibre))))

/-- SIGN.arv (R405). -/
def execSignArv (o : OpT) (s : State) : Answer := signGeneral o false s
/-- SIGN.wait (R405). -/
def execSignWait (o : OpT) (s : State) : Answer := signGeneral o true s

/-! ## Cross-lane entries (R396 to R398) -/

/-- Write a member's result registers; they become full. A register that a later write has reached meanwhile keeps it (R56). The write is
not the access that wakes a drowsy granule (R59): DESIGN CHOICE, see the log. -/
def giveRegs (s : State) (u slot : Nat) (m : Signer) (ws : List (Nat × Word)) : State :=
  s.modFibre u slot m.fibre fun f =>
    (ws.filter fun w => !m.passed.contains w.1).foldl (fun f w => f.setOwnReg w.1 { val := w.2, st := .full }) f
/-- Write a member's predicate; it is no longer pending. -/
def givePred (s : State) (u slot id p : Nat) (b : Bool) : State := s.modFibre u slot id fun f => f.setOwnPred p b
/-- A write from outside has reached a register that a producer may still owe: the producer no longer writes it (R56). What an open set
owes inside a gate is the caller's register, which the window does not name (R254). A CBACQ or MRECV that waits finds its register full
and leaves it (`stillOwed`). -/
def forgetOwed (s : State) (u slot id cls n : Nat) : State :=
  let s1 := s.modCore u fun c => { c with returns := c.returns.map fun r =>
    if r.slot == slot && (cls == 1 || r.fibre == id) then
      { r with dests := r.dests.filter fun d => !(d.1 == cls && d.2.1 == n) } else r }
  match cls, s1.fibre u slot id with
  | 0, some f =>
    if f.gate.isSome then s1
    else s1.modGroup u slot fun g => { g with convs := g.convs.map fun e =>
      (e.1, { e.2 with signers := e.2.signers.map fun m => if m.fibre = id then { m with passed := n :: m.passed } else m }) }
  | _, _ => s1
/-- Those of a fibre's destination registers that it still owes a value. -/
def stillOwed (s : State) (u slot id : Nat) (ds : List (Nat × Nat × Word)) : List (Nat × Nat × Word) :=
  match s.fibre u slot id with
  | some f => ds.filter fun d => (f.reg d.2.1).pending
  | none => ds
/-- Raise flags of a fibre as its kernel's code knows them: those kept aside while it is inside a gate. -/
def Fibre.raiseOwn (f : Fibre) (fl : BitVec 5) : Fibre :=
  match f.gate with
  | some t => { f with gate := some { t with callerFlags := t.callerFlags ||| fl } }
  | none => { f with flags := f.flags ||| fl }
/-- Raise flags in every member (R91). -/
def giveFlags (s : State) (u slot : Nat) (ids : List Nat) (fl : BitVec 5) : State :=
  ids.foldl (fun s id => s.modFibre u slot id fun f => f.raiseOwn fl) s

/-- The uniform operand fields that signers must share. -/
def uniKey (o : OpT) : List Nat := [if o.ua then 1 + o.a.r.toNat else 0, if o.ub then 1 + o.b.r.toNat else 0]

/-- Sign a cross-lane set: `read` gives the lane's operands, `write` the result for the member at a rank. -/
def crossGeneral (o : OpT) (opc : Nat) (wide : Bool) (pred : Bool)
    (read : Ctx → Fibre → Except Stop (DWord × Word × Bool))
    (finish : State → Nat → Nat → List Signer → State) (s : State) : Answer :=
  .next <| runLanes s o.g o.len
    (fun c ln => do
      convCheck ln (convOf o)
      if ln.f.signs.getLsbD (convOf o) then throw (Stop.block (.sign (convOf o)))
      let v ← read c ln.f
      if pred then predReady ln.f (o.d.toNat % 8) else destsReady c ln.f 0 o.d.toNat (if wide then 2 else 1)
      return v)
    (commitSign fun c s ln v =>
      signLane c s ln.id
        { cv := convOf o, key := [opc, o.ty.toNat] ++ uniKey o,
          cross := true, signer := { fibre := ln.id, x := v.1, y := v.2.1, p := v.2.2, d := o.d.toNat },
          dests := if pred then [] else if wide then [o.d.toNat, o.d.toNat + 1] else [o.d.toNat],
          preds := if pred then (if o.d.toNat % 8 = 7 then [] else [o.d.toNat % 8]) else [] }
        (fun _ => none)
        fun s ms => .done (finish s c.u c.slot ms))

/-- SHFL: each member takes the value of the rank that `pick k s` names, or its own (R398). -/
def shflGeneral (o : OpT) (opc : Nat) (pick : Int → Int → Int) (s : State) : Answer :=
  crossGeneral o opc false false
    (fun c f => do
      let a ← srcA c f o
      let b ← srcB c f o
      return (a.setWidth 64, b, false))
    (fun s u slot ms =>
      ms.zipIdx.foldl (fun s m =>
        let j := pick m.2 m.1.y.toNat
        let x := if j < 0 then m.1.x else ((ms[j.toNat]?).map (·.x)).getD m.1.x
        giveRegs s u slot m.1 [(m.1.d, x.setWidth 32)]) s) s

/-- SHFL.idx (R398). -/
def execShflIdx (o : OpT) (s : State) : Answer := shflGeneral o 0x0A0 (fun _ x => x) s
/-- SHFL.up (R398). -/
def execShflUp (o : OpT) (s : State) : Answer := shflGeneral o 0x0A1 (fun k x => k - x) s
/-- SHFL.down (R398). -/
def execShflDown (o : OpT) (s : State) : Answer := shflGeneral o 0x0A2 (fun k x => k + x) s
/-- SHFL.xor (R398). -/
def execShflXor (o : OpT) (s : State) : Answer := shflGeneral o 0x0A3 (fun k x => ((k.toNat ^^^ x.toNat : Nat) : Int)) s

/-- The predicate a VOTE reads: CF bits 6:4, inverted by bit 7 (R397). -/
def votePred (o : OpT) (f : Fibre) : Except Stop Bool := do
  let p ← srcPred f (o.c.toNat / 16 % 8)
  return p != o.c.getLsbD 7

/-- VOTE.any and VOTE.all. -/
def voteBool (o : OpT) (opc : Nat) (all : Bool) (s : State) : Answer :=
  crossGeneral o opc false true
    (fun _ f => do
      let p ← votePred o f
      return (0, 0, p))
    (fun s u slot ms =>
      let r := if all then ms.all (·.p) else ms.any (·.p)
      ms.foldl (fun s m => givePred s u slot m.fibre (m.d % 8) r) s) s

/-- VOTE.any (R398). -/
def execVoteAny (o : OpT) (s : State) : Answer := voteBool o 0x0A4 false s
/-- VOTE.all (R398). -/
def execVoteAll (o : OpT) (s : State) : Answer := voteBool o 0x0A5 true s

/-- The mask of members whose predicate holds. -/
def ballotOf (ms : List Signer) : Nat := (ms.zipIdx.map fun m => if m.1.p then 2 ^ m.2 else 0).foldl (· + ·) 0

/-- VOTE.ballot (R398). -/
def execVoteBallot (o : OpT) (s : State) : Answer :=
  crossGeneral o 0x0A6 false false
    (fun _ f => do
      let p ← votePred o f
      return (0, 0, p))
    (fun s u slot ms => ms.foldl (fun s m => giveRegs s u slot m [(m.d, BitVec.ofNat 32 (ballotOf ms))]) s) s

/-- The width in bits and the signedness of a REDUX or SCAN type. -/
def reduxWidth (ty : BitVec 4) : Nat := if ty = 2 then 64 else 32

/-- Integer ⊕ of a REDUX or SCAN on patterns, and min and max of FP32. -/
def reduxOp (op : Nat) (ty : BitVec 4) (a b : DWord) : DWord :=
  if ty = 3 then
    ((if op = 1 then f32Min else f32Max) (a.setWidth 32) (b.setWidth 32)).setWidth 64
  else BitVec.ofNat 64 (intOp op (ty != 1) (reduxWidth ty) a.toNat b.toNat)

/-- Replace two entries of a list by their FP32 sum, with its flags. `p` names the two. -/
def sumAt (p : Nat) (l : List Word) : List Word × BitVec 5 :=
  let n := l.length
  let i := p / n % n
  let j := if p % n = i then (i + 1) % n else p % n
  let r := addRound fmtF32 (value fmtF32 (l.getD (Nat.min i j) 0).toNat) (value fmtF32 (l.getD (Nat.max i j) 0).toNat) .rne false
  ((l.set (Nat.min i j) (w32 r)).eraseIdx (Nat.max i j), r.2)

/-- The sum of FP32 values in a grouping that is not fixed (R94): at each step a free choice names the two partial sums that are
added next. -/
def freeSum : Nat → Nat → List Word → BitVec 5 → Word × BitVec 5
  | _, _, [], fl => (0, fl)
  | _, _, [x], fl => (x, fl)
  | 0, _, x :: _, fl => (x, fl)
  | n + 1, k, l, fl =>
    let r := sumAt (Config.combinePick k) l
    freeSum n (k + 1) r.1 (fl ||| r.2)

/-- A .f32 result that is NaN is canonical (R88). -/
def canonicalF32 (ty : BitVec 4) (x : DWord) : DWord :=
  match ty, value fmtF32 (x.toNat % 2 ^ 32) with
  | 3, .nan _ => BitVec.ofNat 64 (canonNan fmtF32)
  | _, _ => x

/-- ⊕ over a list that is not empty, with the flags of its additions. -/
def reduxAll (op : Nat) (ty : BitVec 4) (k : Nat) (xs : List DWord) : DWord × BitVec 5 :=
  if ty = 3 && op = 0 then
    let r := freeSum xs.length k (xs.map fun x => x.setWidth 32) 0
    (canonicalF32 ty (r.1.setWidth 64), r.2)
  else
    match xs with
    | [] => (0, 0)
    | x :: t => (canonicalF32 ty (t.foldl (reduxOp op ty) x), 0)

/-- The identity of an exclusive SCAN (R398). -/
def scanIdentity (op : Nat) (ty : BitVec 4) : DWord :=
  if op = 3 then (if ty = 2 then BitVec.allOnes 64 else 0xFFFFFFFF)
  else if op = 1 then (if ty = 1 then 0xFFFFFFFF else if ty = 2 then 0x7FFFFFFFFFFFFFFF else if ty = 3 then 0x7F800000 else 0x7FFFFFFF)
  else if op = 2 then (if ty = 1 then 0 else if ty = 2 then 0x8000000000000000 else if ty = 3 then 0xFF800000 else 0x80000000)
  else 0

/-- Give every member of a REDUX or SCAN its result; a NaN result is canonical. Flags land in every member (R91). -/
def giveResults (o : OpT) (s : State) (u slot : Nat) (ms : List Signer) (rs : List (DWord × BitVec 5)) : State :=
  let s1 := (ms.zip rs).foldl (fun s m =>
    giveRegs s u slot m.1 ((destWrites (o.ty = 2) 0 m.1.d m.2.1).map fun w => (w.2.1, w.2.2))) s
  giveFlags s1 u slot (ms.map (·.fibre)) ((rs.map (·.2)).foldl (· ||| ·) 0)

/-- The operand of a REDUX or SCAN. -/
def readTyped (o : OpT) (c : Ctx) (f : Fibre) : Except Stop (DWord × Word × Bool) := do
  let a ← srcTyped c f (o.ty = 2) o.ua o.a
  return (a, 0, false)

/-- REDUX. -/
def reduxGeneral (o : OpT) (op : Nat) (s : State) : Answer :=
  crossGeneral o (0x0A8 + op) (o.ty = 2) false (readTyped o)
    (fun s u slot ms =>
      let r := reduxAll op o.ty s.freeCount (ms.map (·.x))
      giveResults o { s with freeCount := s.freeCount + 32 } u slot ms (ms.map fun _ => r)) s

/-- REDUX.add (R398). -/
def execReduxAdd (o : OpT) (s : State) : Answer := reduxGeneral o 0 s
/-- REDUX.min (R398). -/
def execReduxMin (o : OpT) (s : State) : Answer := reduxGeneral o 1 s
/-- REDUX.max (R398). -/
def execReduxMax (o : OpT) (s : State) : Answer := reduxGeneral o 2 s
/-- REDUX.and (R398). -/
def execReduxAnd (o : OpT) (s : State) : Answer := reduxGeneral o 3 s
/-- REDUX.or (R398). -/
def execReduxOr (o : OpT) (s : State) : Answer := reduxGeneral o 4 s
/-- REDUX.xor (R398). -/
def execReduxXor (o : OpT) (s : State) : Answer := reduxGeneral o 5 s

/-- SCAN; CF bit 4 is EXCL, each member's own: R39 does not name it among the fields that must agree. -/
def scanGeneral (o : OpT) (op : Nat) (s : State) : Answer :=
  crossGeneral o (0x0B0 + op) (o.ty = 2) false
    (fun c f => do
      let v ← readTyped o c f
      return (v.1, if o.c.getLsbD 4 then 1 else 0, false))
    (fun s u slot ms =>
      let xs := ms.map (·.x)
      let rs := ms.zipIdx.map fun m =>
        let n := if m.1.y = 1 then m.2 else m.2 + 1
        if n = 0 then (scanIdentity op o.ty, 0) else reduxAll op o.ty (s.freeCount + 32 * m.2) (xs.take n)
      giveResults o { s with freeCount := s.freeCount + 1024 } u slot ms rs) s

/-- SCAN.add (R398). -/
def execScanAdd (o : OpT) (s : State) : Answer := scanGeneral o 0 s
/-- SCAN.min (R398). -/
def execScanMin (o : OpT) (s : State) : Answer := scanGeneral o 1 s
/-- SCAN.max (R398). -/
def execScanMax (o : OpT) (s : State) : Answer := scanGeneral o 2 s
/-- SCAN.and (R398). -/
def execScanAnd (o : OpT) (s : State) : Answer := scanGeneral o 3 s
/-- SCAN.or (R398). -/
def execScanOr (o : OpT) (s : State) : Answer := scanGeneral o 4 s
/-- SCAN.xor (R398). -/
def execScanXor (o : OpT) (s : State) : Answer := scanGeneral o 5 s

end Sys2Proof.Machine
end

