-- ==== Sys2Proof/Machine/Storage.lean ====
section
/-! DEFINITION. The storage of a core and who holds it: kernel headers (R131), DPART sets (R240), the placement of a group
(R139, R50, R184), fresh fibres (R29), and region frames (R257). -/

namespace Sys2Proof.Machine

/-! ## Kernel headers (R131) -/

/-- The header that 64 bytes hold. -/
def headerOf (b : List Byte) (trapClass : Bool) : Header :=
  let n := fun off k => ofLe ((b.drop off).take k)
  { kent := BitVec.ofNat 64 (n 0 8), kscr := n 8 4, kgrps := n 12 2, kfibs := n 14 2, kregs := n 16 2, kuni := n 18 1,
    ktiles := n 19 1, kaccs := n 20 1, kconv := n 21 1, trapClass := trapClass, kframe := n 24 4,
    hints := (List.range (Nat.min (n 23 1) 4)).map fun i => (n (32 + 4 * i) 1 % 64, n (33 + 4 * i) 3) }

/-- A hint word of a header: bits 7:6 are zero, and the whole word when it is not in use (R131). -/
def hintGood (b : List Byte) (i : Nat) : Bool :=
  let w := (b.drop (32 + 4 * i)).take 4
  if i < ofLe ((b.drop 23).take 1) then ofLe (w.take 1) < 64 else w.all (· == 0)
/-- What R131 reserves in a header is zero, KCLASS is 0 or 1 and at most four hints are in use. -/
def headerReserved (b : List Byte) : Bool :=
  ((b.drop 28).take 4).all (· == 0) && ((b.drop 48).take 16).all (· == 0) && ofLe ((b.drop 22).take 1) ≤ 1 &&
  ofLe ((b.drop 23).take 1) ≤ 4 && (List.range 4).all (hintGood b)

/-- The limits of R43 and R130 on a header. An entry address that is no parcel 0 of a line is none of R131's refusals, and the header
stands: DESIGN CHOICE, see the log. -/
def headerLimits (h : Header) : Bool :=
  1 ≤ h.kgrps && h.kgrps ≤ 256 && 1 ≤ h.kfibs && h.kfibs ≤ 1024 && 1 ≤ h.kregs && h.kregs ≤ 256 &&
  h.kfibs * granules8 h.kregs ≤ 262144 && h.kscr ≤ 2097152 && h.ktiles ≤ 16 && h.kaccs ≤ 8 && h.kconv ≤ 16 &&
  h.kuni ≤ 64 && h.kframe ≤ 4096 && h.kframe % 64 == 0

/-! ## DPART sets (R240) -/

def Dpart.valid (p : Dpart) : Bool := p.reg.getLsbD 63
def Dpart.domain (p : Dpart) : Nat := bitsOf p.reg.toNat 62 55
def Dpart.l2c (p : Dpart) : Nat := bitsOf p.reg.toNat 54 51
def Dpart.iw (p : Dpart) : Nat := bitsOf p.reg.toNat 50 47
def Dpart.csh (p : Dpart) : Nat := bitsOf p.reg.toNat 46 43
def Dpart.vbase (p : Dpart) : Nat := bitsOf p.reg.toNat 30 16
def Dpart.vgran (p : Dpart) : Nat := bitsOf p.reg.toNat 15 0
def Dpart.sbm (p : Dpart) : Nat := bitsOf p.ext.toNat 63 0
def Dpart.tsm (p : Dpart) : Nat := bitsOf p.ext.toNat 95 64
def Dpart.asm (p : Dpart) : Nat := bitsOf p.ext.toNat 111 96
def Dpart.ubase (p : Dpart) : Nat := bitsOf p.ext.toNat 143 128
def Dpart.ugran (p : Dpart) : Nat := bitsOf p.ext.toNat 159 144

/-- Two half-open ranges overlap. -/
def rangesMeet (a n b m : Nat) : Bool := decide (a < b + m) && decide (b < a + n) && n != 0 && m != 0

/-- Two valid sets may not share storage or a domain (R241). -/
def Dpart.clashes (p q : Dpart) : Bool :=
  rangesMeet p.vbase p.vgran q.vbase q.vgran || p.sbm &&& q.sbm != 0 || p.tsm &&& q.tsm != 0 || p.asm &&& q.asm != 0 ||
  rangesMeet p.ubase p.ugran q.ubase q.ugran || p.domain == q.domain

/-- DPARTn with its reserved nothing: every bit of the register is a field (R240). -/
def extReservedZero (e : BitVec 256) : Bool := bitsOf e.toNat 127 112 == 0 && bitsOf e.toNat 255 160 == 0

/-- A change of the fields other than IW and CSH (R241). -/
def Dpart.changes (p q : Dpart) : Bool :=
  let keep := fun r : DWord => bitsOf r.toNat 63 51 * 2 ^ 43 + bitsOf r.toNat 42 0
  keep p.reg != keep q.reg || p.ext != q.ext

/-- An MTSR to DPARTn is refused (R241). -/
def dpartRefused (c : Core) (n : Nat) (p : Dpart) : Bool :=
  (p.valid && (p.l2c > 8 || p.iw == 0 || p.vbase + p.vgran > 32768)) ||
  !extReservedZero p.ext || p.ubase + p.ugran > 256 ||
  (p.valid && c.dparts.any fun e => e.1 != n && e.2.valid && p.clashes e.2) ||
  ((c.slots.any fun e => e.2.set == n && e.2.task.isSome) && p.changes (sgetD c.dparts n {}))

/-- The extension entry of set n of a core unit, as the die's table holds it (R240). -/
def extEntry (s : State) (u n : Nat) : BitVec 256 :=
  BitVec.ofNat 256 ((s.die (dieOf u)).num (0x6000400000 + 256 * coreIx u + 32 * n) 32)

/-- Commit DPARTn (R240). -/
def commitDpart (s : State) (u n : Nat) (p : Dpart) : State := s.modCore u fun c => { c with dparts := sset c.dparts n p }

/-! ## Placement -/

/-- Vector granules that a core's groups and gate windows hold, as start and length. -/
def vecHeld (c : Core) : List (Nat × Nat) :=
  c.slots.flatMap fun e =>
    (e.2.vbase, e.2.hdr.kfibs * (granules8 e.2.hdr.kregs / 8)) ::
      e.2.fibres.filterMap fun f => f.2.gate.map fun t => (t.base, t.gregs / 8)
/-- Uniform granules held. -/
def uniHeld (c : Core) : List (Nat × Nat) := c.slots.map fun e => (e.2.ubase, granules8 e.2.hdr.kuni / 8)

/-- The lowest start of `need` free units in [lo, lo + len), given what is held. -/
def findRun (held : List (Nat × Nat)) (lo len need : Nat) : Option Nat :=
  let fits := fun a => lo ≤ a && a + need ≤ lo + len && !(held.any fun h => rangesMeet a need h.1 h.2)
  let starts := (lo :: held.map fun h => h.1 + h.2).filter fits
  match starts with
  | [] => none
  | a :: t => some (t.foldl Nat.min a)

/-- The `n` lowest set bits of a mask below `width` that `held` does not contain; none when there are too few. -/
def lowestFree (mask width : Nat) (held : List Nat) (n : Nat) : Option (List Nat) :=
  let l := (List.range width).filter fun i => mask.testBit i && !held.contains i
  if n ≤ l.length then some (l.take n) else none

/-- Banks that KSCR needs: 32 KiB each, rounded up to a power of two (R139). -/
def scratchBanks (kscr : Nat) : Nat :=
  let n := (kscr + 32767) / 32768
  if n = 0 then 0 else ([1, 2, 4, 8, 16, 32, 64].find? fun k => n ≤ k).getD 64

/-- A place for a group on a core. -/
structure Place where
  slot : Nat
  vbase : Nat
  ubase : Nat
  banks : List Nat
  tiles : List Nat
  accs : List Nat

/-- The fibres a core's groups hold places for: their capacities. -/
def fibresHeld (c : Core) : Nat := (c.slots.map fun e => e.2.hdr.kfibs).foldl (· + ·) 0

/-- A place for a group of header `h` within a set: a free group slot, fibre slots, a run of vector and of uniform granules,
and the lowest-numbered free banks, tiles and accumulators (R41, R42, R139). -/
def placeGroup (c : Core) (p : Dpart) (h : Header) : Option Place :=
  let gs := c.slots.map (·.2)
  match (List.range 32).find? (fun n => !(c.slots.any fun e => e.1 == n)),
      findRun (vecHeld c) p.vbase p.vgran (h.kfibs * (granules8 h.kregs / 8)),
      findRun (uniHeld c) p.ubase p.ugran (granules8 h.kuni / 8),
      lowestFree p.sbm 64 (gs.flatMap (·.banks)) (scratchBanks h.kscr),
      lowestFree p.tsm 32 (gs.flatMap (·.ptiles)) h.ktiles,
      lowestFree p.asm 16 (gs.flatMap (·.paccs)) h.kaccs with
  | some slot, some v, some uu, some bs, some ts, some as =>
    if fibresHeld c + h.kfibs ≤ 4096 then some ⟨slot, v, uu, bs, ts, as⟩ else none
  | _, _, _, _, _, _ => none

/-- The whole storage of a core, as a supervisor group sees it (R12). -/
def wholeCore : Dpart :=
  { reg := BitVec.ofNat 64 32768, ext := BitVec.ofNat 256 (2 ^ 64 - 1 + (256 <<< 144)) }

/-- First vector register of fibre f's window (R28). -/
def windowOf (g : Group) (f : Nat) : Nat := 8 * (g.vbase + f * (granules8 g.hdr.kregs / 8))

/-- A live fibre in slot `id` with the state of R29. It starts at the parcel of its address, bits 1:0 cleared, without the check of R101:
DESIGN CHOICE, see the log. -/
def freshFibre (g : Group) (id : Nat) (pc : DWord) (sup : Bool) (now : Nat) : Fibre :=
  { pc := alignPc pc, windowBase := windowOf g id, sup := sup, readyAt := now }

/-- s0:s1 as a group's start writes ARG, when .uniform is at least 2 (R222). -/
def argRegs (h : Header) (arg : DWord) : SMap Reg :=
  if h.kuni ≥ 2 then [(0, { val := arg.extractLsb' 0 32 }), (1, { val := arg.extractLsb' 32 32 })] else []

/-- A fibre that counts as live: not one that has left its save routine (R351). -/
def liveFibres (g : Group) : List (Nat × Fibre) := g.fibres.filter fun e => !e.2.stopped

/-- The opcodes of the cross-lane entries, whose open sets still owe their members a register (R32, R396). -/
def owesRegister (k : Conv) : Bool :=
  match k.key with
  | op :: _ => decide (0x0A0 ≤ op) && decide (op < 0x0C0)
  | [] => false

/-- The fibre slot is free: no live fibre, and every register write of its last occupant is done (R32). -/
def slotFree (s : State) (u slot : Nat) (g : Group) (id : Nat) : Bool :=
  !(g.fibres.any fun e => e.1 == id) &&
  !((s.core u).returns.any fun r => r.slot == slot && r.fibre == id) &&
  !(g.convs.any fun e => owesRegister e.2 && e.2.signers.any fun m => m.fibre == id)

/-- The free fibre slots of a group, lowest first. -/
def freeSlots (s : State) (u slot : Nat) (g : Group) : List Nat :=
  (List.range g.hdr.kfibs).filter fun id => slotFree s u slot g id

/-! ## Region frames (R257) -/

/-- The address of fibre f's frame. -/
def frameAddr (s : State) (d : Nat) (g : Group) (f : Nat) : Nat :=
  wrapNat (domField s d g.domain 32 8 + (g.gangId * 256 + g.grpIx) * domField s d g.domain 28 4 + f * g.hdr.kframe : Nat) 64

/-- The identity under which frames and save areas translate: the domain's PASID (R242). -/
def domainWho (s : State) (u dom : Nat) (sup : Bool) : Who :=
  ⟨domField s (dieOf u) dom 4 4 % 2 ^ 20, dom, keyOf s u dom, sup, false⟩

/-- `Translate(frame, store, size)` in a fibre's execution, then the route to its die and the island (R16, R287). -/
def frameCheck (c : Ctx) (f : Fibre) (id size : Nat) : Except Stop Page := do
  let a := frameAddr c.s (dieOf c.u) c.g id
  let p ← translate c.s c.u (domainWho c.s c.u c.g.domain f.sup) a .store size
  let _ ← routeCheck c.s c.u c.g.domain a p.pa
  islandCheck c.s c.u a p.pa
  return p

/-- The same for a lane that an acquire may hold (R163): its frame stores are relaxed stores of the fibre (R258). -/
def laneFrame (c : Ctx) (ln : Lane) (id size : Nat) : Except Stop Page := do
  holdCheck c ln
  frameCheck c ln.f id size

/-- What a fibre stores to a frame: bytes at offsets of the translated address. -/
structure FrameStore where
  fibre : Nat
  page : Page
  pieces : List (Nat × List Byte)

/-- The slot of a frame on another die (R287). -/
def frameSlot (c : Ctx) (p : Page) : Option Nat :=
  match routeCheck c.s c.u c.g.domain p.pa p.pa with
  | .ok k => k
  | .error _ => none
/-- The packets of an execution's frame stores (R290). -/
def framePackets (c : Ctx) (l : List FrameStore) : List OutPacket :=
  packetsOf (l.flatMap fun x => match frameSlot c x.page with
    | none => []
    | some n => x.pieces.map fun p => (n, x.page.pa + p.1, p.2.length))
/-- The frame stores as parts cut at line boundaries. -/
def frameParts (c : Ctx) (l : List FrameStore) : List Part :=
  l.flatMap fun x => (x.pieces.flatMap fun p => cutLines (x.page.pa + p.1) p.2).map fun b =>
    { fibre := x.fibre, addr := b.1, size := b.2.length, data := b.2,
      page := some ((domainWho c.s c.u c.g.domain false).pasid, x.page.first, x.page.size) }
/-- The relaxed stores of an execution to its fibres' frames: requests in the package, fabric writes to another (R258, R409). -/
def writeFrames (c : Ctx) (s : State) (l : List FrameStore) : State :=
  let near := l.filter fun x => paPkg x.page.pa == s.pkg
  let far := l.filter fun x => paPkg x.page.pa != s.pkg
  let s1 := (groupBy (fun p : Part => lineOf p.addr) (frameParts c near)).foldl
    (fun s e => launchFlight s { id := 0, u := c.u, slot := c.slot, kind := .store, pa := 128 * e.1, parts := e.2, frame := true }) s
  sendWrites s1 c.u (keyOf s c.u c.g.domain) (framePackets c far)
    ((frameParts c far).flatMap fun p => p.data.zipIdx.map fun b => (p.addr + b.2, b.1))
/-- Charge the slots of an execution's frame stores, then go on with the stores issued (R290). -/
def withFrames (c : Ctx) (s : State) (ids : List Nat) (l : List FrameStore) (go : State → State) : State :=
  withCharge c s ids (needsOf (framePackets c l)) (fun s => go (writeFrames c s l)) (writesOf s c.u (framePackets c l))

/-- The bytes 0 to 18 of a frame header: RPC, FSTAT, MASK, BASE, PRED, STATE. -/
def frameHead (rpc : DWord) (fstat : Word) (mask base pred state : Nat) : List Byte :=
  leBytes 8 rpc.toNat ++ leBytes 4 fstat.toNat ++ leBytes 4 mask ++ leBytes 1 base ++ leBytes 1 pred ++ leBytes 1 state

/-- The live-in values of a frame, unused words zero. -/
def frameVals (vs : List Word) : List Byte :=
  (wordsBytes vs).take 64 ++ List.replicate (64 - (wordsBytes vs).length) 0

end Sys2Proof.Machine
end

