-- ==== Sys2Proof/Machine/Control.lean ====
section
/-! DEFINITION. Transfers of control (R321, R335 to R340, R399), traps (R336, R413), the save routine's return (R351), fibres
(R30 to R34, R353, R406), barriers (R44, R333, R334), restart regions (R258, R400), call gates (R252 to R256), YIELD (R389) and
COLRD (R343). -/

namespace Sys2Proof.Machine

/-! ## Branches -/

/-- The target of a format J instruction: PC + 4 × DISP, modulo 2^64 (R113). -/
def jTarget (c : Ctx) (o : OpJ) : DWord := BitVec.ofNat 64 (wrapNat (c.pc.toNat + 4 * o.disp.toInt) 64)

/-- Parcels of formats J, S and G. -/
def twoParcels : Nat := 2

/-- BRA (R337). -/
def execBra (o : OpJ) (s : State) : Answer :=
  .next <| runEff s o.g twoParcels false fun c ln => do
    transferCheck c ln.f (jTarget c o).toNat
    return { pc := some (jTarget c o) }

/-- BRX (R339). -/
def execBrx (o : OpU) (s : State) : Answer :=
  .next <| runEff s o.g 1 false fun c ln => do
    let t ← srcPair c ln.f false o.a
    transferCheck c ln.f t.toNat
    return { pc := some t }

/-- CALL (R340): with fewer than two allocated registers, DOMAIN of class 0 and index 1. -/
def execCall (o : OpJ) (s : State) : Answer :=
  .next <| runEff s o.g twoParcels false fun c ln => do
    if vecCount c.g ln.f < 2 then stopFault Cause.domain 1
    destsReady c ln.f 0 0 2
    transferCheck c ln.f (jTarget c o).toNat
    return { regs := destWrites true 0 0 (nextPc c.pc twoParcels), pc := some (jTarget c o) }

/-- RET (R399). -/
def execRet (o : OpN) (s : State) : Answer :=
  .next <| runEff s o.g 1 false fun c ln => do
    let t ← srcPairReg c ln.f 0 0 true
    transferCheck c ln.f t.toNat
    return { pc := some t }

/-- BCOL (R335): the allowance is read once for the execution. -/
def execBcol (o : OpJ) (s : State) : Answer :=
  .next <| runEff s o.g twoParcels false fun c ln => do
    let n := o.d.toNat % 64
    slotCheck c.s c.u (domainOf c.g ln.f) n
    let thr ← srcField c ln.f false o.a
    if (colWord c.s c.u n).toNat % 2 ^ 28 < thr.toNat then do
      transferCheck c ln.f (jTarget c o).toNat
      return { pc := some (jTarget c o) }
    else return {}

/-- COLRD (R343). -/
def execColrd (o : OpT) (s : State) : Answer :=
  .next <| runEff s o.g o.len o.du fun c ln => do
    let b ← srcB c ln.f o
    destReady c ln.f (clsOf o.du) o.d.toNat
    if b.toNat > 63 then stopFault Cause.domain (8 * 256 + b.toNat % 256)
    slotCheck c.s c.u (domainOf c.g ln.f) b.toNat
    return { regs := [(clsOf o.du, o.d.toNat, colWord c.s c.u b.toNat)] }

/-! ## Traps -/

/-- An instruction whose effect is to raise a cause in its active lanes. -/
def raise (s : State) (g : Guard) (len cause addr : Nat) : Answer :=
  .next <| runLanes s g len (fun _ _ => (stopFault cause addr : Except Stop Unit)) fun _ s _ => s

/-- BKPT (R336). -/
def execBkpt (o : OpN) (s : State) : Answer := raise s o.g 1 Cause.breakpoint 0
/-- TRAP (R413). -/
def execTrap (o : OpU) (s : State) : Answer := raise s o.g 1 Cause.userTrap o.d.toNat
/-- SYSCALL (R413). -/
def execSyscall (o : OpU) (s : State) : Answer := raise s o.g 1 Cause.syscall o.d.toNat

/-- YIELD (R389): no architectural effect; for the next 16 opportunities of its slot the issuing sheaf ranks behind its domain's
others. A core's opportunities number its four slots in turn (R233), so these are among the next 64. -/
def execYield (o : OpN) (s : State) : Answer :=
  .next <| runLanes s o.g 1 (fun _ _ => .ok ()) fun c s l =>
    l.foldl (fun s x => s.modFibre c.u c.slot x.1.id fun f => { f with yieldTo := (s.core c.u).opp + 64 }) s

/-! ## Barriers -/

/-- Every live fibre of a group waits at the barrier of the form (R44). -/
def allArrived (g : Group) (gang : Bool) : Bool :=
  (liveFibres g).all fun e => e.2.wait == some (.barrier gang)
/-- The places of the groups of a group's gang; a supervisor group is a gang of its own. -/
def gangPlaces (s : State) (u slot : Nat) (g : Group) : List (Nat × Nat) :=
  match g.task with
  | none => [(u, slot)]
  | some t =>
    match sget s.tasks t with
    | some k => if k.groups.isEmpty then [(u, slot)] else k.groups
    | none => [(u, slot)]
/-- The fibres waiting at a form of barrier go on after it. -/
def leaveBarrier (s : State) (gang : Bool) (p : Nat × Nat) : State :=
  s.modGroup p.1 p.2 fun g =>
    { g with fibres := g.fibres.map fun e =>
        if e.2.wait == some (.barrier gang) then (e.1, { e.2.ready (s.core p.1).opp with pc := nextPc e.2.pc 1 }) else e }

/-- Complete the barriers that every live fibre has reached (R44, R334). After BAR.gang, the acquire at .pkg drops the L copies
of the gang's cores (R363). -/
def settleBarriers (s : State) (u slot : Nat) : State :=
  match s.group u slot with
  | none => s
  | some g =>
    let s1 := if !(liveFibres g).isEmpty && allArrived g false then leaveBarrier s false (u, slot) else s
    let ps := gangPlaces s u slot g
    let here := ps.filterMap fun p => s.group p.1 p.2
    let waiting := here.any fun h => (liveFibres h).any fun e => e.2.wait == some (.barrier true)
    if waiting && here.all fun h => allArrived h true then
      ps.foldl (fun s p => (leaveBarrier s true p).modCore p.1 fun k => { k with lcopies := [] }) s1
    else s1

/-- BAR (R333): the release, then the arrival; the fibre waits at the instruction. -/
def barGeneral (g : Guard) (gang : Bool) (s : State) : Answer :=
  .next <| runLanes s g 1
    (fun c ln => do
      releaseCheck c ln (if gang then 4 else 2)
      if allReturned c.s c.u c.slot ln.id then return () else throw (Stop.block (.acquire 2)))
    fun c s l =>
      settleBarriers
        (l.foldl (fun s x => s.modFibre c.u c.slot x.1.id fun f => { f with wait := some (.barrier gang), pc := c.pc }) s) c.u c.slot

/-- BAR.grp (R333). -/
def execBarGrp (o : OpN) (s : State) : Answer := barGeneral o.g false s
/-- BAR.gang (R333). -/
def execBarGang (o : OpN) (s : State) : Answer := barGeneral o.g true s

/-! ## Arrivals at a migration (R280, R380) -/

/-- Every live fibre has arrived at a MIGR. -/
def migrArrived (g : Group) : Bool :=
  !(liveFibres g).isEmpty && (liveFibres g).all fun e => match e.2.wait with
    | some (.migrate _ _ _ _) => true
    | _ => false
/-- The effective homes that the arrived fibres name. -/
def migrHomes (g : Group) : List Nat := (liveFibres g).filterMap fun e => match e.2.wait with
  | some (.migrate _ h _ _) => some h
  | _ => none
/-- The arrived fibres go on after their MIGR, at the present opportunity of their core. -/
def migrRelease (opp : Nat) (g : Group) : Group :=
  { g with fibres := g.fibres.map fun e => match e.2.wait with
      | some (.migrate _ _ next _) => (e.1, { e.2.ready opp with pc := next })
      | _ => e }
/-- Every arrived fibre raises a cause at its MIGR, with its own address. -/
def migrFault (s : State) (u slot cause : Nat) : State :=
  match s.group u slot with
  | none => s
  | some g => g.fibres.foldl (fun s e => match e.2.wait with
    | some (.migrate a _ _ l) => s.takeFault u slot [e.1] e.1 l cause 0 a.toNat e.2.pc
    | _ => s) s
/-- The gang's landing slot on a die (R279). -/
def landingOn (s : State) (g : Group) (d : Nat) : Option (Nat × Nat) :=
  match g.task with
  | none => none
  | some t => match sget s.tasks t with
    | none => none
    | some k => k.landing.find? fun p => dieOf p.1 == d
/-- A group of the gang is on its way to a die, and occupies the landing slot there (R280). -/
def landingTaken (s : State) (g : Group) (d : Nat) : Bool :=
  match g.task with
  | none => false
  | some t => match sget s.tasks t with
    | none => false
    | some k => k.groups.any fun p => match s.group p.1 p.2 with
      | some h => h.st == .migrating d
      | none => false

/-- The last live fibre of a group has arrived: every fibre goes on, or raises MIGRATE, or the group begins to move (R280). -/
def settleMigr (s : State) (u slot : Nat) : State :=
  match s.group u slot with
  | none => s
  | some g =>
    if !(migrArrived g && g.canIssue) then s
    else
      match migrHomes g with
      | [] => s
      | h :: t =>
        if !(t.all (· == h)) then migrFault s u slot Cause.migrate
        else if (dieLost s (dieOf u)).testBit h then migrFault s u slot Cause.homeLost
        else if h = dieOf u then s.modGroup u slot (migrRelease (s.core u).opp)
        else if (landingOn s g h).isNone || landingTaken s g h then migrFault s u slot Cause.migrate
        else s.modGroup u slot fun g => { g with st := .migrating h }

/-! ## ERET -/

/-- ERET (R351): a fibre in its save routine stops, and the barriers and migrations of its group no longer wait for it; another
transfers to FPC in user mode. -/
def execEret (o : OpN) (s : State) : Answer :=
  .next <| runLanes s o.g 1
    (fun c ln => if ln.f.saving then .ok () else transferCheck c ln.f ln.f.fpc.toNat)
    fun c s l =>
      let s1 := l.foldl (fun s x => s.modFibre c.u c.slot x.1.id fun f =>
        if f.saving then { f with stopped := true } else { f with pc := alignPc f.fpc, sup := false }) s
      if l.any fun x => x.1.f.saving then settleMigr (settleBarriers s1 c.u c.slot) c.u c.slot else s1

/-! ## SPAWN and EXIT -/

/-- The place of a lane among the active lanes of its execution. -/
def activeRank (g : Guard) (c : Ctx) (ln : Lane) : Nat :=
  ((activeOf g (predFree g c.lanes)).takeWhile fun x => x.id != ln.id).length

/-- Create a fibre (R30, R406), with v0 := v, and its frame header (R258). It starts in user mode on an ordinary core, outside any
gate and in its group's domain, whatever its spawner's mode and gate: DESIGN CHOICE, since R29 and R30 leave out a spawner in
supervisor mode or inside a gate. -/
def spawnFibre (c : Ctx) (s : State) (id : Nat) (target : DWord) (v : Word) : State :=
  match s.group c.u c.slot with
  | none => s
  | some g =>
    let f := { freshFibre g id target (isSupCore c.u) (s.core c.u).opp with regs := [(0, { val := v })] }
    s.modGroup c.u c.slot fun h => { h with fibres := sset h.fibres id f }

/-- What SPAWN writes to the new fibre's frame (R258). -/
def spawnFrame (c : Ctx) (parent : Nat) (target : DWord) (v : Word) (page : Page) : FrameStore :=
  { fibre := parent, page := page
    pieces := if c.g.hdr.kframe ≥ 128 then [(0, frameHead target 0 1 0 0x80 1), (64, frameVals [v])]
      else [(0, frameHead target 0 0 0 0x80 1)] }

/-- A checked lane of SPAWN: vs, and the slot it receives with its frame's page. -/
abbrev SpawnLane := Word × Option (Nat × Option Page)
/-- The frame stores of a SPAWN. -/
def spawnFrames (c : Ctx) (target : DWord) (l : List (Lane × SpawnLane)) : List FrameStore :=
  l.filterMap fun x => match x.2.2 with
    | some (_, some p) => some (spawnFrame c x.1.id target x.2.1 p)
    | _ => none
/-- A lane of SPAWN writes vd, and creates the fibre whose slot it received. -/
def spawnLane (c : Ctx) (d : Nat) (target : DWord) (s : State) (x : Lane × SpawnLane) : State :=
  match x.2.2 with
  | none => s.writeReg c.u c.slot x.1.id 0 d 0xFFFFFFFF
  | some (id, _) => (spawnFibre c s id target x.2.1).writeReg c.u c.slot x.1.id 0 d (BitVec.ofNat 32 id)

/-- SPAWN (R406): the target, then the frame of a lane that receives a slot, then vs. When a lane must wait, the lanes of the rest are
issued again without it, so that free slots go lowest first to the lanes that run. -/
def execSpawn (o : OpJ) (s : State) : Answer :=
  .next <| runLanes s o.g twoParcels
    (fun c ln => do
      targetCheck c ln.f (jTarget c o).toNat
      let x ← match (freeSlots c.s c.u c.slot c.g)[activeRank o.g c ln]? with
        | none => pure none
        | some id =>
          if c.g.hdr.kframe = 0 then pure (some (id, none))
          else do
            let p ← laneFrame c ln id (Nat.min c.g.hdr.kframe 128)
            pure (some (id, some p))
      let v ← srcField c ln.f false o.a
      destReady c ln.f 0 o.d.toNat
      return (v, x))
    fun c s l =>
      if l.length < (activeOf o.g (predFree o.g c.lanes)).length then
        l.foldl (fun s x => s.rewind c.u c.slot x.1.id c.pc) s
      else withFrames c s (l.map (·.1.id)) (spawnFrames c (jTarget c o) l) fun s =>
        l.foldl (spawnLane c o.d.toNat (jTarget c o)) s

/-- The exits of `ids` would leave too few fibres able to sign an open set (R38). An exit of a fibre that has signed leaves U as it is;
where U is below E − S already, it raises CONV_SHORT all the same: DESIGN CHOICE, a reading of R353's 'the exits would make U < E - S'. -/
def convShort (g : Group) (ids : List Nat) : Option Nat :=
  ((g.convs.filter fun e => !e.2.signers.isEmpty &&
    ((liveFibres g).filter fun f => !f.2.signs.getLsbD e.1 && !ids.contains f.1).length < e.2.e - e.2.signers.length).map
      (·.1)).head?

/-- The task of a group whose drain still covers what the group issues (R235, R417). -/
def drainTask (s : State) (u slot : Nat) : Option Nat :=
  match s.group u slot with
  | none => none
  | some g => match g.task with
    | none => none
    | some t => match sget s.tasks t with
      | some k => if k.tdone then none else some t
      | none => none

/-- A fibre ends (R33): requests it issued no longer name it, its WCT stays with the group (R235), and a group with no fibre left
is ending (R41). -/
def endFibre (s : State) (u slot id : Nat) : State :=
  let gone := 4096 + id
  let s1 := { s with flights := s.flights.map fun (x : Flight) =>
    if x.u == u && x.slot == slot then
      { x with
        task := if x.task.isNone && x.parts.any (fun (p : Part) => p.fibre == id) then drainTask s u slot else x.task
        parts := x.parts.map fun (p : Part) => if p.fibre == id then { p with fibre := gone } else p }
    else x }
  let entry := fun (m : MEntry) =>
    if m.slot == slot then { m with members := m.members.map fun i => if i == id then gone else i } else m
  let copy := fun (x : Copy) =>
    if x.slot == slot then
      { x with lanes := x.lanes.map fun (l : CopyLane) => if l.fibre == id then { l with fibre := gone } else l }
    else x
  (s1.modCore u fun c => { c with queue := c.queue.map entry, running := c.running.map entry,
                                  transfers := c.transfers.map entry, copies := c.copies.map copy }).modGroup u slot fun g =>
    let fs := sdel g.fibres id
    { g with
      fibres := fs
      wct := Nat.max g.wct (match sget g.fibres id with
        | some f => f.wct
        | none => 0)
      convs := g.convs.map fun (e : Nat × Conv) => if owesRegister e.2 then e else
        (e.1, { e.2 with signers := e.2.signers.map fun (m : Signer) => if m.fibre == id then { m with fibre := gone } else m })
      st := if fs.isEmpty then .ending else g.st }

/-- What EXIT writes to the fibres' frames: STATE = 2 (R258). -/
def exitFrames (l : List (Lane × Option Page)) : List FrameStore :=
  l.filterMap fun x => x.2.map fun p => { fibre := x.1.id, page := p, pieces := [(18, [2])] }

/-- EXIT (R353). -/
def execExit (o : OpN) (s : State) : Answer :=
  .next <| runLanes s o.g 1
    (fun c ln => do
      let ids := (activeOf o.g (predFree o.g c.lanes)).map (·.id)
      match convShort c.g ids with
      | some ci => stopFault Cause.convShort ci
      | none =>
        if c.g.hdr.kframe = 0 then return none
        else do
          let p ← laneFrame c ln ln.id 64
          return some p)
    fun c s l => withFrames c s (l.map (·.1.id)) (exitFrames l) fun s =>
      settleMigr (settleBarriers (l.foldl (fun s x => endFibre s c.u c.slot x.1.id) s) c.u c.slot) c.u c.slot

/-! ## RGN (R258, R400) -/

/-- The live-in registers of an RGN in increasing order. -/
def liveIns (o : OpG) : List Nat := ((List.range 32).filter fun i => o.mask.getLsbD i).map (o.base.toNat + ·)

/-- The live-ins, each read with its wait bit set. -/
def readLiveIns (c : Ctx) (f : Fibre) : List Nat → Except Stop (List Word)
  | [] => .ok []
  | r :: t => do
    let v ← srcReg c f 0 r true
    let vs ← readLiveIns c f t
    return v :: vs

/-- The fibre's predicate word, none of it pending for a VOTE (R54). -/
def predsReady (f : Fibre) : Except Stop Unit :=
  match (List.range 8).find? fun n => f.predPend.getLsbD n with
  | some n => .error (.block (.pred n))
  | none => .ok ()

/-- What RGN writes to a lane's frame: VALS, MASK, BASE, PRED, FSTAT, RPC and STATE = 1 (R258). -/
def rgnFrame (o : OpG) (c : Ctx) (x : Lane × List Word × Page) : FrameStore :=
  { fibre := x.1.id, page := x.2.2
    pieces := [(0, frameHead (nextPc c.pc twoParcels) (fstatWord x.1.f) o.mask.toNat o.base.toNat (x.1.f.preds ||| 0x80).toNat 1),
      (64, frameVals x.2.1)] }

/-- RGN. It reads the whole predicate word, and so waits for a predicate that is pending for a VOTE (R54). -/
def execRgn (o : OpG) (s : State) : Answer :=
  .next <| runLanes s o.g twoParcels
    (fun c ln => do
      let vs ← readLiveIns c ln.f (liveIns o)
      if c.g.hdr.kframe < 128 || ln.f.gate.isSome then stopFault Cause.domain (10 * 256 + o.base.toNat)
      let p ← laneFrame c ln ln.id 128
      predsReady ln.f
      return (vs, p))
    fun c s l => withFrames c s (l.map (·.1.id)) (l.map (rgnFrame o c)) id

/-! ## Call gates (R252 to R256) -/

/-- A call to Fault(GATE) with a sub-code. -/
def gateFault {α : Type} (sub num : Nat) : Except Stop α := .error (.fault Cause.gate sub num)

/-- What a GCALL found. -/
structure GateCall where
  num : Nat
  entry : DWord
  tdom : Nat
  tset : Nat
  nres : Nat
  gregs : Nat
  args : List Word

/-- GATE of a GCALL: its literal. -/
def gateNum (o : OpT) : Nat :=
  match o.lit with
  | some l => l.toNat
  | none => 0
/-- The gate descriptor of a GCALL: its page and its address (R252, R253). -/
def gatePage (o : OpT) (c : Ctx) (ln : Lane) : Except Stop (Page × Nat) := do
  let dom := domainOf c.g ln.f
  if isSupCore c.u || gateNum o ≥ domField c.s (dieOf c.u) dom 48 2 then gateFault 1 (gateNum o)
  let who := { whoOf c.s c.u c.g ln.f with sup := true }
  let va := wrapNat (domField c.s (dieOf c.u) dom 40 8 + 32 * gateNum o : Nat) 64
  let p ← translate c.s c.u who va .load 32
  let _ ← routeCheck c.s c.u dom va p.pa
  islandCheck c.s c.u va p.pa
  return (p, va)
/-- The checks of GCALL (R253, R256). A descriptor in a line that carries poison raises MACHINE_CHECK: DESIGN CHOICE, see the log. A gate
entry whose line's fetch would fault is entered unchecked, as at a branch (R321): DESIGN CHOICE, since R321 names the branches alone. -/
def gcallCheck (o : OpT) (c : Ctx) (ln : Lane) : Except Stop GateCall := do
  let n := o.c.toNat % 16
  let g := gateNum o
  let (p, va) ← gatePage o c ln
  if isPoisoned c.s p.pa then stopFault Cause.machineCheck va
  let b := paBytes c.s p.pa 32
  let at_ := fun i k => ofLe ((b.drop i).take k)
  if at_ 12 1 % 2 = 0 || at_ 12 1 / 2 != 0 || !((b.drop 13).all (· == 0)) then gateFault 1 g
  if n > at_ 9 1 then gateFault 2 g
  if ln.f.gate.isSome then gateFault 3 g
  if o.d.toNat + n > vecCount c.g ln.f then stopFault Cause.domain o.d.toNat
  match dpartOf c.s c.u (at_ 8 1) with
  | none => stopFault Cause.domain (9 * 256 + g % 256)
  | some (set, _) => do
    let args ← srcRegs c ln.f 0 o.d.toNat true n
    if !((c.s.core c.u).returns.all fun r => !(r.slot == c.slot && r.fibre == ln.id)) then throw (Stop.block (.acquire 1))
    let inside : Gate := { ret := 0, callPc := 0, vd := 0, nres := 0, num := g, tdom := at_ 8 1, tset := set, gregs := at_ 11 1,
                           base := 0, callerRegs := [], callerBase := 0 }
    transferCheck c { ln.f with gate := some inside } (at_ 0 8)
    return { num := g, entry := BitVec.ofNat 64 (at_ 0 8), tdom := at_ 8 1, tset := set, nres := at_ 10 1, gregs := at_ 11 1,
             args := args }

/-- Enter a gate: reserve its window, or wait while none is free. The target's code finds the predicates clear and FSTAT as a fresh
fibre has it: no value of the caller's domain is read in any register class (R58). -/
def enterGate (o : OpT) (c : Ctx) (s : State) (ln : Lane) (x : GateCall) : SignEnd :=
  match dpartOf s c.u x.tdom with
  | none => .block (.gateWindow x.tdom)
  | some (_, p) =>
    match findRun (vecHeld (s.core c.u)) p.vbase p.vgran (x.gregs / 8) with
    | none => .block (.gateWindow x.tdom)
    | some base =>
      .done (s.modFibre c.u c.slot ln.id fun f =>
        { f with
          gate := some { ret := nextPc c.pc o.len, callPc := c.pc, vd := o.d.toNat, nres := x.nres, num := x.num, tdom := x.tdom,
                         tset := x.tset, gregs := x.gregs, base := base, callerRegs := f.regs, callerBase := f.windowBase,
                         callerPreds := f.preds, callerPend := f.predPend, callerFlags := f.flags, callerFtz := f.ftz }
          regs := x.args.zipIdx.map fun a => (a.2, { val := a.1 })
          preds := 0x80, predPend := 0, flags := 0, ftz := false
          windowBase := 8 * base
          pc := alignPc x.entry })

/-- The gate descriptors that the lanes of a GCALL read, whether or not they allow the call: their lines are read (R155, R156). -/
def noteGates (o : OpT) (s : State) : State :=
  match s.ctx with
  | none => s
  | some c => (activeOf o.g (predFree o.g c.lanes)).foldl (fun s ln => match gatePage o c ln with
    | .ok (p, _) => readLine s p.pa (classOf s c.u (domainOf c.g ln.f))
    | .error _ => s) s
/-- GCALL (R253). -/
def execGcall (o : OpT) (s : State) : Answer :=
  .next <| runLanes (noteGates o s) o.g o.len (gcallCheck o) (commitSign (enterGate o))

/-- Leave a gate: the caller's registers, predicates and FSTAT come back, as they were before the GCALL (R255, R256). -/
def leaveGate (f : Fibre) (t : Gate) (pc : DWord) : Fibre :=
  { f with gate := none, regs := t.callerRegs, windowBase := t.callerBase, pc := pc, preds := t.callerPreds,
           predPend := t.callerPend, flags := t.callerFlags, ftz := t.callerFtz }

/-- The caller's registers vd upwards, to which a GRET brings its results, are owed by no earlier producer (R56). -/
def callerReady (f : Fibre) (t : Gate) : Except Stop Unit :=
  match (List.range t.nres).find? fun i => (f.ownReg (t.vd + i)).pending with
  | some i => .error (.block (.callerReg (t.vd + i)))
  | none => .ok ()

/-- GRET (R255). A return to a line whose fetch would fault is made unchecked, as at a branch (R321): DESIGN CHOICE, since R321 names the
branches alone. -/
def execGret (o : OpN) (s : State) : Answer :=
  .next <| runLanes s o.g 1
    (fun c ln => do
      match ln.f.gate with
      | none => gateFault 3 0
      | some t => do
        let vs ← srcRegs c ln.f 0 0 true t.nres
        if t.vd + t.nres > granules8 c.g.hdr.kregs then stopFault Cause.domain t.vd
        callerReady ln.f t
        if !((c.s.core c.u).returns.all fun r => !(r.slot == c.slot && r.fibre == ln.id)) then throw (Stop.block (.acquire 1))
        transferCheck c (leaveGate ln.f t t.ret) t.ret.toNat
        return (t, vs))
    fun c s l => l.foldl (fun s x =>
      (s.forgetWindow c.u c.slot x.1.id).modFibre c.u c.slot x.1.id fun f =>
        x.2.2.zipIdx.foldl (fun f v => { f with regs := sset f.regs (x.2.1.vd + v.2) { val := v.1 } })
          (leaveGate f x.2.1 x.2.1.ret)) s

/-- Cancel the open record that stopped a fibre. -/
def dropFibreRecord (s : State) (u slot id : Nat) : State :=
  s.modDie (dieOf u) fun d => { d with records := d.records.filter fun r => !(r.u == u && r.slot == slot && r.fibres.contains id) }

/-- A call through a gate is aborted (R256): the fibre is at its GCALL again, as it was before it. Requests it made inside are
owed to nothing, and a record that stopped it inside is cancelled (R265). -/
def unwindGate (s : State) (u slot id : Nat) : State :=
  match s.fibre u slot id with
  | some f =>
    match f.gate with
    | some t =>
      (((dropFibreRecord s u slot id).forgetWindow u slot id).modCore u fun c =>
        { c with returns := c.returns.filter fun r => !(r.slot == slot && r.fibre == id) }).modFibre u slot id
        fun f => { (leaveGate f t t.callPc).ready (s.core u).opp with faulted := false }
    | none => s
  | none => s

/-- The aborted caller faults with sub-code 4 at its GCALL (R256). -/
def abortGate (s : State) (u slot id : Nat) : State :=
  match s.fibre u slot id with
  | some f =>
    match f.gate with
    | some t => (unwindGate s u slot id).takeFault u slot [id] id 0 Cause.gate 4 t.num t.callPc
    | none => s
  | none => s

/-! ## The target lines of transfers (R321) -/

/-- A lane's transfer target, as far as its registers give one, with the fibre as it will fetch there. -/
def laneTarget (c : Ctx) (ln : Lane) (i : Instr) : Option (Fibre × Nat) :=
  let given := fun (x : Except Stop DWord) => match x with
    | .ok t => some (ln.f, t.toNat)
    | .error _ => none
  match i with
  | .bra o | .call o | .spawn o => some (ln.f, (jTarget c o).toNat)
  | .bcol o => match srcField c ln.f false o.a with
    | .ok thr => if (colWord c.s c.u (o.d.toNat % 64)).toNat % 2 ^ 28 < thr.toNat then some (ln.f, (jTarget c o).toNat) else none
    | .error _ => none
  | .brx o => given (srcPair c ln.f false o.a)
  | .ret _ => given (srcPairReg c ln.f 0 0 true)
  | .eret _ => if ln.f.saving then none else some (ln.f, ln.f.fpc.toNat)
  | .gret _ => ln.f.gate.map fun t => (leaveGate ln.f t t.ret, t.ret.toNat)
  | .gcall o => match gcallCheck o c ln with
    | .ok x => some ({ ln.f with gate := some { ret := 0, callPc := 0, vd := 0, nres := 0, num := x.num, tdom := x.tdom, tset := x.tset,
                                                gregs := x.gregs, base := 0, callerRegs := [], callerBase := 0 } }, x.entry.toNat)
    | .error _ => none
  | _ => none
/-- The guard of an instruction that transfers control. -/
def transferGuard (i : Instr) : Option Guard :=
  match i with
  | .bra o | .call o | .spawn o | .bcol o => some o.g
  | .brx o => some o.g
  | .ret o | .eret o | .gret o => some o.g
  | .gcall o => some o.g
  | _ => none
/-- The lines of the targets that an execution checks are in the core's instruction cache (R321). -/
def State.fetchTargets (s : State) (i : Instr) : State :=
  match transferGuard i, s.ctx with
  | some gd, some c => (activeOf gd (predFree gd c.lanes)).foldl (fun s ln => match laneTarget c ln i with
    | some (f, va) => fetchTarget s c.u c.g f va
    | none => s) s
  | _, _ => s
/-- The state in which a fetched instruction is executed: its registers' granules are awake (R59), and its targets' lines fetched. -/
def State.readied (s : State) (i : Instr) : State := (s.wakeFor i).fetchTargets i

end Sys2Proof.Machine
end

