-- ==== Sys2Proof/Machine/Counters.lean ====
section
/-! DEFINITION. Dependence counters (R223, R226, R346): their counts, the tasks parked on them, and DCINIT, DCADD and DCWAIT. -/

namespace Sys2Proof.Machine

/-- A counter of a die; one that nothing has set is zero. -/
def counterOf (s : State) (d id : Nat) : Counter := sgetD (s.die d).counters id {}
def setCounter (s : State) (d id : Nat) (c : Counter) : State :=
  s.modDie d fun x => { x with counters := sset x.counters id c }

/-- Change a task. -/
def modTask (s : State) (t : Nat) (f : Task → Task) : State := { s with tasks := smod s.tasks t f }

/-- A task becomes READY at the end of its queue and level (R226, R227). -/
def readyTask (s : State) (t now : Nat) : State :=
  { modTask s t (fun k => { k with st := .ready, readyAt := now, seq := s.nextId, failedAt := none, hintAt := none }) with
    nextId := s.nextId + 1 }

/-- A group's fibres that wait in DCWAIT on the counter go on after it. -/
def wakeCounter (id opp : Nat) (g : Group) : Group :=
  { g with fibres := g.fibres.map fun e => match e.2.wait with
      | some (.counter k next) => if k = id then (e.1, { e.2.ready opp with pc := next }) else e
      | _ => e }

/-- The acquire at .pkg of a core: it drops every leased copy (R363). -/
def acquirePkg (s : State) (u : Nat) : State := s.modCore u fun c => { c with lcopies := [] }

/-- Some fibre of a core waits in DCWAIT on a counter. -/
def coreWaits (id : Nat) (c : Core) : Bool :=
  c.slots.any fun g => g.2.fibres.any fun f => match f.2.wait with
    | some (.counter k _) => k == id
    | _ => false

/-- A count that has come to zero: parked tasks become ready in the order in which they parked, each with the counter's record
of completions (R226, R236), and the waiting DCWAITs of the die go on, with their acquire (R346). -/
def counterZero (s : State) (d id : Nat) : State :=
  let c := counterOf s d id
  let s1 := c.parked.foldl (fun s t =>
    modTask (readyTask s t (s.now d)) t fun k => { k with startWct := c.recWct, startMask := c.recDies }) s
  let s2 := setCounter s1 d id { c with parked := [] }
  { s2 with cores := s2.cores.map fun e =>
      if dieOf e.1 = d && coreWaits id e.2 then
        (e.1, { e.2 with slots := e.2.slots.map (fun g => (g.1, wakeCounter id e.2.opp g.2)), lcopies := [] })
      else e }

/-- DCADD of a signed delta (R346). -/
def counterAdd (s : State) (d id : Nat) (delta : Int) : State :=
  let c := counterOf s d id
  let new : Int := c.count + delta
  let c1 := if new < 0 then { c with count := 0, underBit := true }
    else if new > 16777215 then { c with count := 16777215, overBit := true }
    else { c with count := new.toNat }
  let s1 := setCounter s d id c1
  if c.count != 0 && c1.count == 0 then counterZero s1 d id else s1

/-- A decrement by one: of a copy lane or of a task (R226). -/
def counterDec (s : State) (d id : Nat) : State := counterAdd s d id (-1)

/-- A task's decrement, which enters the record of completions first (R235). -/
def counterTaskDec (s : State) (d id wct : Nat) (dies : BitVec 8) : State :=
  let c := counterOf s d id
  counterDec (setCounter s d id { c with recWct := Nat.max c.recWct wct, recDies := c.recDies ||| dies }) d id

/-- The owner word of a counter block (R152, R223). -/
def counterOwned (s : State) (d dom id : Nat) : Bool :=
  let e := (s.die d).num (0x6000300000 + 4 * (id / 64)) 4
  e.testBit 31 && e % 256 == dom

/-- The counter check of CPY and of the DC instructions (R208, R346). A supervisor group carries no domain (R12). -/
def counterCheck (c : Ctx) (f : Fibre) (id : Nat) : Except Stop Unit :=
  if id ≥ 65536 || !(isSupCore c.u || counterOwned c.s (dieOf c.u) (domainOf c.g f) id) then
    stopFault Cause.domain (6 * 256 + id % 256)
  else .ok ()

/-- DCINIT (R346). -/
def execDcinit (o : OpT) (s : State) : Answer :=
  .next <| runLanes s o.g o.len
    (fun c ln => do
      let id ← srcA c ln.f o
      let v ← srcB c ln.f o
      counterCheck c ln.f id.toNat
      return (id.toNat, v.toNat % 2 ^ 24))
    fun c s l => l.foldl (fun s x =>
      let d := dieOf c.u
      let s1 := setCounter s d x.2.1 { (counterOf s d x.2.1) with
        count := x.2.2, underBit := false, overBit := false, recWct := 0, recDies := 0 }
      if x.2.2 = 0 then counterZero s1 d x.2.1 else s1) s

/-- DCADD (R346): the release at .pkg first. -/
def execDcadd (o : OpT) (s : State) : Answer :=
  .next <| runLanes s o.g o.len
    (fun c ln => do
      let id ← srcA c ln.f o
      let v ← srcB c ln.f o
      counterCheck c ln.f id.toNat
      releaseCheck c ln 4
      return (id.toNat, v.toInt))
    fun c s l => l.foldl (fun s x => counterAdd s (dieOf c.u) x.2.1 x.2.2) s

/-- DCWAIT (R346): a lane that finds zero goes on at once, with its acquire at .pkg; another waits until the count has been zero. The
acquire does not wait for the fibre's earlier loads. DEDUCED, see the log. -/
def execDcwait (o : OpT) (s : State) : Answer :=
  .next <| runLanes s o.g o.len
    (fun c ln => do
      let id ← srcA c ln.f o
      counterCheck c ln.f id.toNat
      if (counterOf c.s (dieOf c.u) id.toNat).count ≠ 0 then throw (Stop.block (.counter id.toNat (nextPc c.pc o.len)))
      return ())
    fun c s _ => acquirePkg s c.u

end Sys2Proof.Machine
end

