-- ==== Sys2Proof/Machine/Copies.lean ====
section
/-! DEFINITION. The copy engine: the range-lock table (R209, R210), CPY (R206 to R208), circular buffers (R141, R142, R212 to
R214), and the completion of copies (R211, R216). -/

namespace Sys2Proof.Machine

/-! ## The range-lock table -/

/-- Put a line into a rising list without repeats. -/
def insertLine (l : Nat) : List Nat → List Nat
  | [] => [l]
  | x :: t => if l < x then l :: x :: t else if l = x then x :: t else x :: insertLine l t
/-- The lines of several spans, rising and without repeats. -/
def linesOf (spans : List (Nat × Nat)) : List Nat :=
  spans.foldl (fun m e => (spanLines e.1 e.2).foldl (fun m l => insertLine l m) m) []

/-- The entries that cover rising lines, 32 consecutive lines each; `limit` is the end of the entry being filled. -/
def coverLines : Nat → List Nat → Nat
  | _, [] => 0
  | limit, l :: t => if l < limit then coverLines limit t else 1 + coverLines (l + 32) t

/-- A lock set: space (0 global, 1 scratchpad), destination or source, lines (R209). -/
abbrev LockSet := List (Nat × Bool × List Nat)

/-- The entries a lock set takes, at most 64 (R210). -/
def lockNeed (ls : LockSet) : Nat := Nat.min 64 ((ls.map fun e => coverLines 0 e.2.2).foldl (· + ·) 0)
/-- Entries held on a core, by one domain or by all. -/
def entriesHeld (c : Core) (dom : Option Nat) : Nat :=
  ((c.locks.filter fun k => match dom with
    | some d => k.domain == d
    | none => true).map (·.entries)).foldl (· + ·) 0
/-- The destination lines in DSM of a copy's open lanes. -/
def dsmLines (x : Copy) : Nat :=
  if x.space = 2 then (linesOf ((x.lanes.filter fun l => !l.done).map fun l => (l.dstPa, x.n))).length else 0
/-- Requests that a core has outstanding (R210): the line transfers of its engines, which the locks of global lines and the copies'
lines in DSM name, and the requests of its fibres. -/
def openLines (s : State) (u : Nat) : Nat :=
  let c := s.core u
  (((c.locks.filter fun k => k.space == 0).map fun k => k.lines.length) ++
    (c.copies.filter (·.registered)).map dsmLines).foldl (· + ·) 0 +
  (s.flights.filter fun f => f.u == u && f.origin == .fibre).length
/-- The share of a domain's set (R240); a supervisor group has none (R12). -/
def lockShare (s : State) (u dom : Nat) : Nat :=
  if isSupCore u then 64
  else match dpartOf s u dom with
    | some e => 4 * (e.2.csh + 1)
    | none => 4

/-- An execution is short of entries or of line transfers (R210); `more` counts lines that it does not lock. -/
def lockShort (s : State) (u dom : Nat) (ls : LockSet) (more : Nat := 0) : Bool :=
  let c := s.core u
  let need := lockNeed ls
  let mine := entriesHeld c (some dom)
  let share := lockShare s u dom
  let lines := ((ls.filter fun e => e.1 == 0).map fun e => e.2.2.length).foldl (· + ·) 0
  need != 0 &&
    (entriesHeld c none + need > 64 || (if need > share then mine != 0 else decide (mine + need > share)) ||
      openLines s u + lines + more > 1024)

/-- Give each part of a lock set its entries, out of at most `budget`. -/
def lockRecords (owner dom slot : Nat) : Nat → LockSet → List Lock
  | _, [] => []
  | budget, (space, dest, lines) :: t =>
    let n := Nat.min budget (coverLines 0 lines)
    { owner := owner, domain := dom, slot := slot, space := space, dest := dest, lines := lines, entries := n } ::
      lockRecords owner dom slot (budget - n) t

/-- Take the locks of an execution. -/
def takeLocks (s : State) (u owner dom slot : Nat) (ls : LockSet) : State :=
  s.modCore u fun c => { c with locks := c.locks ++ lockRecords owner dom slot 64 (ls.filter fun e => !e.2.2.isEmpty) }
/-- Release the locks of an execution. -/
def dropLocks (s : State) (u owner : Nat) : State :=
  s.modCore u fun c => { c with locks := c.locks.filter fun k => k.owner != owner }

/-- A line of a span is locked for the domain; `destOnly` looks at destination locks alone. -/
def spanLocked (s : State) (u dom slot space a size : Nat) (destOnly : Bool) : Bool :=
  (s.core u).locks.any fun k =>
    (k.dest || !destOnly) && k.covers dom slot space && (spanLines a size).any fun l => k.lines.contains l

/-! ## CPY -/

/-- A checked lane of a copy. -/
structure CpLane where
  src : Nat
  srcT : Target
  dst : Nat
  dstT : Option Target
  ctr : Nat

/-- Every page format: a copy moves bytes whatever the format (R83). -/
def anyFmt : List Nat := List.range 16

/-- The source address of CPY: base and offset (R112). -/
def cpySource (o : OpM) (c : Ctx) (f : Fibre) : Except Stop Nat :=
  if o.space = 0 then addr32 c f o (2 ^ o.size.toNat) else addr64 c f o (2 ^ o.size.toNat)
/-- ProbeSrc (R208). -/
def probeSrc (o : OpM) (c : Ctx) (f : Fibre) (a : Nat) : Except Stop Target :=
  if o.space = 0 then targetSp c f a (2 ^ o.size.toNat) false else targetG c f a (2 ^ o.size.toNat) .load false anyFmt
/-- ProbeDst (R208). -/
def probeDst (o : OpM) (c : Ctx) (f : Fibre) (a : Nat) : Except Stop Target :=
  if o.space = 2 then targetDs c f a (2 ^ o.size.toNat) false true
  else targetOf c f o.space a (2 ^ o.size.toNat) .store false anyFmt

/-- The destination address of CPY. -/
def cpyDestAddr (o : OpM) (c : Ctx) (f : Fibre) : Except Stop Nat :=
  if o.space = 0 then do
    let v ← srcPair c f o.ub o.b
    return v.toNat
  else do
    let v ← srcField c f o.ub o.b
    return v.toNat

/-- The first loop of R208: the three operands, then the probes and the counter check. -/
def cpyProbe (o : OpM) (c : Ctx) (ln : Lane) : Except Stop CpLane := do
  holdCheck c ln
  let src ← cpySource o c ln.f
  let dst ← cpyDestAddr o c ln.f
  let k ← srcReg c ln.f 0 o.d.toNat true
  let st ← probeSrc o c ln.f src
  let dt ← probeDst o c ln.f dst
  if k ≠ 0xFFFFFFFF then counterCheck c ln.f k.toNat
  return { src := src, srcT := st, dst := dst, dstT := some dt, ctr := k.toNat }

/-- No lane of the execution faults in the first loop. -/
def probesPass {α : Type} (g : Guard) (c : Ctx) (probe : Ctx → Lane → Except Stop α) : Bool :=
  (activeOf g (predFree g c.lanes)).all fun ln => match probe c ln with
    | .error (.fault _ _ _) => false
    | _ => true

/-- The checks of CPY: the lock check of the second loop comes after every lane's first loop (R208). -/
def cpyCheck (o : OpM) (c : Ctx) (ln : Lane) : Except Stop CpLane := do
  let n := 2 ^ o.size.toNat
  let x ← cpyProbe o c ln
  let dom := domainOf c.g ln.f
  let srcSpace := if o.space = 0 then 1 else 0
  if probesPass o.g c (cpyProbe o) then
    if o.space ≠ 2 && (spanLocked c.s c.u dom c.slot o.space.toNat x.dst n false ||
        (o.space = 1 && blockHit c.s c.u c.slot x.dst n)) then stopFault Cause.rangeLock x.dst
    if spanLocked c.s c.u dom c.slot srcSpace x.src n true then stopFault Cause.rangeLock x.src
  return x

/-- The lock set of an execution (R209). -/
def copyLockSet (space n : Nat) (ls : List CopyLane) : LockSet :=
  let srcs := linesOf (ls.map fun l => (l.src, n))
  let dsts := linesOf (ls.map fun l => (l.dst, n))
  (if space = 0 then 1 else 0, false, srcs) :: (if space < 2 then [(space, true, dsts)] else [])

/-- The packets of a copy's writes to other dies (R287, R290). -/
def copyPackets (n : Nat) (ls : List CopyLane) : List OutPacket :=
  packetsOf (ls.filterMap fun l => l.dstSlot.map fun k => (k, l.dstPa, n))
/-- The lines of a copy to another package join their slots' epochs, and are counted there, as the copy issues (R403). -/
def joinCopy (s : State) (u : Nat) (x : Copy) : State × List CopyLane :=
  (copyPackets x.n (x.lanes.filter fun l => paPkg l.dstPa != s.pkg)).foldl (fun r p =>
    let mine := fun (l : CopyLane) => l.dstSlot == some p.slot && lineOf l.dstPa == p.line
    let key := ((r.2.find? mine).map (·.key)).getD 0
    let s1 := joinEpoch r.1 u p.slot key p.bytes.length
    (s1, r.2.map fun l => if mine l then { l with epoch := some (slotEpoch s1 u p.slot) } else l)) (s, x.lanes)

/-- Register a copy: its locks are taken and its transfers queued (R208). -/
def registerCopy (s : State) (u : Nat) (x : Copy) : State :=
  let r := joinCopy s u x
  noteShared ((takeLocks r.1 u x.id x.domain x.slot x.locks).modCore u fun c =>
    { c with copies := c.copies ++ [{ x with lanes := r.2, registered := true }] }) u

/-- Start an execution's copy: charge and register it, or let its fibres wait at the instruction (R208, R210, R290). -/
def startCopy (c : Ctx) (s : State) (len : Nat) (x : Copy) : State :=
  let ids := x.lanes.map (·.fibre)
  let y := { x with id := s.nextId, next := nextPc c.pc len }
  let s1 := { s with nextId := s.nextId + 1 }
  if lockShort s c.u x.domain x.locks (dsmLines x) then
    ids.foldl (fun s id => (s.rewind c.u c.slot id c.pc).block c id .copyRoom)
      (s1.modCore c.u fun k => { k with copies := k.copies ++ [{ y with registered := false }] })
  else
    withCharge c s1 ids (needsOf (copyPackets x.n x.lanes)) (fun s => registerCopy s c.u y)
      (writesOf s1 c.u (copyPackets x.n x.lanes))

/-- CPY (R208, R345). -/
def execCpy (o : OpM) (s : State) : Answer :=
  .next <| runLanes s o.g o.len (cpyCheck o) fun c s l =>
    let n := 2 ^ o.size.toNat
    let lanes : List CopyLane := l.map fun x =>
      { fibre := x.1.id, src := x.2.src, dst := x.2.dst, ctr := x.2.ctr
        srcPa := if o.space = 0 then 0 else x.2.srcT.pa s
        dstPa := if o.space = 1 then 0 else (x.2.dstT.map (·.pa s)).getD 0
        srcSlot := x.2.srcT.slot
        dstSlot := x.2.dstT.bind (·.slot)
        key := keyFor c [x.1] }
    let dom := match l with
      | [] => 0
      | x :: _ => domainOf c.g x.1.f
    startCopy c s o.len
      { id := 0, slot := c.slot, domain := dom, n := n, space := o.space.toNat, lanes := lanes,
        locks := copyLockSet o.space.toNat n lanes }

/-- A lane's source or destination lies in an island that has closed (R16). -/
def laneClosed (s : State) (u : Nat) (x : Copy) (l : CopyLane) : Bool :=
  (x.space != 0 && islandClosed s u l.srcPa) || ((x.space == 0 || x.space == 2) && islandClosed s u l.dstPa)
/-- COPY_REGISTER (R210): an execution that waits takes its entries as soon as there are enough of them, and its fibres go on.
When its slots' allowance has fallen short meanwhile, nothing is registered and the group waits for it. When an island that it names
has closed, its fibres issue the copy again, and it raises ISLAND_OFFLINE there (R16). -/
def execCopyRegister (u idx : Nat) (s : State) : Answer :=
  .next <| match ((s.core u).copies.filter fun x => !x.registered)[idx]? with
    | none => s
    | some x =>
      if lockShort s u x.domain x.locks (dsmLines x) then s
      else
        let s1 := s.modCore u fun c => { c with copies := c.copies.filter fun y => y.id != x.id }
        let ids := x.lanes.map (·.fibre)
        let wake := fun (s : State) (go : Bool) => s.modGroup u x.slot fun g =>
          { g with fibres := g.fibres.map fun e =>
              if ids.contains e.1 && e.2.wait == some .copyRoom then
                (e.1, { e.2.ready (s.core u).opp with pc := if go then x.next else e.2.pc })
              else e }
        let ps := copyPackets x.n x.lanes
        if x.lanes.any (laneClosed s u x) then wake s1 false
        else match shortSlot s u (needsOf ps) (writesOf s u ps) with
        | some (n, need) => enterColwait (wake s1 false) u x.slot n need (slotDomain s u n)
        | none => registerCopy (chargeSlots (wake s1 true) u (needsOf ps)) u x

/-! ## Circular buffers -/

/-- A control block (R141). -/
structure CbBlock where
  base : Nat
  slotSz : Nat
  nslot : Nat
  free : Nat
  filled : Nat
  head : Nat
  tail : Nat
  reservedZero : Bool

/-- Read the block at a scratchpad offset. -/
def cbBlock (g : Group) (a : Nat) : CbBlock :=
  let b := bytesGet g.scratch a 32
  let n := fun off k => ofLe ((b.drop off).take k)
  { base := n 0 4, slotSz := n 4 4, nslot := n 8 2, free := n 12 2, filled := n 14 2, head := n 16 2, tail := n 18 2,
    reservedZero := n 10 2 == 0 && n 20 12 == 0 }

/-- The block is consistent (R142). -/
def CbBlock.ok (b : CbBlock) (size : Nat) : Bool :=
  b.reservedZero && b.base % 128 == 0 && b.slotSz % 128 == 0 && 128 ≤ b.slotSz && b.slotSz ≤ 65536 && 1 ≤ b.nslot &&
  b.nslot ≤ 4096 && b.free + b.filled ≤ b.nslot && b.head < b.nslot && b.tail < b.nslot && b.base + b.nslot * b.slotSz ≤ size

/-- Store a 2-byte field of a block. -/
def cbSet (s : State) (u slot a off v : Nat) : State :=
  s.modGroup u slot fun g => { g with scratch := bytesSet g.scratch (a + off) (leBytes 2 v) }

/-- The checks of a block: alignment, allocation, consistency (R212, R213). -/
def cbCheck (c : Ctx) (f : Fibre) (a : Nat) : Except Stop Unit := do
  if a % 32 ≠ 0 then stopFault Cause.misaligned a
  spRange c.g f a 32
  if (cbBlock c.g a).ok (32768 * c.g.banks.length) then return () else stopFault Cause.cbState a

/-- The first loop of CPY.cb: the source as in CPY, and the block in place of the destination (R212). -/
def cbProbe (o : OpM) (c : Ctx) (ln : Lane) : Except Stop CpLane := do
  let n := 2 ^ o.size.toNat
  holdCheck c ln
  let src ← addr64 c ln.f o n
  let blk ← srcReg c ln.f 0 o.d.toNat true
  let st ← targetG c ln.f src n .load false anyFmt
  cbCheck c ln.f blk.toNat
  return { src := src, srcT := st, dst := 0, dstT := none, ctr := blk.toNat }

/-- The checks of CPY.cb: the block lies in no locked scratchpad line, the source in no locked destination line. -/
def cpyCbCheck (o : OpM) (c : Ctx) (ln : Lane) : Except Stop CpLane := do
  let n := 2 ^ o.size.toNat
  let x ← cbProbe o c ln
  let dom := domainOf c.g ln.f
  if probesPass o.g c (cbProbe o) then
    if spanLocked c.s c.u dom c.slot 1 x.ctr 32 false then stopFault Cause.rangeLock x.ctr
    if spanLocked c.s c.u dom c.slot 0 x.src n true then stopFault Cause.rangeLock x.src
  return x

/-- CPY.cb (R212, R345). -/
def execCpyCb (o : OpM) (s : State) : Answer :=
  .next <| runLanes s o.g o.len (cpyCbCheck o) fun c s l =>
    let n := 2 ^ o.size.toNat
    let lanes : List CopyLane := l.map fun x =>
      { fibre := x.1.id, src := x.2.src, dst := 0, ctr := x.2.ctr, srcPa := x.2.srcT.pa s,
        srcSlot := x.2.srcT.slot, key := keyFor c [x.1] }
    startCopy c s o.len
      { id := 0, slot := c.slot, domain := c.g.domain, n := n, space := 3, lanes := lanes,
        locks := [(0, false, linesOf (lanes.map fun l => (l.src, n)))] }

/-- The open slot of a block. -/
def cbOpenOf (s : State) (u slot block : Nat) : Option CbOpen :=
  (s.core u).cbOpen.find? fun x => x.slot == slot && x.block == block

/-- A fibre takes the next filled slot of a block, as an acquire at .pkg; its register will hold the slot's offset (R213). -/
def cbTake (s : State) (u slot id d a : Nat) (b : CbBlock) : State :=
  (acquirePkg (cbSet (cbSet s u slot a 14 (b.filled - 1)) u slot a 18 ((b.tail + 1) % b.nslot)) u).addReturn u
    { id := 0, slot := slot, fibre := id, dests := stillOwed s u slot id [(0, d, BitVec.ofNat 32 (b.base + b.tail * b.slotSz))], acq := true }
/-- Fibres that wait at a CBACQ for a slot of a block, with their places in the claim order. -/
def cbWaiters (s : State) (u slot a : Nat) : List Nat :=
  match s.group u slot with
  | none => []
  | some g => g.fibres.filterMap fun e => match e.2.wait with
    | some (.buffer b _ _ seq) => if b = a then some seq else none
    | _ => none
/-- One lane of CBACQ: its register is empty from now on; it takes a slot, or waits for one behind those that wait already. -/
def cbacqLane (o : OpT) (c : Ctx) (s : State) (ln : Lane) (a : Nat) : SignEnd :=
  let d := o.d.toNat
  match s.group c.u c.slot with
  | none => .done s
  | some g =>
    let b := cbBlock g a
    let s1 := s.emptyRegs c.u c.slot ln.id [(0, d, 0)]
    if b.filled = 0 || !(cbWaiters s c.u c.slot a).isEmpty then
      .done (({ s1 with nextId := s.nextId + 1 }.rewind c.u c.slot ln.id c.pc).block c ln.id
        (.buffer a d (nextPc c.pc o.len) s.nextId))
    else .done (cbTake s1 c.u c.slot ln.id d a b)

/-- CBACQ (R213, R341): the lanes take filled slots one after another; a lane that finds none waits. -/
def execCbacq (o : OpT) (s : State) : Answer :=
  .next <| runLanes s o.g o.len
    (fun c ln => do
      let b ← srcB c ln.f o
      destReady c ln.f 0 o.d.toNat
      cbCheck c ln.f b.toNat
      return b.toNat)
    (commitSign (cbacqLane o))
/-- A fibre that waits at a CBACQ may take a slot: one is filled, and no fibre waits before it. -/
def cbReady (s : State) (u slot a seq : Nat) : Bool :=
  match s.group u slot with
  | none => false
  | some g => (cbBlock g a).filled != 0 && (cbWaiters s u slot a).all fun k => decide (seq ≤ k)
/-- It takes the slot and goes on. -/
def cbResume (s : State) (u slot id d a : Nat) (next : DWord) : State :=
  match s.group u slot with
  | none => s
  | some g => (cbTake s u slot id d a (cbBlock g a)).modFibre u slot id fun f => { f.ready (s.core u).opp with pc := next }

/-- Slots of a block acquired and not yet released. -/
def cbAcquired (s : State) (u slot a : Nat) (b : CbBlock) : Nat :=
  b.nslot - b.free - b.filled - (if (cbOpenOf s u slot a).isSome then 1 else 0)

/-- CBREL (R213, R214): a release at .core, then the slots are free. -/
def execCbrel (o : OpT) (s : State) : Answer :=
  .next <| runLanes s o.g o.len
    (fun c ln => do
      let b ← srcB c ln.f o
      cbCheck c ln.f b.toNat
      let same := (activeOf o.g (predFree o.g c.lanes)).filter fun x => match srcB c x.f o with
        | .ok v => v == b
        | _ => false
      if cbAcquired c.s c.u c.slot b.toNat (cbBlock c.g b.toNat) < same.length then stopFault Cause.cbState b.toNat
      releaseCheck c ln 2
      return b.toNat)
    fun c s l => l.foldl (fun s x =>
      match s.group c.u c.slot with
      | none => s
      | some g => cbSet s c.u c.slot x.2 12 ((cbBlock g x.2).free + 1)) s

/-! ## Transfers -/

/-- Change a lane of a copy. -/
def modCopyLane (s : State) (u id i : Nat) (f : CopyLane → CopyLane) : State :=
  s.modCore u fun c => { c with copies := c.copies.map fun x =>
    if x.id = id then { x with lanes := x.lanes.zipIdx.map fun e => if e.2 = i then f e.1 else e.1 } else x }

/-- A copy whose lanes are all done leaves the engine and releases its locks (R210). -/
def retireCopy (s : State) (u id : Nat) : State :=
  match (s.core u).copies.find? fun x => x.id == id with
  | none => s
  | some x =>
    if x.lanes.all (·.done) then
      dropLocks (s.modCore u fun c => { c with copies := c.copies.filter fun y => y.id != id }) u id
    else s

/-- The lanes of a core's registered copies that are not done, in order: the copy and the lane's index. -/
def openLanes (c : Core) : List (Copy × Nat × CopyLane) :=
  (c.copies.filter (·.registered)).flatMap fun x =>
    (x.lanes.zipIdx.filter fun e => !e.1.done).map fun e => (x, e.2, e.1)

/-- An earlier access of the lane's fibre to its source is not yet performed (R179). -/
def sourceBusy (s : State) (u : Nat) (x : Copy) (l : CopyLane) : Bool :=
  x.space != 0 && s.flights.any fun f => f.u == u && f.slot == x.slot && f.id < x.id &&
    f.parts.any fun p => p.fibre == l.fibre && p.touches { fibre := 0, addr := l.srcPa, size := x.n }

/-- The bytes a lane copies; none while they cannot be read. Those of another package come by `data`. -/
def sourceBytes (s : State) (u : Nat) (x : Copy) (l : CopyLane) : Option (List Byte) :=
  if x.space = 0 then (s.group u x.slot).map fun g => bytesGet g.scratch l.src x.n
  else if l.fetch.isSome then l.data
  else homeRead s l.srcPa x.n

/-- What a read of the lane's source does at its home, under the class of the copy's domain (R138, R144, R145, R155, R156). -/
def touchSource (s : State) (u : Nat) (x : Copy) (l : CopyLane) : State :=
  if x.space = 0 || l.fetch.isSome then s else readLine s l.srcPa (classOf s u x.domain)

/-- The lanes of a copy to another package that one packet carries: those whose bytes lie in one line (R290). -/
def packetLanes (x : Copy) (l : CopyLane) : List (Nat × CopyLane) :=
  (x.lanes.zipIdx.filter fun e => !e.1.done && !e.1.failed && lineOf e.1.dstPa == lineOf l.dstPa).map fun e => (e.2, e.1)
/-- A write to another package whose last lane fails goes out without bytes, so that its epoch's count holds (R294, R403): DESIGN CHOICE,
see the log. -/
def sendEmpty (s : State) (u : Nat) (x : Copy) (i : Nat) (l : CopyLane) : State :=
  match l.epoch, l.dstSlot with
  | some e, some n =>
    if l.done || slotBroken s u n || !(packetLanes x l).all (fun m => m.1 == i) then s else sendJoined s u n l.key e (lineOf l.dstPa) []
  | _, _ => s
/-- The lane ends: its counter is decremented as a release at .pkg (R179, R211). -/
def finishLane (s : State) (u : Nat) (x : Copy) (i : Nat) (l : CopyLane) : State :=
  let s1 := modCopyLane s u x.id i fun l => { l with done := true }
  retireCopy (if x.space = 3 || l.ctr = 0xFFFFFFFF || l.failed then s1 else counterDec s1 (dieOf u) l.ctr) u x.id

/-- A lane ends without its bytes: it does not signal, and the bytes that it claimed of a circular-buffer slot never count as
written (R216). -/
def failLane (s : State) (u : Nat) (x : Copy) (i : Nat) (l : CopyLane) : State :=
  let s1 := if x.space = 3 && l.claimed then
      s.modCore u fun c => { c with cbOpen := c.cbOpen.map fun b =>
        if b.slot == x.slot && b.block == l.ctr then { b with stuck := true } else b }
    else s
  if x.space = 3 && !l.claimed then modCopyLane s1 u x.id i fun l => { l with failed := true }
  else finishLane (sendEmpty s1 u x i l) u x i { l with failed := true }
/-- The lanes of a copy whose bytes lie in the 128-byte source line at an address end without them. -/
def failLine (s : State) (u id a : Nat) : State :=
  ((List.range 32).foldl (fun s i => match (s.core u).copies.find? fun x => x.id == id with
    | none => s
    | some x => match x.lanes[i]? with
      | some l => if lineOf l.src = lineOf a && l.data.isNone && !l.done && !l.failed then failLane s u x i l else s
      | none => s) s)
/-- A fetch of a copy's source has ended with an error: the lanes that it served end without their bytes, as R16 and R216 set. -/
def failFetched (s : State) (cause : Nat) (f : Flight) : State :=
  match f.origin, f.kind with
  | .copy id _, .load _ =>
    let ls := ((s.core f.u).copies.filter fun x => x.id == id).flatMap fun x => x.lanes.filter fun l => l.fetch == some f.id && !l.failed
    match ls with
    | [] => s
    | l :: _ =>
      let s1 := if cause = Cause.islandOffline then s else s.sendNoFibre (dieOf f.u) cause l.src
      if cause = Cause.machineCheck then failLine s1 f.u id l.src
      else (List.range 32).foldl (fun s i => match (s.core f.u).copies.find? fun x => x.id == id with
        | none => s
        | some x => match x.lanes[i]? with
          | some l => if l.fetch = some f.id && !l.done && !l.failed then failLane s f.u x i l else s
          | none => s) s1
  | _, _ => s

/-- The address of a lane's source, while it has not been read, or of its destination, on a die of the package that is lost (R216,
R283). -/
def laneLost (s : State) (u : Nat) (x : Copy) (l : CopyLane) : Option Nat :=
  let lost := fun pa => paPkg pa == s.pkg && (dieLost s (dieOf u)).testBit (paDie pa)
  if x.space != 0 && l.data.isNone && lost l.srcPa then some l.src
  else if (x.space == 0 || x.space == 2) && lost l.dstPa then some l.dst
  else none

/-- The 16-byte piece that a lane reads, and the one that it writes (R176, R211). -/
def srcPiece (l : CopyLane) : Nat := l.src / 16
def dstPiece (space : Nat) (l : CopyLane) : Nat := (if space = 1 || space = 3 then l.dst else l.dstPa) / 16
/-- The open lanes of a copy whose source lies in one piece with a lane's: index and lane (R176, R217). -/
def sourceMates (x : Copy) (l : CopyLane) : List (Nat × CopyLane) :=
  (x.lanes.zipIdx.filter fun e => !e.1.done && !e.1.failed && srcPiece e.1 == srcPiece l).map fun e => (e.2, e.1)
/-- The open lanes of a copy that share a destination piece with a lane. A lane of .cb takes part once it has claimed bytes. -/
def laneMates (x : Copy) (piece : CopyLane → Nat) (l : CopyLane) : List (Nat × CopyLane) :=
  (x.lanes.zipIdx.filter fun e =>
    !e.1.done && !e.1.failed && (x.space != 3 || e.1.claimed) && piece e.1 == piece l).map fun e => (e.2, e.1)
/-- Change several lanes of a copy. -/
def modLanes (s : State) (u id : Nat) (ms : List (Nat × CopyLane)) (f : CopyLane → CopyLane) : State :=
  ms.foldl (fun s e => modCopyLane s u id e.1 f) s
/-- Lanes end one after another. -/
def finishLanes (s : State) (u : Nat) (x : Copy) (ms : List (Nat × CopyLane)) : State :=
  ms.foldl (fun s e => finishLane s u x e.1 e.2) s

/-- Ask another package for 16 bytes of a copy's source (R176, R287, R293): the lanes of the piece share the request. -/
def fetchForeign (s : State) (u : Nat) (x : Copy) (l : CopyLane) (ms : List (Nat × CopyLane)) : State :=
  let a := l.srcPa / 16 * 16
  let s1 := addFlight s { id := 0, u := u, slot := x.slot, kind := .load true, pa := a, origin := .copy x.id ((ms.map (·.1)).headD 0),
                          parts := [{ fibre := 8192, addr := a, size := 16 }] }
  emitLoad (modLanes s1 u x.id ms fun l => { l with fetch := some s.nextId }) u (l.srcSlot.getD 0) l.key a 16 s.nextId
/-- The source piece of a lane is read, or asked for, for all its lanes at once, when their fibres' earlier accesses are performed (R179,
R217). -/
def readPiece (s : State) (u : Nat) (x : Copy) (l : CopyLane) : State :=
  let ms := (sourceMates x l).filter fun e => e.2.data.isNone && e.2.fetch.isNone
  if ms.any fun e => sourceBusy s u x e.2 then s
  else if x.space ≠ 0 && paPkg l.srcPa ≠ s.pkg then (if ms.isEmpty then s else fetchForeign s u x l ms)
  else ms.foldl (fun s e => match sourceBytes s u x e.2 with
    | some b => modCopyLane (touchSource s u x e.2) u x.id e.1 fun l => { l with data := some b }
    | none => s) s

/-- The write of a copy's piece has been applied at time `t`: its lanes end, or wait as R168 sets (R211). -/
def copyApplied (s : State) (u id i t : Nat) : State :=
  match (s.core u).copies.find? fun x => x.id == id with
  | none => s
  | some x =>
    match x.lanes[i]? with
    | none => s
    | some l =>
      let ms := (laneMates x (dstPiece x.space) l).filter fun e => e.2.sent && e.2.written.isNone
      match reportT s (dieOf u) (paDie l.dstPa) l.dstPa t with
      | none => finishLanes s u x ms
      | some t => modLanes s u id ms fun l => { l with written := some t }

/-- The request that writes a piece of a copy's destination. -/
def pieceFlight (s : State) (u : Nat) (x : Copy) (i : Nat) (l : CopyLane) (ms : List (Nat × CopyLane)) : Flight :=
  { id := s.nextId, u := u, slot := x.slot, kind := .store, pa := l.dstPa / 128 * 128, origin := .copy x.id i,
    since := s.now (dieOf u),
    parts := ms.map fun e => { fibre := 8192, addr := e.2.dstPa, size := x.n, data := e.2.data.getD [] } }
/-- The segment that a .ds lane writes is no longer the copy's domain's (R158). -/
def segmentLost (s : State) (u : Nat) (x : Copy) (l : CopyLane) : Bool :=
  x.space == 2 && match dsmOwner s u x.domain (paDie l.dstPa) (paOff l.dstPa - 0x4000000000) with
    | .ok _ => false
    | .error _ => true
/-- Write a piece of the package's memory: at its home, under R167. A control register is written by a request of its own. A .ds piece
is checked against the owner entry as it stands at the bank; one that is refused is not written, and its lane ends as a cancelled one
does: DESIGN CHOICE, see the log. -/
def copyWrite (s : State) (u : Nat) (x : Copy) (i : Nat) (l : CopyLane) (ms : List (Nat × CopyLane)) : State :=
  if segmentLost s u x l then failLane s u x i l else
  let d := paDie l.dstPa
  let f := pieceFlight s u x i l ms
  let s1 := addFlight (modLanes s u x.id ms fun l => { l with sent := true }) f
  if !plainPa l.dstPa && !inDsmWindow l.dstPa then s1
  else
    let r := reachHome s1 d f
    if r.2 then copyApplied r.1 u x.id i (completionTime s d l.dstPa) else r.1

/-- The packet of a line leaves in the epoch that it has joined, once its bytes are read (R294, R403); its lanes are then done (R345).
A slot that has failed ends the lane with home lost. -/
def copySend (s : State) (u : Nat) (x : Copy) (i : Nat) (l : CopyLane) : State :=
  let ms := packetLanes x l
  let n := l.dstSlot.getD 0
  if slotBroken s u n then failLane (s.sendNoFibre (dieOf u) Cause.homeLost l.dst) u x i l
  else if ms.any fun e => e.2.data.isNone then s
  else
    let data := ms.flatMap fun e => (e.2.data.getD []).zipIdx.map fun b => (e.2.dstPa + b.2, b.1)
    finishLanes (sendJoined s u n l.key (l.epoch.getD 0) (lineOf l.dstPa) (overlay data)) u x ms

/-- Write the destination piece of a lane, once every lane of the piece has its bytes (R176). Where lanes of one execution overlap, R211
allows any order for their bytes: the highest lane's stand, DESIGN CHOICE, see the log. -/
def writePiece (s : State) (u : Nat) (x : Copy) (i : Nat) (l : CopyLane) : State :=
  if (x.space = 0 || x.space = 2) && paPkg l.dstPa ≠ s.pkg then copySend s u x i l
  else
    let ms := laneMates x (dstPiece x.space) l
    if ms.any fun e => e.2.data.isNone then s
    else if x.space = 1 || x.space = 3 then
      finishLanes (s.modGroup u x.slot fun g =>
        { g with scratch := ms.foldl (fun b e => bytesSet b e.2.dst (e.2.data.getD [])) g.scratch }) u x ms
    else copyWrite s u x i l ms

/-- Move a lane's bytes: its source piece is read, then its destination piece written. -/
def moveLane (s : State) (u : Nat) (x : Copy) (i : Nat) (l : CopyLane) : State :=
  let s1 := readPiece s u x l
  match (s1.core u).copies.find? fun y => y.id == x.id with
  | none => s1
  | some y => match y.lanes[i]? with
    | none => s1
    | some m => if m.data.isSome then writePiece s1 u y i m else s1

/-- COPY_LANE_COMPLETE (R211): the lane's bytes are read and written, and when they are performed, which for another die means
after the wait of R168, the lane signals. A lane whose source or destination lies on a lost die ends with home lost (R216, R437). -/
def execCopyLaneComplete (u idx : Nat) (s : State) : Answer :=
  .next <| match (openLanes (s.core u))[idx]? with
    | none => s
    | some (x, i, l) =>
      if !(s.die (dieOf u)).alive then s else
      match laneLost s u x l with
      | some a => failLane (s.sendNoFibre (dieOf u) Cause.homeLost a) u x i l
      | none =>
      match l.written with
      | some t => if s.now (dieOf u) > t + 4 then finishLane s u x i l else s
      | none => if l.sent || l.failed || (x.space = 3 && !l.claimed) then s else moveLane s u x i l

/-- COPY_SOURCE_ERROR (R216): the read of the lane's source meets a poisoned 128-byte line. No bytes that would come from the line are
written, in any lane of the execution, and those lanes do not signal; a record of no fibre reports the piece. A circular-buffer slot with
bytes claimed for such a lane never fills. -/
def execCopySourceError (u idx piece : Nat) (s : State) : Answer :=
  .next <| match (openLanes (s.core u))[idx]? with
    | none => s
    | some (x, _, l) =>
      if x.space = 0 || piece ≠ 0 || l.data.isSome || l.failed || l.fetch.isSome || !isPoisoned s l.srcPa then s
      else failLine (s.sendNoFibre (dieOf u) Cause.machineCheck l.src) u x.id l.src

/-- The lanes of circular-buffer copies without claimed bytes, in order. -/
def unclaimed (c : Core) : List (Copy × Nat × CopyLane) :=
  (openLanes c).filter fun e => e.1.space == 3 && !e.2.2.claimed

/-- The claim order (R212): a lane waits for lower lanes of its execution and for its fibre's earlier executions, whatever block they
name. -/
def claimBefore (e y : Copy × Nat × CopyLane) : Bool :=
  y.1.slot == e.1.slot &&
    ((y.1.id == e.1.id && decide (y.2.1 < e.2.1)) || (decide (y.1.id < e.1.id) && y.2.2.fibre == e.2.2.fibre))

/-- Zero bytes of scratchpad. -/
def zeroScratch (s : State) (u slot a n : Nat) : State :=
  s.modGroup u slot fun g => { g with scratch := bytesSet g.scratch a (List.replicate n 0) }

/-- Set the open slot of a block. -/
def setCbOpen (s : State) (u : Nat) (x : CbOpen) : State :=
  s.modCore u fun c => { c with
    cbOpen := x :: c.cbOpen.filter fun y => !(y.slot == x.slot && y.block == x.block) }

/-- Claim the next `n` bytes of the open slot for a lane; skipped bytes are written zero, and a claim that no longer fits leaves
the slot fully claimed (R212). -/
def claimIn (s : State) (u : Nat) (e : Copy × Nat × CopyLane) (b : CbOpen) : State :=
  let n := e.1.n
  let p := (b.pos + n - 1) / n * n
  let s1 := zeroScratch s u b.slot (b.base + b.pos) (p - b.pos)
  if p ≥ b.size then setCbOpen s1 u { b with pos := b.size }
  else
    let s2 := setCbOpen s1 u { b with pos := p + n, stuck := b.stuck || e.2.2.failed }
    let s3 := modCopyLane s2 u e.1.id e.2.1 fun l => { l with claimed := true, dst := b.base + p }
    if e.2.2.failed then finishLane s3 u e.1 e.2.1 { e.2.2 with failed := true } else s3

/-- CB_CLAIM (R212): the engine claims bytes for a lane, opening slot HEAD when FREE is not zero and locking its lines. -/
def execCbClaim (u idx : Nat) (s : State) : Answer :=
  .next <| match (unclaimed (s.core u))[idx]? with
    | none => s
    | some e =>
      if (unclaimed (s.core u)).any (claimBefore e) then s
      else
        match cbOpenOf s u e.1.slot e.2.2.ctr, s.group u e.1.slot with
        | some b, _ => if b.pos < b.size then claimIn s u e b else s
        | none, some g =>
          let k := cbBlock g e.2.2.ctr
          if k.free = 0 then s
          else
            let base := k.base + k.head * k.slotSz
            let s1 := cbSet s u e.1.slot e.2.2.ctr 12 (k.free - 1)
            let s2 := { s1.modCore u fun c => { c with locks := c.locks ++
                [{ owner := s.nextId, domain := e.1.domain, slot := e.1.slot, space := 1, dest := true,
                   lines := spanLines base k.slotSz, entries := 0 }] } with nextId := s.nextId + 1 }
            claimIn s2 u e { slot := e.1.slot, block := e.2.2.ctr, base := base, size := k.slotSz }
        | _, _ => s

/-- CB_SLOT_FILLED (R212): every byte of the open slot is claimed and performed; FILLED rises as a release at .pkg, HEAD moves
on, and the slot's lock is released. -/
def execCbSlotFilled (u slot block : Nat) (s : State) : Answer :=
  .next <| match cbOpenOf s u slot block, s.group u slot with
    | some b, some g =>
      let busy := (openLanes (s.core u)).any fun e =>
        e.1.space == 3 && e.1.slot == slot && e.2.2.ctr == block && e.2.2.claimed
      if b.pos < b.size || b.stuck || busy then s
      else
        let k := cbBlock g block
        (cbSet (cbSet s u slot block 14 (k.filled + 1)) u slot block 16 ((k.head + 1) % k.nslot)).modCore u fun c =>
          { c with
            cbOpen := c.cbOpen.filter fun y => !(y.slot == slot && y.block == block)
            locks := c.locks.filter fun y =>
              !(y.slot == slot && y.entries == 0 && y.dest && y.space == 1 && y.lines == spanLines b.base b.size) }
    | _, _ => s

end Sys2Proof.Machine
end

