-- ==== Sys2Proof/Machine/Matrix.lean ====
section
/-! DEFINITION. The matrix unit (R184 to R205, R328, R332, R381, R424) and the tile transfers of the copy engine (R419 to R423):
the arithmetic of R93, the signed instructions, the queue and the completion of its entries. -/

namespace Sys2Proof.Machine

/-! ## Tile control registers (R185, R186) -/

/-- The reset value of TCn: band scales 1.0, all else zero. -/
def tcReset : DWord := 0x3F803F8000000000
def Group.tc (g : Group) (n : Nat) : DWord := sgetD g.tcs n tcReset
def tcFmt (t : DWord) : Nat := bitsOf t.toNat 3 0
def tcBlk (t : DWord) : Nat := bitsOf t.toNat 7 6
/-- Rows in use. -/
def tcRows (t : DWord) : Nat :=
  let n := bitsOf t.toNat 15 8
  if n = 0 then 128 else Nat.min n 128
/-- K of a tile format (R185). -/
def tileK (fmt : Nat) : Nat := if fmt = 2 || fmt = 3 then 64 else if fmt = 8 || fmt = 10 then 256 else 128
/-- Elements of a row in use. -/
def tcCols (t : DWord) : Nat :=
  let n := bitsOf t.toNat 24 16
  if n = 0 then tileK (tcFmt t) else n
/-- The band scale of a row (R79). -/
def tcBand (t : DWord) (row : Nat) : Nat := if row < 64 then bitsOf t.toNat 47 32 else bitsOf t.toNat 63 48
/-- Integer tile formats. -/
def intFmt (fmt : Nat) : Bool := fmt == 9 || fmt == 10
/-- The formats that may carry block scales (R78). -/
def scaledFmt (fmt : Nat) : Bool := 4 ≤ fmt && fmt ≤ 8
/-- The conditions of R186. -/
def tcOk (t : DWord) : Bool :=
  2 ≤ tcFmt t && tcFmt t ≤ 10 && bitsOf t.toNat 24 16 ≤ tileK (tcFmt t) && (tcBlk t == 0 || scaledFmt (tcFmt t))

/-! ## Elements -/

/-- The code of element k of a tile's row (R73, R184). -/
def tileCode (g : Group) (t fmt row k : Nat) : Nat :=
  let b := elemBits fmt
  let a := 32768 * t + 128 * row + k * b / 8
  ofLe (bytesGet g.tiles a 2) / 2 ^ (k * b % 8) % 2 ^ b
/-- The block scale of an element (R80). -/
def tileScale (g : Group) (t : Nat) (tc : DWord) (row k : Nat) : Nat :=
  if tcBlk tc = 0 then unitScale
  else (sgetD g.tiles (32768 * t + 16384 + 32 * row + k / blockLen (tcBlk tc)) 0).toNat
/-- The value of a floating-point element under its block scale (R78). -/
def tileVal (g : Group) (t : Nat) (tc : DWord) (row k : Nat) : Val :=
  match pageFmt (tcFmt tc) with
  | some f => (scaledValue f (tileCode g t (tcFmt tc) row k) (tileScale g t tc row k)).1
  | none => .fin false 0 0
/-- The value of an integer element. -/
def tileInt (g : Group) (t fmt row k : Nat) : Int :=
  let c := tileCode g t fmt row k
  if fmt = 9 then (BitVec.ofNat 8 c).toInt else (BitVec.ofNat 4 c).toInt

/-- An accumulator element (R187). -/
def accKey (n i j : Nat) : Nat := 16384 * n + 128 * i + j
def Group.acc (g : Group) (n i j : Nat) : Word := sgetD g.accs (accKey n i j) 0

/-! ## The arithmetic of R93 -/

/-- The exact sum of finite products; −0 only when every product is −0. -/
def sumFin (ps : List Val) : Val :=
  let r := ps.foldl (fun (a : Bool × Nat × Int) p => match p with
    | .fin n m e => addFin a.1 a.2.1 a.2.2 n m e
    | _ => a) (false, 0, 0)
  if r.2.1 = 0 then .fin (ps.all fun p => p.isZero && p.neg?) 0 0 else .fin r.1 r.2.1 r.2.2

/-- The chunk sum of products x × y, and whether the invalid flag is set. -/
def chunkSum (xys : List (Val × Val)) : Val × Bool :=
  let ps := xys.map fun e => e.1.mul e.2
  if ps.any (·.isNan) then (.nan false, true)
  else if ps.any (·.isInf) then
    let neg := ps.any fun p => p.isInf && p.neg?
    let pos := ps.any fun p => p.isInf && !p.neg?
    if neg && pos then (.nan false, true) else (.inf neg, false)
  else (sumFin ps, false)

/-- `part`: the chunk sum times the two band scales, rounded. R93 does not say whether the band scales act on an infinite sum: they do, so
a negative one turns its sign and a zero one gives NaN with invalid. DESIGN CHOICE, see the log. -/
def chunkPart (sum : Val) (ba bb : Nat) : Nat × BitVec 5 :=
  let a := value fmtBF16 ba
  let b := value fmtBF16 bb
  let v1 := sum.mul a
  let v2 := v1.mul b
  let inv := zeroTimesInf sum a || a.isSnan || zeroTimesInf v1 b || b.isSnan
  match v2 with
  | .nan _ => (canonNan fmtF32, if inv then flagInv else 0)
  | .inf n => (infCode fmtF32 n, 0)
  | .fin n m e => roundFin fmtF32 n m e .rne false

/-- One chunk added to an accumulator element. -/
def chunkInto (c : Word) (xys : List (Val × Val)) (ba bb : Nat) : Word × BitVec 5 :=
  let s := chunkSum xys
  let p := chunkPart s.1 ba bb
  let r := addRound fmtF32 (value fmtF32 c.toNat) (value fmtF32 p.1) .rne false
  (w32 r, (if s.2 then flagInv else 0) ||| p.2 ||| r.2)

/-- The K positions below `n`, in chunks of 32. -/
def chunksBelow (n : Nat) : List (List Nat) :=
  (List.range ((n + 31) / 32)).map fun q => (List.range (Nat.min 32 (n - 32 * q))).map (32 * q + ·)

/-- C[i][j] of an MMA of floating-point tiles (R195). -/
def mmaElem (g : Group) (m : MEntry) (n i j : Nat) : Word × BitVec 5 :=
  (chunksBelow n).foldl (fun r ks =>
    let x := chunkInto r.1 (ks.map fun k => (tileVal g m.t1 m.tc1 i k, tileVal g m.t2 m.tc2 j k))
      (tcBand m.tc1 i) (tcBand m.tc2 j)
    (x.1, r.2 ||| x.2)) (g.acc m.ac i j, 0)

/-- C[i][j] of an MMA of integer tiles (R93, R195). -/
def mmaInt (g : Group) (m : MEntry) (n i j : Nat) : Word :=
  let sum := (List.range n).foldl (fun (a : Int) k => a + tileInt g m.t1 m.fa i k * tileInt g m.t2 m.fb j k) 0
  BitVec.ofInt 32 ((g.acc m.ac i j).toInt + sum)

/-- Put new elements into an accumulator. -/
def putElems (g : Group) (es : List (Nat × Word × BitVec 5)) : Group × BitVec 5 :=
  es.foldl (fun r e => ({ r.1 with accs := sset r.1.accs e.1 e.2.1 }, r.2 ||| e.2.2)) (g, 0)

/-- The product of MMA (R195). -/
def mmaRun (g : Group) (m : MEntry) : Group × BitVec 5 :=
  let n := Nat.min (Nat.min (tcCols m.tc1) (tcCols m.tc2)) (Nat.min (tileK m.fa) (tileK m.fb))
  putElems g ((List.range (tcRows m.tc1)).flatMap fun i => (List.range (tcRows m.tc2)).map fun j =>
    if intFmt m.fa then (accKey m.ac i j, mmaInt g m n i j, 0)
    else
      let r := mmaElem g m n i j
      (accKey m.ac i j, r.1, r.2))

/-- One product of a constant-matrix operation added to C[i][j]: element k of a row under its scales (R201). -/
def constElem (g : Group) (m : MEntry) (i j row k : Nat) : Nat × Word × BitVec 5 :=
  if intFmt m.fa then
    (accKey m.ac i j, BitVec.ofInt 32 ((g.acc m.ac i j).toInt + tileInt g m.t1 m.fa row k), 0)
  else
    let r := chunkInto (g.acc m.ac i j) [(tileVal g m.t1 m.tc1 row k, .fin false 1 0)] (tcBand m.tc1 row) 0x3F80
    (accKey m.ac i j, r.1, r.2)

/-- HALFK: MOD bit 0. -/
def halfK (m : MEntry) : Nat := m.md % 2

/-- TXP (R201). -/
def txpRun (g : Group) (m : MEntry) : Group × BitVec 5 :=
  putElems g (((List.range 128).filter fun i => 128 * halfK m + i < tcCols m.tc1).flatMap fun i =>
    (List.range (tcRows m.tc1)).map fun j => constElem g m i j j (128 * halfK m + i))

/-- TPERM (R201). -/
def tpermRun (g : Group) (m : MEntry) : Group × BitVec 5 :=
  putElems g ((List.range 128).flatMap fun i =>
    let row := (m.aux.getD i 0).toNat
    if row < 128 && row < tcRows m.tc1 then
      ((List.range 128).filter fun j => 128 * halfK m + j < tcCols m.tc1).map fun j =>
        constElem g m i j row (128 * halfK m + j)
    else [])

/-- TRRED (R201): the row sums, in chunks of R93. -/
def trredRun (g : Group) (m : MEntry) : Group × BitVec 5 :=
  let col := m.md % 128
  let n := tcCols m.tc1
  putElems g ((List.range (tcRows m.tc1)).map fun i =>
    if intFmt m.fa then
      (accKey m.ac i col, BitVec.ofInt 32 ((g.acc m.ac i col).toInt +
        (List.range n).foldl (fun (a : Int) k => a + tileInt g m.t1 m.fa i k) 0), 0)
    else
      let r := (chunksBelow n).foldl (fun (r : Word × BitVec 5) ks =>
        let x := chunkInto r.1 (ks.map fun k => (tileVal g m.t1 m.tc1 i k, .fin false 1 0)) (tcBand m.tc1 i) 0x3F80
        (x.1, r.2 ||| x.2)) (g.acc m.ac i col, 0)
      (accKey m.ac i col, r.1, r.2))

/-- AZERO (R200). -/
def azeroRun (g : Group) (m : MEntry) : Group :=
  let bit : BitVec 8 := 1#8 <<< m.ac
  { g with
    accs := g.accs.filter fun e => e.1 / 16384 != m.ac
    accInt := if m.md % 2 = 1 then g.accInt ||| bit else g.accInt &&& ~~~bit }

/-! ## Drains (R196 to R198) -/

/-- The fields of ADRAIN's MOD (R192). -/
def drainRnd (md : Nat) : Nat := md % 8
def drainSat (md : Nat) : Bool := md.testBit 3
def drainScratch (md : Nat) : Bool := md.testBit 4
def drainHalf (md : Nat) : Nat := if md.testBit 5 then 1 else 0
def noWait (md : Nat) : Bool := md.testBit 7

/-- A drained element: its code and flags (R89, R196). -/
def drainElem (isInt : Bool) (fa md : Nat) (x : Word) : Nat × BitVec 5 :=
  if fa = 1 then (x.toNat, 0)
  else if isInt then
    let w := elemBits fa
    let lo : Int := -(2 ^ (w - 1) : Nat)
    let hi : Int := (2 ^ (w - 1) : Nat) - 1
    let v := x.toInt
    (wrapNat (if drainSat md then (if v < lo then lo else if v > hi then hi else v) else v) w, 0)
  else match pageFmt fa with
    | some f =>
      let r := roundVal f (value fmtF32 x.toNat) (rndOf (drainRnd md)) (drainSat md)
      (r.1, if (value fmtF32 x.toNat).isSnan then r.2 ||| flagInv else r.2)
    | none => (0, 0)

/-- A row of a drain: columns `first` to `first + n − 1`, packed (R73). -/
def drainRow (g : Group) (m : MEntry) (i first n : Nat) : List Byte × BitVec 5 :=
  let es := (List.range n).map fun j => drainElem (g.accInt.getLsbD m.ac) m.fa m.md (g.acc m.ac i (first + j))
  (packCodes (elemBits m.fa) (es.map (·.1)) (n * elemBits m.fa / 8), (es.map (·.2)).foldl (· ||| ·) 0)

/-- Bytes of a drained row. -/
def drainWidth (fa : Nat) : Nat := 16 * elemBits fa

/-- A drain to tile T1: rows filled up with zero bytes, the side-store zero (R197). -/
def drainTile (g : Group) (m : MEntry) : Group × BitVec 5 :=
  let n := if m.fa = 2 || m.fa = 3 then 64 else 128
  let g0 := { g with tiles := g.tiles.filter fun e => e.1 / 32768 != m.t1 }
  (List.range 128).foldl (fun (r : Group × BitVec 5) i =>
    let x := drainRow g m i (64 * drainHalf m.md) n
    ({ r.1 with tiles := bytesSet r.1.tiles (32768 * m.t1 + 128 * i) x.1 }, r.2 ||| x.2)) (g0, 0)

/-- A drain to scratchpad (R198). -/
def drainScratchRun (g : Group) (m : MEntry) : Group × BitVec 5 :=
  (List.range 128).foldl (fun (r : Group × BitVec 5) i =>
    let x := drainRow g m i 0 128
    ({ r.1 with scratch := bytesSet r.1.scratch (m.addr + i * drainWidth m.fa) x.1 }, r.2 ||| x.2)) (g, 0)

/-- The effect of an entry on its group when it completes. -/
def entryRun (g : Group) (m : MEntry) : Group × BitVec 5 :=
  match m.op with
  | .mma => mmaRun g m
  | .txp => txpRun g m
  | .tperm => tpermRun g m
  | .trred => trredRun g m
  | .azero => (azeroRun g m, 0)
  | .adrain => if drainScratch m.md then drainScratchRun g m else drainTile g m
  | .adrainByp => drainTile g m
  | .tld | .tst => (g, 0)

/-! ## Busy bits and pending writes (R202) -/

/-- The operations that a core's queue, array, drain path and copy engine hold. -/
def Core.ops (c : Core) : List MEntry := c.queue ++ c.running ++ c.transfers
/-- An operation that has not reached the consumed point of a tile it reads. -/
def MEntry.readsTile (m : MEntry) (t : Nat) : Bool :=
  match m.op with
  | .mma => m.t1 == t || m.t2 == t
  | .txp | .tperm | .trred => m.t1 == t
  | .tst => m.t1 == t && !m.started
  | _ => false
/-- An operation that has a tile write pending. -/
def MEntry.writesTile (m : MEntry) (t : Nat) : Bool :=
  match m.op with
  | .adrain => m.t1 == t && !drainScratch m.md
  | .adrainByp | .tld => m.t1 == t
  | _ => false
def tileBusy (s : State) (u slot t : Nat) : Bool := (s.core u).ops.any fun m => m.slot == slot && m.readsTile t
/-- The pending writes of a tile. -/
def tilePending (s : State) (u slot t : Nat) : List Nat :=
  ((s.core u).ops.filter fun m => m.slot == slot && m.writesTile t).map (·.id)
/-- The operations that an entry waits for have all ended. -/
def waitsDone (c : Core) (m : MEntry) : Bool := !(c.ops.any fun x => m.waits.contains x.id)

/-- The format that an accumulator will hold when the entries queued have run: true for INT32 (R189). -/
def accWillBeInt (s : State) (u slot n : Nat) (g : Group) : Bool :=
  match (((s.core u).running ++ (s.core u).queue).filter fun m => m.slot == slot && m.op == .azero && m.ac == n).getLast? with
  | some m => m.md % 2 == 1
  | none => g.accInt.getLsbD n

/-! ## Signing (R189) -/

/-- A refusal: cause, sub-code and FADDR. -/
abbrev Refuse := Option (Nat × Nat × Nat)
/-- The first of several refusals. -/
def firstRefuse : List Refuse → Refuse
  | [] => none
  | some r :: _ => some r
  | none :: t => firstRefuse t
/-- A refusal when a condition holds. -/
def refuseIf (b : Bool) (cause addr : Nat) : Refuse := if b then some (cause, 0, addr) else none
/-- A refusal out of a check; a wait gives none. -/
def refuseOf {α : Type} : Except Stop α → Refuse
  | .error (.fault cause sub a) => some (cause, sub, a)
  | _ => none

/-- The window checks of tiles (class 2) and accumulators (class 3) (R184, R187). -/
def windowRefuse (g : Group) (f : Fibre) (rs : List (Nat × Nat)) : Refuse :=
  firstRefuse (rs.map fun r => refuseIf (!inWindow g f r.1 r.2) Cause.domain (regInfo r.1 r.2))

/-- FORMAT that names an operand (R436). -/
def fmtTile (b : Bool) (t : Nat) : Refuse := refuseIf b Cause.format (regInfo 2 t)
def fmtAcc (b : Bool) (a : Nat) : Refuse := refuseIf b Cause.format (regInfo 3 a)

/-- What distinguishes the instructions of the unit when they sign. -/
structure XOp where
  opc : Nat
  op : MOp
  /-- tiles and accumulators named: class and number -/
  names : List (Nat × Nat)
  /-- the checks after the windows and before the operand B -/
  format : State → Ctx → Group → Refuse := fun _ _ _ => none
  /-- B and the register after it, or after the pair -/
  readB : Ctx → Fibre → Except Stop (Nat × Int) := fun _ _ => .ok (0, 0)
  /-- the checks of B, the locks and the busy bit -/
  later : State → Ctx → Group → Fibre → Nat × Int → Except Stop Unit := fun _ _ _ _ _ => .ok ()
  /-- the checks after the convergence causes (R424) -/
  last : Ctx → Fibre → Nat × Int → Except Stop Unit := fun _ _ _ => .ok ()
  /-- what the last signer still waits for -/
  hold : State → Ctx → Group → Fibre → Nat × Int → Option Wait := fun _ _ _ _ _ => none
  waits : Bool := false
  /-- the set's operation -/
  act : State → Ctx → Fibre → Nat × Int → List Signer → State

/-- CV as a number. -/
def xConv (o : OpX) : Nat := o.cv.toNat

/-- An entry that accesses memory on its members' behalf: it is an access of theirs, which an acquire holds back (R163). -/
def MOp.accesses (op : MOp) (md : BitVec 8) : Bool :=
  match op with
  | .tld | .tst | .tperm => true
  | .adrain => drainScratch md.toNat
  | _ => false

/-- Sign one lane. A member of the open set waits before any check (R40, R189). HALFK, the column literal of TRRED and the NW mark are
fields of MOD, and the set's key holds them; R39 does not say whether they are among the suffixes: DESIGN CHOICE, see the log. -/
def signX (o : OpX) (x : XOp) (c : Ctx) (s : State) (ln : Lane) : SignEnd :=
  match s.group c.u c.slot, s.fibre c.u c.slot ln.id with
  | some g, some f =>
    if f.signs.getLsbD (xConv o) then .block (.sign (xConv o))
    else if x.op.accesses o.md && acquiring s c.u c.slot ln.id then .block (.acquire 0)
    else match windowRefuse g f x.names with
    | some (cause, sub, a) => .refuse cause sub a
    | none =>
      let c1 := { c with s := s, g := g }
      match firstRefuse [x.format s c1 g] with
      | some (cause, sub, a) => .refuse cause sub a
      | none =>
        match x.readB c1 f with
        | .error (.fault cause sub a) => .refuse cause sub a
        | .error (.block w) => .block w
        | .ok b =>
          match x.later s c1 g f b with
          | .error (.block w) => .block w
          | r =>
            signLane c s ln.id
              { cv := xConv o
                key := [x.opc, o.ac.toNat, o.t1.toNat, o.t2.toNat, o.md.toNat, o.fa.toNat, o.fb.toNat,
                        if o.ub then 1 else 0, o.b.r.toNat]
                signer := { fibre := ln.id, x := 0, y := 0, p := false, d := 0 }, waits := x.waits }
              (fun _ => refuseOf r)
              (fun s ms =>
                match x.hold s c1 g f b with
                | some w => .block w
                | none =>
                  let s1 := x.act s c1 f b ms
                  .done (if x.waits then s1.modFibre c.u c.slot ln.id fun f => { f with wait := some (.signed (xConv o)) } else s1))
              (fun _ => refuseOf (x.last c1 f b))
  | _, _ => .done s

/-- Execute an instruction of the unit. A supervisor core has none (R12). -/
def execX (o : OpX) (x : XOp) (s : State) : Answer :=
  .next <| match s.ctx with
    | none => s
    | some c =>
      if isSupCore c.u then s.faultSheaf Cause.illegal 0 2
      else runLanes s o.g 2 (fun _ _ => (.ok () : Except Stop Unit)) (commitSign fun c s ln _ => signX o x c s ln)

/-- A full matrix queue (R190). -/
def queueHold (s : State) (c : Ctx) : Option Wait :=
  if (s.core c.u).queue.length ≥ 8 then some .matrixQueue else none

/-- The entry of an instruction. -/
def entryOf (s : State) (c : Ctx) (o : OpX) (op : MOp) (ms : List Signer) : MEntry :=
  match s.group c.u c.slot with
  | none => { id := s.nextId, slot := c.slot, op := op, ac := 0, t1 := 0, t2 := 0, fa := 0, fb := 0, md := 0, tc1 := 0, tc2 := 0 }
  | some g =>
    { id := s.nextId, slot := c.slot, op := op, ac := o.ac.toNat, t1 := o.t1.toNat, t2 := o.t2.toNat, fa := o.fa.toNat,
      fb := o.fb.toNat, md := o.md.toNat, tc1 := g.tc o.t1.toNat, tc2 := g.tc o.t2.toNat,
      members := ms.map (·.fibre), conv := xConv o }

/-- Put an entry at the end of the matrix queue. -/
def enqueue (s : State) (u : Nat) (m : MEntry) : State :=
  { s.modCore u fun c => { c with queue := c.queue ++ [m] } with nextId := s.nextId + 1 }

/-- MMA and the constant-matrix operations: FORMAT of the accumulator against the operands (R194). -/
def accSuits (s : State) (c : Ctx) (g : Group) (o : OpX) : Refuse :=
  fmtAcc (accWillBeInt s c.u c.slot o.ac.toNat g != intFmt o.fa.toNat) o.ac.toNat

/-- A pairing of formats that MMA refuses (R194). -/
def badPair (fa fb : Nat) : Bool :=
  intFmt fa != intFmt fb ||
  ((fa == 2 || fa == 3) && scaledFmt fb) || (scaledFmt fa && (fb == 2 || fb == 3))

/-- What MMA signs with (R194, R381). -/
def mmaX (o : OpX) : XOp :=
  let t1 := o.t1.toNat
  let t2 := o.t2.toNat
  {
    opc := 0x0F0, op := .mma, names := [(2, t1), (2, t2), (3, o.ac.toNat)]
    format := fun s c g => firstRefuse [
      fmtTile (badPair o.fa.toNat o.fb.toNat || o.fa.toNat != tcFmt (g.tc t1)) t1,
      fmtTile (o.fb.toNat != tcFmt (g.tc t2)) t2, fmtTile (!tcOk (g.tc t1)) t1, fmtTile (!tcOk (g.tc t2)) t2,
      accSuits s c g o]
    hold := fun s c _ _ _ => queueHold s c
    act := fun s c _ _ ms =>
      enqueue s c.u { entryOf s c o .mma ms with
        waits := tilePending s c.u c.slot t1 ++ tilePending s c.u c.slot t2 } }
/-- MMA (R381). -/
def execMma (o : OpX) (s : State) : Answer := execX o (mmaX o) s

/-- The checks that TXP, TPERM and TRRED share; `halfk` is MOD bit 0 where it is HALFK (R201, R424). -/
def constChecks (o : OpX) (halfk : Bool) (s : State) (c : Ctx) (g : Group) : Refuse :=
  let t1 := o.t1.toNat
  firstRefuse [fmtTile (o.fa.toNat != tcFmt (g.tc t1) || !tcOk (g.tc t1)) t1,
    fmtTile (halfk && o.md.getLsbD 0 && tileK o.fa.toNat ≤ 128) t1, accSuits s c g o]

/-- Queue a constant-matrix operation. -/
def actConst (o : OpX) (op : MOp) (aux : List Byte) (s : State) (c : Ctx) (ms : List Signer) : State :=
  enqueue s c.u { entryOf s c o op ms with aux := aux, waits := tilePending s c.u c.slot o.t1.toNat }

/-- What TXP signs with (R424). -/
def txpX (o : OpX) : XOp :=
  {
    opc := 0x0F6, op := .txp, names := [(2, o.t1.toNat), (3, o.ac.toNat)]
    format := constChecks o true
    hold := fun s c _ _ _ => queueHold s c
    act := fun s c _ _ ms => actConst o .txp [] s c ms }
/-- TXP (R424). -/
def execTxp (o : OpX) (s : State) : Answer := execX o (txpX o) s

/-- The uniform operand B. -/
def readUni (o : OpX) (c : Ctx) (f : Fibre) : Except Stop (Nat × Int) := do
  let b ← srcField c f true o.b
  return (b.toNat, 0)

/-- The range of a scratchpad operand: alignment to 128 bytes, allocation, then the domain's locks, and for a drain, which writes, the
blocks of circular buffers in use (R142, R212). -/
def scratchRange (c : Ctx) (f : Fibre) (a size : Nat) (write : Bool) : Except Stop Unit := do
  if a % 128 ≠ 0 then stopFault Cause.misaligned a
  spRange c.g f a size
  if spanLocked c.s c.u (domainOf c.g f) c.slot 1 a size false || (write && blockHit c.s c.u c.slot a size) then
    stopFault Cause.rangeLock a
  return ()

/-- What TPERM signs with (R424). -/
def tpermX (o : OpX) : XOp :=
  {
    opc := 0x0F7, op := .tperm, names := [(2, o.t1.toNat), (3, o.ac.toNat)]
    format := constChecks o true
    readB := readUni o
    last := fun c f b => scratchRange c f b.1 128 false
    hold := fun s c _ _ _ => queueHold s c
    act := fun s c _ b ms => actConst o .tperm (bytesGet c.g.scratch b.1 128) s c ms }
/-- TPERM (R424): the index vector is read at set completion, and its offset is checked last. -/
def execTperm (o : OpX) (s : State) : Answer := execX o (tpermX o) s

/-- What TRRED signs with (R424). -/
def trredX (o : OpX) : XOp :=
  {
    opc := 0x0F8, op := .trred, names := [(2, o.t1.toNat), (3, o.ac.toNat)]
    format := constChecks o false
    hold := fun s c _ _ _ => queueHold s c
    act := fun s c _ _ ms => actConst o .trred [] s c ms }
/-- TRRED (R424). -/
def execTrred (o : OpX) (s : State) : Answer := execX o (trredX o) s

/-- What AZERO signs with (R332). -/
def azeroX (o : OpX) : XOp :=
  {
    opc := 0x0F3, op := .azero, names := [(3, o.ac.toNat)]
    hold := fun s c _ _ _ => queueHold s c
    act := fun s c _ _ ms => enqueue s c.u (entryOf s c o .azero ms) }
/-- AZERO (R332). -/
def execAzero (o : OpX) (s : State) : Answer := execX o (azeroX o) s

/-- TC(T1) after a drain into T1 (R197). -/
def drainTc (fa : Nat) : DWord :=
  BitVec.ofNat 64 (0x3F803F80 * 2 ^ 32 + (if fa = 8 || fa = 10 then 128 * 2 ^ 16 else 0) + fa)

/-- The formats a drain accepts from an accumulator (R196). -/
def drainSuits (isInt : Bool) (fa : Nat) : Bool := fa == 1 || (if isInt then intFmt fa else 2 ≤ fa && fa ≤ 8)

/-- A writer of a tile meets its busy bit: TILE_BUSY with NW, else the last signer waits (R202). -/
def busyRefuse (c : Ctx) (t : Nat) (nw : Bool) : Except Stop Unit :=
  if nw && tileBusy c.s c.u c.slot t then stopFault Cause.tileBusy t else .ok ()

/-- What a drain to a tile signs with (R196, R197). -/
def tileDrainX (o : OpX) (opc : Nat) (op : MOp) : XOp :=
  let t1 := o.t1.toNat
  let nw := noWait o.md.toNat
  {
    opc := opc, op := op, names := [(2, t1), (3, o.ac.toNat)]
    format := fun s c g => firstRefuse [
      fmtAcc (!drainSuits (accWillBeInt s c.u c.slot o.ac.toNat g) o.fa.toNat) o.ac.toNat, fmtTile (o.fa.toNat == 1) t1]
    later := fun _ c _ _ _ => busyRefuse c t1 nw
    hold := fun s c _ _ _ => if tileBusy s c.u c.slot t1 then some (.tile t1) else queueHold s c
    act := fun s c _ _ ms =>
      (enqueue s c.u { entryOf s c o op ms with waits := tilePending s c.u c.slot t1 }).modGroup c.u c.slot fun g =>
        { g with tcs := sset g.tcs t1 (drainTc o.fa.toNat) } }
/-- A drain to a tile. -/
def drainToTile (o : OpX) (opc : Nat) (op : MOp) (s : State) : Answer := execX o (tileDrainX o opc op) s

/-- What a drain to scratchpad signs with (R198). -/
def scratchDrainX (o : OpX) : XOp :=
  let size := 128 * drainWidth o.fa.toNat
  let set := fun (b : Nat × Int) => [(1, true, linesOf [(b.1, size)])]
  {
    opc := 0x0F1, op := .adrain, names := [(3, o.ac.toNat)]
    format := fun s c g => fmtAcc (!drainSuits (accWillBeInt s c.u c.slot o.ac.toNat g) o.fa.toNat) o.ac.toNat
    readB := readUni o
    later := fun _ c _ f b => scratchRange c f b.1 size true
    hold := fun s c g f b =>
      match queueHold s c with
      | some w => some w
      | none => if lockShort s c.u (domainOf g f) (set b) then some .lockEntries else none
    waits := true
    act := fun s c f b ms =>
      enqueue (takeLocks s c.u s.nextId (domainOf c.g f) c.slot (set b)) c.u { entryOf s c o .adrain ms with addr := b.1 } }
/-- A drain to scratchpad: its range is locked, and the members wait for its writes (R198). -/
def drainToScratch (o : OpX) (s : State) : Answer := execX o (scratchDrainX o) s

/-- ADRAIN (R328). -/
def execAdrain (o : OpX) (s : State) : Answer :=
  if drainScratch o.md.toNat then drainToScratch o s else drainToTile o 0x0F1 .adrain s
/-- ADRAIN.byp (R199, R328). -/
def execAdrainByp (o : OpX) (s : State) : Answer := drainToTile o 0x0F2 .adrainByp s

/-! ## TLD and TST -/

/-- Bytes of a row that a transfer moves. -/
def rowWidth (fmt : Nat) : Nat := if elemBits fmt = 6 then 96 else 128

/-- B, and the row stride from the register after it (R419). -/
def readTileAddr (o : OpX) (c : Ctx) (f : Fibre) : Except Stop (Nat × Int) :=
  let n := o.b.r.toNat
  if o.md.getLsbD 0 then do
    let b ← srcReg c f 1 n o.b.w
    if o.fa = 0 then return (b.toNat, 0)
    let st ← srcReg c f 1 (n + 1) o.b.w
    return (b.toNat, st.toInt)
  else do
    let b ← srcPairReg c f 1 n o.b.w
    if o.fa = 0 then return (b.toNat, 0)
    let st ← srcReg c f 1 (n + 2) o.b.w
    return (b.toNat, st.toInt)

/-- The addresses of the rows moved: rows below NROW, or the lines of the image (R419, R420). -/
def rowAddrs (o : OpX) (tc : DWord) (b : Nat × Int) : List Nat :=
  if o.fa = 0 then (List.range 160).map fun i => b.1 + 128 * i
  else (List.range (tcRows tc)).map fun (i : Nat) => wrapNat (b.1 + i * b.2) (if o.md.getLsbD 0 then 32 else 64)

/-- The rows of a scratchpad transfer; an FP6 row starts a group (R371, R421). -/
def spRows (o : OpX) (c : Ctx) (f : Fibre) (w : Nat) : List Nat → Except Stop (List TileRow)
  | [] => .ok []
  | a :: t => do
    if a % (if o.fa = 0 then 128 else 16) ≠ 0 || (w = 96 && a % 3 ≠ 0) then stopFault Cause.misaligned a
    spRange c.g f a w
    let rs ← spRows o c f w t
    return { va := a, pa := a } :: rs

/-- The scale bytes of a row on a scaled page: K ÷ L bytes (R421). -/
def rowScales (tc : DWord) : Nat := tileK (tcFmt tc) / blockLen (tcBlk tc)

/-- A scale byte of a transfer: like the row's page, its page belongs to the package (R421). -/
def scaleHere (c : Ctx) (f : Fibre) (kind : Access) (a : Nat) : Except Stop Target := do
  let p ← pageG c f a 1 kind false [0]
  if paPkg p.pa ≠ c.s.pkg then stopFault Cause.permission a
  reachG c f a p

/-- A row of a global transfer: page bounds, the FP6 rule, the page's format and block code, the first element's place in its
block, the scale bytes, and no page of another package (R421). -/
def gRow (o : OpX) (c : Ctx) (f : Fibre) (kind : Access) (tc : DWord) (w a : Nat) : Except Stop TileRow := do
  let p ← translate c.s c.u (whoOf c.s c.u c.g f) a kind 16
  let off := a - p.first
  if off + w > p.size then stopFault Cause.misaligned a
  if o.fa = 0 && p.fmt ≠ 0 then stopFault Cause.format a
  if o.fa ≠ 0 && elemBits (tcFmt tc) = 6 && off % 3 ≠ 0 then stopFault Cause.misaligned a
  if o.fa ≠ 0 && p.blk ≠ 0 && elemIndex (tcFmt tc) off % blockLen p.blk ≠ 0 then stopFault Cause.misaligned a
  if o.fa ≠ 0 && (p.fmt ≠ tcFmt tc || p.blk ≠ tcBlk tc) then stopFault Cause.format a
  if paPkg p.pa ≠ c.s.pkg then stopFault Cause.permission a
  let slot ← routeCheck c.s c.u (domainOf c.g f) a p.pa
  islandCheck c.s c.u a p.pa
  if o.fa = 0 || p.blk = 0 then return { va := a, pa := p.pa, slot := slot }
  else do
    let s0 := scaleAddr p (elemIndex (tcFmt tc) off)
    let q0 ← scaleHere c f kind s0
    let q1 ← scaleHere c f kind (wrapNat (s0 + (rowScales tc : Int) - 1) 64)
    return { va := a, pa := p.pa, sc0 := q0.pa c.s, sc1 := q1.pa c.s, sva := some s0, slot := slot, sslot := q0.slot }

/-- The rows of a global transfer. -/
def gRows (o : OpX) (c : Ctx) (f : Fibre) (kind : Access) (tc : DWord) (w : Nat) : List Nat → Except Stop (List TileRow)
  | [] => .ok []
  | a :: t => do
    let r ← gRow o c f kind tc w a
    let rs ← gRows o c f kind tc w t
    return r :: rs

/-- The rows of a transfer after its checks (R421): alignment of every row first. -/
def tileRows (o : OpX) (c : Ctx) (g : Group) (f : Fibre) (kind : Access) (b : Nat × Int) : Except Stop (List TileRow) :=
  let tc := g.tc o.t1.toNat
  let w := if o.fa = 0 then 128 else rowWidth (tcFmt tc)
  let as := rowAddrs o tc b
  if o.md.getLsbD 0 then spRows o c f w as
  else
    match as.find? fun a => a % (if o.fa = 0 then 128 else 16) != 0 with
    | some a => stopFault Cause.misaligned a
    | none => gRows o c f kind tc w as

/-- The lock set of a transfer. -/
def tileLocks (o : OpX) (tc : DWord) (dest : Bool) (rows : List TileRow) : LockSet :=
  let w := if o.fa = 0 then 128 else rowWidth (tcFmt tc)
  [(if o.md.getLsbD 0 then 1 else 0, dest, linesOf (rows.map fun r => (r.va, w)))]

/-- The FORMAT checks of a transfer before its addresses (R421). -/
def tileFormat (o : OpX) (g : Group) : Refuse :=
  let t1 := o.t1.toNat
  if o.fa = 0 then none
  else fmtTile (!tcOk (g.tc t1) || o.fa.toNat != tcFmt (g.tc t1) || (o.md.getLsbD 0 && tcBlk (g.tc t1) != 0)) t1

/-- The checks of rows and locks. -/
def tileLater (o : OpX) (kind : Access) (destOnly : Bool) (c : Ctx) (g : Group) (f : Fibre) (b : Nat × Int) :
    Except Stop (List TileRow) := do
  let rows ← tileRows o c g f kind b
  let tc := g.tc o.t1.toNat
  let w := if o.fa = 0 then 128 else rowWidth (tcFmt tc)
  match rows.find? fun r =>
      spanLocked c.s c.u (domainOf g f) c.slot (if o.md.getLsbD 0 then 1 else 0) r.va w destOnly with
  | some r => stopFault Cause.rangeLock r.va
  | none => return rows

/-- Start a tile transfer: locks taken, the entry given to the copy engine. -/
def startTransfer (o : OpX) (op : MOp) (kind : Access) (s : State) (c : Ctx) (f : Fibre) (b : Nat × Int) (ms : List Signer) :
    State :=
  let tc := c.g.tc o.t1.toNat
  match tileRows o { c with s := s } c.g f kind b with
  | .error _ => s
  | .ok rows =>
    let s1 := takeLocks s c.u s.nextId (domainOf c.g f) c.slot (tileLocks o tc (op == .tst) rows)
    { s1.modCore c.u (fun k => { k with transfers := k.transfers ++
        [{ entryOf s c o op ms with rows := rows, addr := b.1, waits := tilePending s c.u c.slot o.t1.toNat }] }) with
      nextId := s.nextId + 1 }

/-- Too few lock entries for a transfer (R210). -/
def transferHold (o : OpX) (kind : Access) (dest : Bool) (s : State) (c : Ctx) (g : Group) (f : Fibre) (b : Nat × Int) :
    Option Wait :=
  match tileRows o { c with s := s } g f kind b with
  | .error _ => none
  | .ok rows => if lockShort s c.u (domainOf g f) (tileLocks o (g.tc o.t1.toNat) dest rows) then some .lockEntries else none

/-- What TLD signs with (R421). -/
def tldX (o : OpX) : XOp :=
  let t1 := o.t1.toNat
  {
    opc := 0x0F4, op := .tld, names := [(2, t1)]
    format := fun _ _ g => tileFormat o g
    readB := readTileAddr o
    later := fun _ c g f b => do
      let _ ← tileLater o .load true c g f b
      busyRefuse c t1 (noWait o.md.toNat)
    hold := fun s c g f b =>
      if tileBusy s c.u c.slot t1 then some (.tile t1) else transferHold o .load false s c g f b
    act := fun s c f b ms => startTransfer o .tld .load s c f b ms }
/-- TLD (R421). -/
def execTld (o : OpX) (s : State) : Answer := execX o (tldX o) s

/-- What TST signs with (R422). -/
def tstX (o : OpX) : XOp :=
  {
    opc := 0x0F5, op := .tst, names := [(2, o.t1.toNat)]
    format := fun _ _ g => tileFormat o g
    readB := readTileAddr o
    later := fun _ c g f b => do
      let _ ← tileLater o .store false c g f b
      return ()
    hold := fun s c g f b => transferHold o .store true s c g f b
    waits := true
    act := fun s c f b ms => startTransfer o .tst .store s c f b ms }
/-- TST (R422): the members wait until its bytes are performed. -/
def execTst (o : OpX) (s : State) : Answer := execX o (tstX o) s

/-! ## The queue -/

/-- The array takes the entry; else the drain path does (R190). -/
def MOp.array : MOp → Bool
  | .adrain | .adrainByp => false
  | _ => true
/-- An entry changes its accumulator. -/
def MOp.writesAcc : MOp → Bool
  | .adrain | .adrainByp => false
  | _ => true
/-- An entry that has started holds back a later one through an accumulator (R190). -/
def holdsBack (e n : MEntry) : Bool := e.slot == n.slot && e.ac == n.ac && (e.op.writesAcc || n.op.writesAcc)
/-- A pending write that an entry need not wait for before it starts: a bypass drain that is running into operand A of an MMA that
does not also name the tile as operand B (R199). -/
def bypassed (c : Core) (n : MEntry) (id : Nat) : Bool :=
  n.op == .mma && n.t1 != n.t2 && c.running.any fun e => e.id == id && e.op == .adrainByp && e.t1 == n.t1
/-- The entry at the head of the queue can start. -/
def canStart (c : Core) (n : MEntry) : Bool :=
  !(c.running.any fun e => e.op.array == n.op.array || holdsBack e n) &&
  !(c.ops.any fun x => n.waits.contains x.id && !bypassed c n x.id)

/-- MATRIX_ENTRY_START (R190): the head of the queue starts in the array or the drain path when nothing holds it back. -/
def execMatrixEntryStart (u : Nat) (s : State) : Answer :=
  .next <| match (s.core u).queue with
    | [] => s
    | n :: t =>
      if canStart (s.core u) n then
        s.modCore u fun c => { c with queue := t, running := c.running ++ [{ n with started := true }] }
      else s

/-- An entry completes: its effect on the group, and its flags in every member (R191). -/
def completeEntry (s : State) (u : Nat) (m : MEntry) : State :=
  match s.group u m.slot with
  | none => s.modCore u fun c => { c with running := c.running.filter fun x => x.id != m.id }
  | some g =>
    let r := entryRun g m
    let s1 := (s.setGroup u m.slot r.1).modCore u fun c => { c with running := c.running.filter fun x => x.id != m.id }
    giveFlags s1 u m.slot m.members r.2

/-- MATRIX_ENTRY_COMPLETE (R191, R195 to R197, R200 to R202): an entry other than a drain to scratchpad. -/
def execMatrixEntryComplete (u idx : Nat) (s : State) : Answer :=
  .next <| match ((s.core u).running.filter fun m => !(m.op == .adrain && drainScratch m.md))[idx]? with
    | none => s
    | some m => if waitsDone (s.core u) m then completeEntry s u m else s

/-- DRAIN_WRITE_COMPLETE (R198): the rows are in scratchpad, the members go on, and the lock is released. -/
def execDrainWriteComplete (u idx : Nat) (s : State) : Answer :=
  .next <| match ((s.core u).running.filter fun m => m.op == .adrain && drainScratch m.md)[idx]? with
    | none => s
    | some m => dropLocks (wakeSigned (completeEntry s u m) u m.slot m.conv m.members) u m.id

/-! ## Transfers -/

/-- A transfer of the copy engine ends. -/
def endTransfer (s : State) (u : Nat) (m : MEntry) : State :=
  dropLocks (s.modCore u fun c => { c with transfers := c.transfers.filter fun x => x.id != m.id }) u m.id

/-- A member's earlier access to a row of the source is not yet performed (R179). -/
def rowsBusy (s : State) (u : Nat) (m : MEntry) : Bool :=
  s.flights.any fun f => f.u == u && f.slot == m.slot && f.id < m.id && f.parts.any fun p =>
    m.members.contains p.fibre && m.rows.any fun r =>
      p.touches { fibre := 0, addr := r.pa, size := 128 } ||
      (r.sva.isSome && (p.touches { fibre := 0, addr := r.sc0, size := 1 } || p.touches { fibre := 0, addr := r.sc1, size := 1 }))

/-- How a piece of a transfer's source fails: none, or its cause (R421). The 16-byte pieces of rows are numbered eight to a row; 1280 + i
stands for every scale byte of row i. A piece that the clamps of an island cut off fails with ISLAND_OFFLINE (R16). -/
def pieceBad (s : State) (u : Nat) (m : MEntry) (bad : List (Nat × Bool)) (n pa : Nat) (cut : Bool) : Option Nat :=
  match bad.find? fun e => e.1 == n with
  | some e => some (if e.2 then Cause.homeLost else Cause.machineCheck)
  | none =>
    if m.md.testBit 0 then none
    else if cut then some Cause.islandOffline
    else if (dieLost s (dieOf u)).testBit (paDie pa) then some Cause.homeLost
    else if isPoisoned s pa then some Cause.machineCheck
    else none

/-- The bytes of a transfer at an address of its space. -/
def xferBytes (s : State) (u : Nat) (m : MEntry) (a n : Nat) : List Byte :=
  if m.md.testBit 0 then
    match s.group u m.slot with
    | none => List.replicate n 0
    | some g => bytesGet g.scratch a n
  else paBytes s a n

/-- Row i as TLD loads it: its bytes, a failed piece as zeros, with the first failure. -/
def loadRow (s : State) (u : Nat) (m : MEntry) (bad : List (Nat × Bool)) (i : Nat) (r : TileRow) (w : Nat) :
    List Byte × List (Nat × Nat) :=
  (List.range (w / 16)).foldl (fun (x : List Byte × List (Nat × Nat)) p =>
    match pieceBad s u m bad (8 * i + p) (r.pa + 16 * p) r.cut with
    | some cause => (x.1 ++ List.replicate 16 0, x.2 ++ [(cause, r.va + 16 * p)])
    | none => (x.1 ++ xferBytes s u m (r.pa + 16 * p) 16, x.2)) ([], [])

/-- The physical address of scale byte j of a row. -/
def scalePa (r : TileRow) (n j : Nat) : Nat :=
  if r.sc0 % 65536 + j < 65536 then r.sc0 + j else r.sc1 - (n - 1 - j)

/-- What the reads of a load do at the homes of its rows and scale bytes (R138, R155, R156). -/
def touchRows (s : State) (m : MEntry) : State :=
  if m.md.testBit 0 then s
  else m.rows.foldl (fun s r =>
    let s1 := if r.cut then s else (cutLines r.pa (List.replicate (rowWidth (tcFmt m.tc1)) 0)).foldl (fun s p => noteRead s p.1) s
    if r.sva.isSome && !r.scut then noteRead (noteRead s1 r.sc0) r.sc1 else s1) s

/-- The bytes that TLD writes for row i: 128 bytes of the row and the 32 bytes of its side-store, with the failures, each at its own
source address. -/
def tldRow (s : State) (u : Nat) (m : MEntry) (bad : List (Nat × Bool)) (i : Nat) (r : TileRow) :
    List Byte × List Byte × List (Nat × Nat) :=
  let w := rowWidth (tcFmt m.tc1)
  let x := loadRow s u m bad i r w
  let n := if tcBlk m.tc1 = 0 then 0 else rowScales m.tc1
  let y := (List.range n).foldl (fun (y : List Byte × List (Nat × Nat)) j =>
    let a := scalePa r n j
    match pieceBad s u m bad (1280 + i) a r.scut with
    | some cause => (y.1 ++ [0], y.2 ++ [(cause, r.sva.getD 0 + j)])
    | none => (y.1 ++ paBytes s a 1, y.2)) ([], [])
  (x.1 ++ List.replicate (128 - w) 0, y.1 ++ List.replicate (32 - n) 0, x.2 ++ y.2)

/-- TLD_COMPLETE (R421): the rows are in the tile, the pending write and the locks clear, and the first failed piece is reported
by a record of no fibre. -/
def execTldComplete (u idx : Nat) (bad : List (Nat × Bool)) (s : State) : Answer :=
  .next <| match ((s.core u).transfers.filter fun m => m.op == .tld)[idx]? with
    | none => s
    | some m =>
      if !waitsDone (s.core u) m || rowsBusy s u m then s
      else
        let t := 32768 * m.t1
        let xs := m.rows.zipIdx.map fun e =>
          if m.fa = 0 then
            let x := loadRow s u m bad e.2 e.1 128
            ([(t + 128 * e.2, x.1)], x.2)
          else
            let x := tldRow s u m bad e.2 e.1
            ([(t + 128 * e.2, x.1), (t + 16384 + 32 * e.2, x.2.1)], x.2.2)
        let s1 := (touchRows s m).modGroup u m.slot fun g =>
          { g with tiles := (xs.flatMap (·.1)).foldl (fun b e => bytesSet b e.1 e.2) g.tiles }
        let s2 := match (xs.flatMap (·.2)).head? with
          | some (cause, a) => s1.sendNoFibre (dieOf u) cause a
          | none => s1
        endTransfer s2 u m

/-- The bytes of a row that TST writes (R422). -/
def tstRow (g : Group) (m : MEntry) (i : Nat) : List Byte :=
  bytesGet g.tiles (32768 * m.t1 + 128 * i) (if m.fa = 0 then 128 else rowWidth (tcFmt m.tc1))
/-- A piece of what TST writes: its virtual and physical address and its bytes. -/
def tstPart (g : Group) (va pa : Nat) (bs : List Byte) : Part :=
  { fibre := 8192, addr := pa, size := bs.length, data := bs, page := some (g.pasid, va, bs.length) }
/-- The pieces of a row, and those of its scale bytes (R422). -/
def tstRowParts (g : Group) (m : MEntry) (i : Nat) (r : TileRow) : List Part :=
  (cutLines r.pa (tstRow g m i)).map fun p => tstPart g (r.va + (p.1 - r.pa)) p.1 p.2
def tstScaleParts (g : Group) (m : MEntry) (i : Nat) (r : TileRow) : List Part :=
  let n := if m.fa = 0 || m.md.testBit 0 || tcBlk m.tc1 = 0 then 0 else rowScales m.tc1
  (List.range n).map fun j => tstPart g (r.sva.getD 0 + j) (scalePa r n j) (bytesGet g.tiles (32768 * m.t1 + 16384 + 32 * i + j) 1)
/-- The writes of TST, each with its slot: one for every line (R287, R290, R422). -/
def tstWrites (g : Group) (m : MEntry) : List (Option Nat × List Part) :=
  let ps := m.rows.zipIdx.flatMap fun e =>
    (if e.1.cut then [] else (tstRowParts g m e.2 e.1).map fun p => (e.1.slot, p)) ++
    (if e.1.scut then [] else (tstScaleParts g m e.2 e.1).map fun p => (e.1.sslot, p))
  (groupBy (fun p => lineOf p.2.addr) ps).map fun e => ((e.2.head?.bind (·.1)), e.2.map (·.2))

/-- Change a transfer of the copy engine. -/
def modTransfer (s : State) (u id : Nat) (f : MEntry → MEntry) : State :=
  s.modCore u fun c => { c with transfers := c.transfers.map fun x => if x.id = id then f x else x }
/-- A write of TST to a line has been applied at time `t`: the largest T that the members wait for (R168, R422). -/
def tstApplied (s : State) (u id pa t : Nat) : State :=
  match reportT s (dieOf u) (paDie pa) pa t with
  | none => s
  | some t => modTransfer s u id fun x => { x with t := Nat.max x.t t }
/-- Send a write of TST to a line when its slot, if it is still mapped, has room for it; the answer says whether it is off. A lost home
takes nothing (R283). -/
def tstSend (s : State) (u : Nat) (m : MEntry) (e : Option Nat × List Part) : State × Bool :=
  match e.2 with
  | [] => (s, true)
  | q :: _ =>
    let a := q.addr
    let d := paDie a
    let charge := packetCharge (e.2.map (·.size)).sum
    let slot := e.1.filter fun n => slotValid s u n
    if (dieLost s (dieOf u)).testBit d then (s, true)
    else if slot.any fun n => decide (allow s u n < charge) then (s, false)
    else
      let s1 := match slot with
        | some n => chargeSlot s u n charge
        | none => s
      let f : Flight := { id := s.nextId, u := u, slot := m.slot, kind := .store, pa := a / 128 * 128, origin := .tst m.id,
                          since := s.now (dieOf u), parts := e.2 }
      let r := reachHome (addFlight s1 f) d f
      (if r.2 then tstApplied r.1 u m.id a (completionTime s d a) else r.1, true)

/-- The members of a TST go on, with the largest T in their WCT. -/
def tstEnd (s : State) (u : Nat) (m : MEntry) : State :=
  endTransfer (wakeSigned (m.members.foldl (fun s id => raiseWct s u m.slot id m.t) s) u m.slot m.conv m.members) u m
/-- A TST ends when every write is sent and performed, which for another die means after the wait of R168. -/
def tstSettle (s : State) (u id : Nat) : State :=
  match (s.core u).transfers.find? fun m => m.id == id with
  | none => s
  | some m =>
    if m.todo.isEmpty && !(s.flights.any fun f => f.origin == .tst id) && (m.t = 0 || decide (m.t + 4 < s.now (dieOf u))) then
      tstEnd s u m
    else s
/-- Send the first of the writes still to send whose slot has room: one line (R215). -/
def tstNext (s : State) (u : Nat) (m : MEntry) : List (Option Nat × List Part) → State × List (Option Nat × List Part)
  | [] => (s, [])
  | e :: t =>
    let x := tstSend s u m e
    if x.2 then (x.1, t)
    else
      let r := tstNext s u m t
      (r.1, e :: r.2)
/-- A TST sends its next line; with the last it may end. -/
def tstRun (s : State) (u : Nat) (m : MEntry) : State :=
  let r := tstNext s u m m.todo
  tstSettle (modTransfer r.1 u m.id fun x => { x with todo := r.2 }) u m.id

/-- TST_COMPLETE (R422): the tile is read; its lines are written under R167, one with each of these events, as the slots of other dies
have room (R290), so that a forced halt can find it part written (R215, R423); when all are performed the members go on and the locks are
released. -/
def execTstComplete (u idx : Nat) (s : State) : Answer :=
  .next <| match ((s.core u).transfers.filter fun m => m.op == .tst)[idx]? with
    | none => s
    | some m =>
      if !(s.die (dieOf u)).alive then s
      else if m.started then tstRun s u m
      else if !waitsDone (s.core u) m || rowsBusy s u m then s
      else
        match s.group u m.slot with
        | none => endTransfer s u m
        | some g =>
          if m.md.testBit 0 then
            tstEnd (s.modGroup u m.slot fun g =>
              { g with scratch := m.rows.zipIdx.foldl (fun b e => bytesSet b e.1.pa (tstRow g m e.2)) g.scratch }) u m
          else
            let m1 := { m with started := true, todo := tstWrites g m }
            tstRun (modTransfer s u m.id fun _ => m1) u m1

end Sys2Proof.Machine
end

