-- ==== Sys2Proof/Machine/System.lean ====
section
/-! DEFINITION. The control and status registers (R19, R62 to R66, R185, R239, R240, R246, R288) and MFSR and MTSR (R378, R379). -/

namespace Sys2Proof.Machine

/-- DIECAP (R19): CLEN, STKP, CAPD, DIEID, DSMSZ, ISUP, STEP. -/
def diecapWord (s : State) (d : Nat) : Word :=
  let x := s.die d
  let up := fun k => if clamped s d k then 0 else 1
  BitVec.ofNat 32 (x.clen.toNat * 2 ^ 24 + x.stkp.toNat * 2 ^ 20 + (if x.capd then 2 ^ 19 else 0) + d * 2 ^ 16 +
    (if x.capd then 16 else 8) * 2 ^ 8 + (up 1 * 2 + up 0) * 16 + x.step.toNat)

/-- The DPART set in force for a fibre (R239). -/
def setInForce (g : Group) (f : Fibre) : Nat :=
  match f.gate with
  | some t => t.tset
  | none => g.set
/-- DOMID (R239); a supervisor group reads 0 (R12). -/
def domidWord (u : Nat) (g : Group) (f : Fibre) : Word :=
  if isSupCore u then 0
  else BitVec.ofNat 32 ((if f.gate.isSome then 2 ^ 11 else 0) + setInForce g f * 2 ^ 8 + domainOf g f)

/-- KEYID: the KEY of the set in force (R240, R254). -/
def keyidWord (c : Core) (u : Nat) (g : Group) (f : Fibre) : Word :=
  if isSupCore u then 0 else BitVec.ofNat 32 (dpartKey (sgetD c.dparts (setInForce g f) {}).reg)

/-- VSTATEk (R64). -/
def vstateWord (g : Group) (f : Fibre) (k : Nat) : Word :=
  BitVec.ofNat 32 (((List.range 16).map fun i =>
    if 16 * k + i < vecCount g f then (f.reg (16 * k + i)).st.code * 4 ^ i else 0).foldl (· + ·) 0)
/-- USTATEk (R64). -/
def ustateWord (g : Group) (f : Fibre) (k : Nat) : Word :=
  BitVec.ofNat 32 (((List.range 16).map fun i =>
    if 16 * k + i < uniCount g f then (g.ureg (16 * k + i)).st.code * 4 ^ i else 0).foldl (· + ·) 0)
/-- CONVSTn (R64). -/
def convstWord (g : Group) (n : Nat) : Word :=
  BitVec.ofNat 32 ((g.conv n).signers.length * 2 ^ 16 + (g.conv n).e)
/-- ACCFMT (R65); no accumulator is a gate's (R254). -/
def accfmtWord (g : Group) (f : Fibre) : Word :=
  if f.gate.isSome then 0 else BitVec.ofNat 32 (g.accInt.toNat % 2 ^ Nat.min g.hdr.kaccs 8)

/-- A 64-bit register (R62). -/
def csr64 (n : Nat) : Bool :=
  n == 4 || n == 5 || n == 0x011 || n == 0x012 || (0x020 ≤ n && n ≤ 0x02F) || (0x080 ≤ n && n ≤ 0x087)

/-- A register as a fibre reads it now (R62, R378). -/
def csrValue (s : State) (u id : Nat) (g : Group) (f : Fibre) (n : Nat) : DWord :=
  let c := s.core u
  let w : Word → DWord := fun x => x.setWidth 64
  if n = 0x000 then w (fstatWord f)
  else if n = 0x001 then BitVec.ofNat 64 id
  else if n = 0x002 then BitVec.ofNat 64 g.grpIx
  else if n = 0x003 then BitVec.ofNat 64 g.gangId
  else if n = 0x004 then BitVec.ofNat 64 f.wct
  else if n = 0x005 then BitVec.ofNat 64 (s.now (dieOf u))
  else if n = 0x006 then w (diecapWord s (dieOf u))
  else if n = 0x007 then w (domidWord u g f)
  else if n = 0x010 then w f.fcause
  else if n = 0x011 then f.faddr
  else if n = 0x012 then f.fpc
  else if 0x020 ≤ n && n ≤ 0x02F then g.tc (n - 0x020)
  else if 0x040 ≤ n && n ≤ 0x07F then w (colWord s u (n - 0x040))
  else if 0x080 ≤ n && n ≤ 0x087 then (sgetD c.dparts (n - 0x080) {}).reg
  else if n = 0x088 then w (keyidWord c u g f)
  else if n = 0x089 then s.svcmode.setWidth 64
  else if n = 0x090 then c.dbgstat.setWidth 64
  else if 0x100 ≤ n && n ≤ 0x10F then w (vstateWord g f (n - 0x100))
  else if 0x110 ≤ n && n ≤ 0x113 then w (ustateWord g f (n - 0x110))
  else if 0x120 ≤ n && n ≤ 0x12F then w (convstWord g (n - 0x120))
  else if n = 0x130 then f.signs.setWidth 64
  else if n = 0x131 then w (accfmtWord g f)
  else 0

/-- The producers of R55 among the registers. -/
def csrLate (n : Nat) : Bool :=
  n == 5 || (0x040 ≤ n && n ≤ 0x07F) || (0x100 ≤ n && n ≤ 0x131)

/-- Unfinished flag-setting operations of a fibre (R92). -/
def flagsOwed (s : State) (u slot id : Nat) : Bool :=
  let c := s.core u
  (c.returns.any fun r => r.slot == slot && r.fibre == id && r.holdsFlags) ||
  (c.queue ++ c.running).any fun m => m.slot == slot && m.members.contains id

/-- The checks of an access to a register: FSTAT waits for earlier flags; tile and convergence registers are not a gate's
(R92, R254). -/
def csrCheck (c : Ctx) (ln : Lane) (n : Nat) : Except Stop Unit :=
  if n = 0 && flagsOwed c.s c.u c.slot ln.id then .error (.block .flags)
  else if ln.f.gate.isSome && 0x020 ≤ n && n ≤ 0x02F then stopFault Cause.domain (regInfo 2 (n - 0x020))
  else if ln.f.gate.isSome && 0x120 ≤ n && n ≤ 0x12F then stopFault Cause.domain (Config.gateConvIndex (n - 0x120))
  else .ok ()

/-- Matrix entries of a group that are queued or running (R65). -/
def matrixEntries (s : State) (u slot : Nat) : List Nat :=
  (((s.core u).queue ++ (s.core u).running).filter fun m => m.slot == slot).map (·.id)

/-- MFSR (R378). A VSTATEk or USTATEk that covers the destination itself shows its state before MFSR empties it: DESIGN CHOICE, see the
log. -/
def execMfsr (o : OpS) (s : State) : Answer :=
  let n := o.csrn.toNat
  let wide := csr64 n
  .next <| runLanes s o.g 2
    (fun c ln => do
      destsReady c ln.f (clsOf o.du) o.d.toNat (if wide then 2 else 1)
      csrCheck c ln n
      if 0x040 ≤ n && n ≤ 0x07F then slotCheck c.s c.u (domainOf c.g ln.f) (n - 0x040)
      let v := csrValue c.s c.u ln.id c.g ln.f n
      let ws := destWrites wide (clsOf o.du) o.d.toNat v
      return (if csrLate n then { late := ws } else { regs := ws } : Eff))
    fun c s l =>
      let l' := if o.du then l.take 1 else l
      if n = 0x131 && !(matrixEntries s c.u c.slot).isEmpty then
        l'.foldl (fun s x =>
          if x.1.f.gate.isSome then s.applyEff c x.1 x.2
          else oweReturn c x.1 s x.2.late false false (.matrix (matrixEntries s c.u c.slot))) s
      else commitEffs c s l'

/-- Reserved bits of a TC read zero (R185). -/
def tcMask : DWord := 0xFFFFFFFF01FFFFCF
/-- Reserved bits of FCAUSE read zero (R246). -/
def fcauseMask : DWord := 0x07C0FFFF

/-- The DPART set that an MTSR of `v` commits (R240). -/
def dpartFrom (s : State) (u n : Nat) (v : DWord) : Dpart := { reg := v, ext := extEntry s u n }

/-- A write of a register by a fibre (R379). -/
def csrWrite (s : State) (u slot id n : Nat) (v : DWord) : State :=
  if n = 0x000 then s.modFibre u slot id (setFstat (v.setWidth 32))
  else if n = 0x010 then s.modFibre u slot id fun f => { f with fcause := (v &&& fcauseMask).setWidth 32 }
  else if n = 0x011 then s.modFibre u slot id fun f => { f with faddr := v }
  else if n = 0x012 then s.modFibre u slot id fun f => { f with fpc := v }
  else if 0x020 ≤ n && n ≤ 0x02F then s.modGroup u slot fun g => { g with tcs := sset g.tcs (n - 0x020) (v &&& tcMask) }
  else if 0x040 ≤ n && n ≤ 0x07F then
    noteCause (modSlot s u (n - 0x040) fun x => { x with ceiling := Nat.max 5120 (v.toNat % 2 ^ 28) }) u (n - 0x040)
  else if 0x080 ≤ n && n ≤ 0x087 then commitDpart s u (n - 0x080) (dpartFrom s u (n - 0x080) v)
  else if n = 0x089 then { s with svcmode := v.setWidth 5 }
  else if n = 0x090 then s.modCore u fun c => { c with dbgstat := c.dbgstat &&& ~~~(v.setWidth 2) }
  else s

/-- What makes an MTSR wait: a tile that is busy or has a pending write (R202), flags that have not landed (R92). -/
def csrHold (s : State) (u slot id n : Nat) : Option Wait :=
  if n = 0 then (if flagsOwed s u slot id then some .flags else none)
  else if 0x020 ≤ n && n ≤ 0x02F && (tileBusy s u slot (n - 0x020) || !(tilePending s u slot (n - 0x020)).isEmpty) then
    some (.tile (n - 0x020))
  else none

/-- The core after the DPART commits of the lanes before lane `l` (R241). -/
def dpartBefore (o : OpS) (c : Ctx) (ln : Lane) (n : Nat) : Core :=
  ((activeOf o.g (predFree o.g c.lanes)).takeWhile fun x => x.id != ln.id).foldl (fun k x =>
    match srcPair c x.f o.ua o.a with
    | .ok v => { k with dparts := sset k.dparts n (dpartFrom c.s c.u n v) }
    | .error _ => k) (c.s.core c.u)

/-- MTSR (R379). The check of class 11 does not apply to a supervisor core (R12). -/
def execMtsr (o : OpS) (s : State) : Answer :=
  let n := o.csrn.toNat
  .next <| runLanes s o.g 2
    (fun c ln => do
      let v ← srcTyped c ln.f (csr64 n) o.ua o.a
      csrCheck c ln n
      match csrHold c.s c.u c.slot ln.id n with
      | some w => throw (Stop.block w)
      | none => pure ()
      if !isSupCore c.u && 0x080 ≤ n && n ≤ 0x087 && dpartRefused (dpartBefore o c ln (n - 0x080)) (n - 0x080) (dpartFrom c.s c.u (n - 0x080) v) then
        stopFault Cause.domain (11 * 256 + (n - 0x080))
      return v)
    fun c s l => l.foldl (fun s x => csrWrite s c.u c.slot x.1.id n x.2) s

end Sys2Proof.Machine
end

