-- ==== Sys2Proof/Machine/Sched.lean ====
section
/-! DEFINITION. The scheduler's tables and its placement of gangs: queues and partitions (R223, R229), what a core offers a domain
(R43), the order of the cores (R228), landing slots (R279), the working of a placement (R42, R230), frames at admission (R257),
restarts from region frames (R259), restores from save areas (R67 to R69, R261), and the start of a gang (R29, R236). -/

namespace Sys2Proof.Machine

/-! ## Queues and partitions -/

/-- Die, number, island and home core unit of a queue in the QUEUE layout (R222, R223). -/
def queueDie (q : Nat) : Nat := q / 1024 % 8
def queueIx (q : Nat) : Nat := q % 1024
def queueIsland (q : Nat) : Nat := queueIx q / 512
def queueHome (q : Nat) : Nat := queueDie q * 64 + 16 * queueIsland q + queueIx q % 16
/-- The partition of an island (R229, R307). -/
def partOf (s : State) (d k : Nat) : Nat := bitsOf ((s.die d).num (0x6000E00000 + 8 * k) 8) 61 58
def unitPart (s : State) (u : Nat) : Nat := partOf s (dieOf u) (islandOf u)
def queuePart (s : State) (q : Nat) : Nat := partOf s (queueDie q) (queueIsland q)
/-- The owner word of a queue (R152, R223). -/
def queueOwned (s : State) (dom q : Nat) : Bool :=
  let e := (s.die (queueDie q)).num (0x6000310000 + 4 * queueIx q) 4
  e.testBit 31 && e % 256 == dom
/-- The owner word of the counter that WAITC or DONEC names (R222, R223). -/
def counterNamed (s : State) (dom x : Nat) : Bool := x == 0xFFFFFFFF || (x < 2 ^ 19 && counterOwned s (x / 65536) dom (x % 65536))
/-- WAITC and DONEC: the die and the counter. -/
def ctrDie (x : Word) : Nat := x.toNat / 65536 % 8
def ctrId (x : Word) : Nat := x.toNat % 65536
def noCounter (x : Word) : Bool := x == 0xFFFFFFFF

/-- Tasks that a die holds enqueued or parked (R223). -/
def Task.held (k : Task) (d : Nat) : Bool :=
  queueDie k.queue == d && (match k.st with
    | .ready | .parked | .reserving => true
    | _ => false)
def dieFull (s : State) (d : Nat) : Bool := decide ((s.tasks.filter fun e => e.2.held d).length ≥ 65536)

/-! ## What a core offers (R43) -/

/-- A core that tasks are dispatched to: its die is up, its cluster enabled (R20) and its island open. -/
def coreEnabled (s : State) (u : Nat) : Bool :=
  let x := s.die (dieOf u)
  !isSupCore u && x.alive && x.started && x.clen.getLsbD (coreIx u / 4) && !clamped s (dieOf u) (islandOf u)
/-- The 256 cores of the package, in order. -/
def allCores : List Nat := (List.range 8).flatMap fun d => (List.range 32).map (64 * d + ·)
/-- A count of units over a need; a need of zero leaves `most`. -/
def fitsTimes (most have_ need : Nat) : Nat := if need = 0 then most else Nat.min most (have_ / need)
/-- Set bits of a mask. -/
def bitCount (x width : Nat) : Nat := ((List.range width).filter fun i => x.testBit i).length
/-- Groups of a header that a set holds when all of it is free. -/
def setCapacity (p : Dpart) (h : Header) : Nat :=
  let n1 := fitsTimes 32 4096 h.kfibs
  let n2 := fitsTimes n1 p.vgran (h.kfibs * (granules8 h.kregs / 8))
  let n3 := fitsTimes n2 p.ugran (granules8 h.kuni / 8)
  let n4 := fitsTimes n3 (bitCount p.sbm 64) (scratchBanks h.kscr)
  let n5 := fitsTimes n4 (bitCount p.tsm 32) h.ktiles
  fitsTimes n5 (bitCount p.asm 16) h.kaccs
/-- What a core offers a domain, in groups of a header. -/
def coreCapacity (s : State) (u dom : Nat) (h : Header) : Nat :=
  if coreEnabled s u then
    match dpartOf s u dom with
    | some e => setCapacity e.2 h
    | none => 0
  else 0
/-- A gang eligible for migration (R279). -/
def Header.migrates (h : Header) : Bool := h.ktiles == 0 && h.kaccs == 0 && decide (h.kscr ≤ 65536)
/-- The cores of a partition that may hold groups of a domain, in order. -/
def domainCores (s : State) (part dom : Nat) : List Nat :=
  allCores.filter fun u => coreEnabled s u && unitPart s u == part && (dpartOf s u dom).isSome
/-- The dies on which a gang needs a landing slot (R279). -/
def landingDies (s : State) (part dom : Nat) (h : Header) : List Nat :=
  if h.migrates then (List.range 8).filter fun d => (domainCores s part dom).any fun u => dieOf u == d else []
/-- The shape fits on the listed cores when everything they offer is free, landing slots counted as groups (R43, R230). -/
def fitsFree (s : State) (cores : List Nat) (part dom : Nat) (h : Header) : Bool :=
  let caps := cores.map fun u => (dieOf u, coreCapacity s u dom h)
  let need := landingDies s part dom h
  decide (h.kgrps + need.length ≤ (caps.map (·.2)).foldl (· + ·) 0) &&
  need.all fun d => caps.any fun e => e.1 == d && decide (e.2 ≥ 1)
/-- A shape that is refused: beyond the limits of R43, one group too large for every core, or beyond the partition's capacity
(R43, R230, R415). -/
def shapeRefused (s : State) (part dom : Nat) (h : Header) : Bool :=
  let cores := domainCores s part dom
  !headerLimits h || !(cores.any fun u => decide (coreCapacity s u dom h ≥ 1)) || !fitsFree s cores part dom h

/-! ## Placement -/

/-- The cores of a partition in the tier order of a core: itself, its cluster, its die, the other dies in order (R228). -/
def tierOf (u v : Nat) : Nat :=
  if u = v then 0 else if u / 4 = v / 4 then 1 else if dieOf u = dieOf v then 2 else 3
def tierOrder (u : Nat) (cores : List Nat) : List Nat :=
  (List.range 4).flatMap fun t => cores.filter fun v => tierOf u v == t

/-- A climb on the core's die keeps a domain's tasks from the core (R262, R438). -/
def climbing (s : State) (u dom : Nat) : Bool :=
  (s.die (dieOf u)).climbs.any fun x => x.domain == dom && x.cores.getLsbD (coreIx u)

/-- The cores of a working placement: a group put on a core, as a landing slot, takes its storage. -/
abbrev Working := SMap Core
def workCore (s : State) (w : Working) (u : Nat) : Core := sgetD w u (s.core u)
/-- Put one group on a core, if it fits. -/
def putOne (s : State) (dom : Nat) (h : Header) (w : Working) (u : Nat) : Option (Place × Working) :=
  match dpartOf s u dom with
  | none => none
  | some (_, p) =>
    let c := workCore s w u
    match placeGroup c p h with
    | none => none
    | some x =>
      let g : Group := { hdr := h, st := .landing, domain := dom, vbase := x.vbase, ubase := x.ubase, banks := x.banks,
                         ptiles := x.tiles, paccs := x.accs }
      some (x, sset w u { c with slots := sset c.slots x.slot g })
/-- Put as many of `n` groups on a core as fit. -/
def putSome (s : State) (dom : Nat) (h : Header) (u : Nat) : Nat → Working → List (Nat × Place) × Working
  | 0, w => ([], w)
  | n + 1, w =>
    match putOne s dom h w u with
    | none => ([], w)
    | some (x, w1) =>
      let r := putSome s dom h u n w1
      ((u, x) :: r.1, r.2)
/-- Put `n` groups on the cores in order; the number of places found may be smaller. -/
def putOver (s : State) (dom : Nat) (h : Header) : List Nat → Nat → Working → List (Nat × Place) × Working
  | [], _, w => ([], w)
  | u :: t, n, w =>
    let r := putSome s dom h u n w
    let r2 := putOver s dom h t (n - r.1.length) r.2
    (r.1 ++ r2.1, r2.2)
/-- One place on the first core of a list that can take it. -/
def putFirst (s : State) (dom : Nat) (h : Header) (w : Working) : List Nat → Option (Nat × Place × Working)
  | [] => none
  | u :: t =>
    match putOne s dom h w u with
    | some (x, w1) => some (u, x, w1)
    | none => putFirst s dom h w t
/-- A landing slot on each listed die; `order` lists the cores from the farthest. -/
def putLandings (s : State) (dom : Nat) (h : Header) (order : List Nat) : List Nat → Working →
    Option (List (Nat × Place) × Working)
  | [], w => some ([], w)
  | d :: t, w =>
    match putFirst s dom h w (order.filter fun u => dieOf u == d) with
    | none => none
    | some (u, x, w1) =>
      match putLandings s dom h order t w1 with
      | none => none
      | some (l, w2) => some ((u, x) :: l, w2)

/-- Where a gang goes. -/
structure Plan where
  groups : List (Nat × Place)
  landing : List (Nat × Place)

/-- The reserving task of a partition (R230). -/
def reservingTask (s : State) (part : Nat) : Option (Nat × Task) :=
  s.tasks.find? fun e => (match e.2.st with
    | .reserving => true
    | _ => false) && queuePart s e.2.queue == part

/-- A core on which a task of a level may not be admitted, because a reserving task of the partition holds it (R230). -/
def reservedFrom (s : State) (part t prio u : Nat) : Bool :=
  match reservingTask s part with
  | some (r, k) => r != t && decide (k.prio ≤ prio) && k.chosen.contains u
  | none => false
/-- A header that asks for nothing. -/
def blankHeader : Header :=
  { kent := 0, kscr := 0, kgrps := 0, kfibs := 0, kregs := 0, kuni := 0, ktiles := 0, kaccs := 0, kconv := 0, trapClass := false,
    kframe := 0, hints := [] }
/-- Resources set aside on a core: fibre slots, and runs of vector and uniform granules. -/
def asideGroup (fibres vbase vgran ubase ugran : Nat) (banks tiles accs : List Nat) : Group :=
  { hdr := { blankHeader with kfibs := fibres, kregs := 8 * vgran, kuni := 8 * ugran }, st := .landing, vbase := vbase, ubase := ubase,
    banks := banks, ptiles := tiles, paccs := accs }
/-- What a reserving task of a domain holds on a chosen core: every free resource of its domain's set, and the free group and fibre
slots that its groups can use there, each as it frees (R230). The resources set aside stand beyond the 32 slots. -/
def heldCore (s : State) (n : Nat) (k : Task) (u : Nat) : Core :=
  let c := s.core u
  match dpartOf s u k.domain with
  | none => c
  | some (_, p) =>
    let most := Nat.min n (setCapacity p k.hdr)
    let slots := ((List.range 32).filter fun i => !(c.slots.any fun e => e.1 == i)).take most
    let fibres := Nat.min (4096 - fibresHeld c) (most * k.hdr.kfibs)
    let none_ := asideGroup 0 0 0 0 0 [] [] []
    let set_ := asideGroup (Nat.min fibres 1) p.vbase p.vgran p.ubase p.ugran ((List.range 64).filter fun i => p.sbm.testBit i)
      ((List.range 32).filter fun i => p.tsm.testBit i) ((List.range 16).filter fun i => p.asm.testBit i)
    { c with slots := c.slots ++ slots.map (fun i => (i, none_)) ++ [(32, asideGroup (fibres - 1) 0 0 0 0 [] [] []), (33, set_)] }
/-- The chosen cores as another task finds them: the reserving task of the partition holds what frees there (R230). -/
def heldWork (s : State) (part t : Nat) : Working :=
  match reservingTask s part with
  | some (r, k) =>
    if r = t then []
    else k.chosen.foldl (fun w u => sset w u (heldCore s (k.hdr.kgrps + (landingDies s part k.domain k.hdr).length) k u)) []
  | none => []

/-- The placement of a gang: its first group on the first core of the order, a landing slot on each die that needs one, the other
groups on the nearest cores (R42, R230, R279). None when some part does not fit. -/
def planOn (s : State) (part : Nat) (k : Task) (order : List Nat) (held : Working) : Option Plan :=
  match order with
  | [] => none
  | u :: _ =>
    match putOne s k.domain k.hdr held u with
    | none => none
    | some (x, w) =>
      match putLandings s k.domain k.hdr order.reverse (landingDies s part k.domain k.hdr) w with
      | none => none
      | some (ls, w1) =>
        let rest := putOver s k.domain k.hdr order (k.hdr.kgrps - 1) w1
        if rest.1.length = k.hdr.kgrps - 1 then some ⟨(u, x) :: rest.1, ls⟩ else none

/-- The placement of task `t` from the taking core. -/
def planFor (s : State) (t : Nat) (k : Task) (u : Nat) : Option Plan :=
  let part := unitPart s u
  let cores := (tierOrder u (domainCores s part k.domain)).filter fun v =>
    !climbing s v k.domain && !reservedFrom s part t k.prio v
  if cores.head? = some u then planOn s part k cores (heldWork s part t) else none

/-- The GANGID of a gang at its first admission by a core (R243). -/
def gangIdFor (s : State) (u dom : Nat) : Option Nat :=
  let fpn := domField s (dieOf u) dom 50 2
  (List.range fpn).find? fun v => v % 8 == dieOf u &&
    !(s.tasks.any fun e => e.2.domain == dom && e.2.gangId == some v)

/-! ## Region frames at admission (R257, R259) -/

/-- The frame address of a gang's group and fibre slot. -/
def gangFrame (s : State) (d : Nat) (k : Task) (gang grp f : Nat) : Nat :=
  wrapNat (domField s d k.domain 32 8 + (gang * 256 + grp) * domField s d k.domain 28 4 + f * k.hdr.kframe : Nat) 64
/-- Write bytes of one line behind a translated page, here or in another package: the scheduler's own accesses use no slot. DESIGN
CHOICE (R257 and R287 leave out such a page), as for a walker's reads of another package. -/
def pageWrite (s : State) (p : Page) (off : Nat) (b : List Byte) : State :=
  if paPkg p.pa = s.pkg then homeWrite s (p.pa + off) b else { s with rack := bytesSet s.rack (p.pa + off) b }

/-- Every frame slot of a gang, as group and fibre. -/
def frameSlots (h : Header) : List (Nat × Nat) :=
  if h.kframe = 0 then [] else (List.range h.kgrps).flatMap fun g => (List.range h.kfibs).map fun f => (g, f)
/-- The translation of a frame by the scheduler. -/
def framePage (s : State) (u : Nat) (k : Task) (gang size : Nat) (kind : Access) (e : Nat × Nat) : Except Stop Page :=
  translateNow s u (domainWho s u k.domain false) (gangFrame s (dieOf u) k gang e.1 e.2) kind size
/-- The bytes of a frame that a restart accesses. -/
def frameSize (k : Task) : Nat := Nat.min k.hdr.kframe 128

/-- A frame that the scheduler cannot access, with its cause and address (R257, R259). A restart does not read a frame in a line that
carries poison (R155): DESIGN CHOICE, see the log. -/
def frameBad (s : State) (u : Nat) (k : Task) (gang size : Nat) (load : Bool) : Option (Nat × Nat) :=
  (frameSlots k.hdr).findSome? fun e =>
    let at_ := gangFrame s (dieOf u) k gang e.1 e.2
    let bad := fun kind => match framePage s u k gang size kind e with
      | .error (.fault c _ _) => some (c, at_)
      | .ok p => if kind == .load && isPoisoned s p.pa then some (Cause.machineCheck, at_) else none
      | _ => none
    match bad .store with
    | some x => some x
    | none => if load then bad .load else none
/-- A frame lies in a range under shoot-down, or the host has not answered for it: the admission's walk waits (R276, R314). -/
def framesWait (s : State) (u : Nat) (k : Task) (gang size : Nat) : Bool :=
  (frameSlots k.hdr).any fun e => match framePage s u k gang size .store e with
    | .error (.block _) => true
    | _ => false

/-- Write the header of every frame as zero (R257). -/
def zeroFrames (s : State) (u : Nat) (k : Task) (gang : Nat) : State :=
  (frameSlots k.hdr).foldl (fun s e =>
    match framePage s u k gang 64 .store e with
    | .ok p => pageWrite s p 0 (List.replicate 64 0)
    | .error _ => s) s

/-- The bytes of a frame. -/
def frameBytes (s : State) (u : Nat) (k : Task) (gang grp f : Nat) : List Byte :=
  match framePage s u k gang (frameSize k) .load (grp, f) with
  | .ok p => paBytes s p.pa (frameSize k)
  | .error _ => []
/-- STATE of a frame. -/
def frameState (b : List Byte) : Nat := (b.getD 18 0).toNat
/-- Count a restart in RCNT of every frame whose slot restarts; each frame is read. -/
def countRestarts (s : State) (u : Nat) (k : Task) (gang : Nat) : State :=
  (frameSlots k.hdr).foldl (fun s e =>
    match framePage s u k gang (frameSize k) .store e with
    | .ok p =>
      let b := frameBytes s u k gang e.1 e.2
      let s1 := readLine s p.pa (classOf s u k.domain)
      if frameState b = 2 then s1 else pageWrite s1 p 20 (leBytes 4 (ofLe ((b.drop 20).take 4) + 1))
    | .error _ => s) s

/-- A fibre at its restart: from its region, or as a fresh one (R259). The slots with STATE = 2 stay free. -/
def restartFibre (g : Group) (id now wct : Nat) (b : List Byte) : Option Fibre :=
  let fresh := { freshFibre g id g.hdr.kent false now with wct := wct }
  if g.hdr.kframe = 0 then some fresh
  else if frameState b = 2 then none
  else if frameState b = 1 then
    let n := fun off k => ofLe ((b.drop off).take k)
    let mask := n 12 4
    let base := n 16 1
    let regs := ((List.range 32).filter fun i => mask.testBit i).zipIdx
    some (setFstat (BitVec.ofNat 32 (n 8 4))
      { fresh with
        pc := alignPc (BitVec.ofNat 64 (n 0 8))
        preds := BitVec.ofNat 8 (n 17 1) ||| 0x80
        regs := regs.foldl (fun m e => sset m (base + e.1) { val := BitVec.ofNat 32 (n (64 + 4 * e.2) 4) }) [] })
  else some fresh

/-! ## Restoring from save areas (R67 to R69, R261) -/

/-- `n` blocks of 64 bytes at a virtual address, each at its physical address; a block that cannot be read, or lies in a line that carries
poison (R155), stops the restore: the latter is a DESIGN CHOICE, see the log. -/
def readBlocks (s : State) (u dom : Nat) : Nat → Nat → Except Stop (List Nat)
  | 0, _ => .ok []
  | n + 1, a => do
    let p ← translateNow s u (domainWho s u dom true) a .load 64
    if isPoisoned s p.pa then stopFault Cause.taskDesc a
    let t ← readBlocks s u dom n (wrapNat (a + 64 : Nat) 64)
    return p.pa :: t
/-- The bytes of an area of `size` bytes, padded to blocks. -/
def readArea (s : State) (u dom a size : Nat) : Except Stop (List Byte) := do
  let l ← readBlocks s u dom ((size + 63) / 64) a
  return l.flatMap fun pa => paBytes s pa 64
/-- Round up to 64. -/
def pad64 (n : Nat) : Nat := (n + 63) / 64 * 64
/-- `k` bytes of an area from an offset, as a number. -/
def areaNum (b : List Byte) (off k : Nat) : Nat := ofLe ((b.drop off).take k)

/-- The save area of a group (R260). -/
def saveAddr (s : State) (d : Nat) (k : Task) (gang grp : Nat) : Nat :=
  wrapNat (domField s d k.domain 16 8 + (gang * 256 + grp) * domField s d k.domain 24 4 : Nat) 64

/-- The areas of a group that are read: absent ones are none. -/
structure Saved where
  fib : Option (List Byte)
  vec : Option (List Byte)
  uni : Option (List Byte)
  til : Option (List Byte)
  acc : Option (List Byte)
  con : Option (List Byte)
  scr : Option (List Byte)

/-- The bytes of the vector record of a fibre (R68). -/
def vecRecord (vgr : Nat) : Nat := pad64 (32 * vgr + 2 * vgr)
/-- The bytes of the uniform area. -/
def uniBytes (ugr : Nat) : Nat := pad64 (32 * ugr + 2 * ugr)

/-- Every state code of `n` registers packed at an offset is legal (R69). -/
def codesOk (b : List Byte) (off n : Nat) : Bool := (List.range n).all fun i => areaNum b (off + i / 4) 1 / 4 ^ (i % 4) % 4 != 3
/-- The bytes from an offset to an end are zero. -/
def zeroFrom (b : List Byte) (off stop : Nat) : Bool := ((b.take stop).drop off).all (· == 0)

/-- A fibre record is legal: LIVE ones carry their slot number, and reserved bits are zero (R68, R69). R69 lists no refusal for reserved
bits inside a field that is partly used, which count here too: bits 14:10 of the identifier, and a mode byte above 1. DESIGN CHOICE, see
the log. -/
def recordOk (b : List Byte) (i : Nat) : Bool :=
  let r := (b.drop (32 * i)).take 32
  let id := areaNum r 16 2
  !id.testBit 15 || (id % 1024 == i && bitsOf id 14 10 == 0 && areaNum r 21 1 ≤ 1 && zeroFrom r 22 24 && zeroFrom r 28 32)

/-- An area that a pointer names: a zero pointer gives none; one that is misaligned or cannot be read stops the restore. -/
def readPtr (s : State) (u dom p size : Nat) : Except Stop (Option (List Byte)) :=
  if p = 0 then .ok none
  else if p % 64 != 0 then stopFault Cause.taskDesc p
  else do
    let b ← readArea s u dom p size
    return some b

/-- Every present area passes a check. -/
def areaAll (b : Option (List Byte)) (f : List Byte → Bool) : Bool :=
  match b with
  | some x => f x
  | none => true

/-- The areas of the save area at `a` for a header, checked as R69 sets: a fault on refusal, a wait where a page is under shoot-down
(R276). Beyond the cases that R69 lists, an accumulator format above 1, reserved bits of CONVST, and padding of the vector and uniform
records that is not zero refuse the area: DESIGN CHOICE, see the log. -/
def readSaved (s : State) (u dom a : Nat) (h : Header) : Except Stop Saved := do
  let b ← if a % 64 != 0 then stopFault Cause.taskDesc a else readArea s u dom a 64
  let n := areaNum b
  let vgr := granules8 h.kregs / 8
  let ugr := granules8 h.kuni / 8
  if n 56 1 != vgr || n 57 1 != ugr || n 58 1 != h.ktiles || n 59 1 != h.kaccs || n 60 2 != h.kfibs || n 62 1 != h.kconv ||
      n 63 1 != 0 then stopFault Cause.taskDesc a
  let fib ← readPtr s u dom (n 0 8) (32 * h.kfibs)
  let vec ← readPtr s u dom (n 8 8) (h.kfibs * vecRecord vgr)
  let uni ← readPtr s u dom (n 16 8) (uniBytes ugr)
  let til ← readPtr s u dom (n 24 8) (20544 * h.ktiles)
  let acc ← readPtr s u dom (n 32 8) (65600 * h.kaccs)
  let con ← readPtr s u dom (n 40 8) 64
  let scr ← readPtr s u dom (n 48 8) h.kscr
  if areaAll fib (fun b => (List.range h.kfibs).all (recordOk b)) &&
      areaAll vec (fun b => (List.range h.kfibs).all fun i =>
        let o := i * vecRecord vgr
        codesOk b (o + 32 * vgr) (8 * vgr) && zeroFrom b (o + 34 * vgr) (o + vecRecord vgr)) &&
      areaAll uni (fun b => codesOk b (32 * ugr) (8 * ugr) && zeroFrom b (34 * ugr) (uniBytes ugr)) &&
      areaAll til (fun b => (List.range h.ktiles).all fun i => zeroFrom b (20544 * i + 8) (20544 * i + 64)) &&
      areaAll acc (fun b => (List.range h.kaccs).all fun i =>
        decide (areaNum b (65600 * i) 4 ≤ 1) && zeroFrom b (65600 * i + 4) (65600 * i + 64)) &&
      areaAll con (fun b => (List.range 16).all fun i =>
        let x := areaNum b (4 * i) 4
        bitsOf x 15 11 == 0 && bitsOf x 31 26 == 0 && decide (bitsOf x 25 16 < bitsOf x 10 0)) then
    return ⟨fib, vec, uni, til, acc, con, scr⟩
  else stopFault Cause.taskDesc a

/-- The blocks of a save area have been read: the area itself, then the areas it names (R155, R156). -/
def noteSaved (s : State) (u dom a : Nat) (h : Header) : State :=
  let blocks := fun (a size : Nat) => match readBlocks s u dom ((size + 63) / 64) a with
    | .ok l => l
    | .error _ => []
  let vgr := granules8 h.kregs / 8
  let sizes := [32 * h.kfibs, h.kfibs * vecRecord vgr, uniBytes (granules8 h.kuni / 8), 20544 * h.ktiles, 65600 * h.kaccs, 64, h.kscr]
  let b := (blocks a 64).flatMap fun pa => paBytes s pa 64
  (blocks a 64 ++ sizes.zipIdx.flatMap fun e => if areaNum b (8 * e.2) 8 = 0 then [] else blocks (areaNum b (8 * e.2) 8) e.1).foldl
    (fun s pa => readLine s pa (classOf s u dom)) s

/-- A register of an area: its value and its state code. The save area does not carry the
cause of a poison mark: it is a free value. -/
def areaReg (b : List Byte) (vals codes i : Nat) : Reg :=
  { val := BitVec.ofNat 32 (areaNum b (vals + 4 * i) 4)
    st := match areaNum b (codes + i / 4) 1 / 4 ^ (i % 4) % 4 with
      | 0 => .empty
      | 2 => .poisoned (Config.savedPoison i)
      | _ => .full }

/-- The fibre of a slot, as its record and the vector area give it; none for a free slot. Without fibre records each slot is
as R29 gives it. -/
def savedFibre (g : Group) (x : Saved) (now id : Nat) : Option Fibre :=
  let base := freshFibre g id g.hdr.kent false now
  let vgr := granules8 g.hdr.kregs / 8
  let regs := match x.vec with
    | none => []
    | some b => (List.range (8 * vgr)).map fun i => (i, areaReg b (id * vecRecord vgr) (id * vecRecord vgr + 32 * vgr) i)
  match x.fib with
  | none => some { base with regs := regs }
  | some b =>
    let n := fun off k => areaNum b (32 * id + off) k
    if (n 16 2).testBit 15 then
      some (setFstat (BitVec.ofNat 32 (n 24 4))
        { base with pc := alignPc (BitVec.ofNat 64 (n 0 8)), wct := n 8 8, signs := BitVec.ofNat 16 (n 18 2),
                    preds := BitVec.ofNat 8 (n 20 1) ||| 0x80, sup := (n 21 1).testBit 0, regs := regs })
    else none

/-- The convergence registers after a restore: E from the area; the signers, with the operands they signed with, are those that
the machine kept for the gang, fibres that have exited since among them (R49). Where the saved S and the fibres' signing bits do not
agree, S becomes the smaller of S and the number of signers found: DESIGN CHOICE, since R69 refuses no such area. -/
def savedConvs (con : Option (List Byte)) (kept : SMap Conv) (fs : SMap Fibre) : SMap Conv :=
  match con with
  | none => []
  | some b => (List.range 16).map fun i =>
    let x := areaNum b (4 * i) 4
    let old := sgetD kept i {}
    let ids := (fs.filter fun f => f.2.signs.getLsbD i).map (·.1)
    let signed := old.signers.filter fun m => decide (m.fibre ≥ 4096) || ids.contains m.fibre || !(fs.any fun f => f.1 == m.fibre)
    let more := (ids.filter fun id => !(signed.any fun m => m.fibre == id)).map fun id =>
      { fibre := id, x := BitVec.ofNat 64 (Config.freeValue (2 * id)), y := 0, p := false, d := Config.freeValue (2 * id + 1) % 256 }
    let s := bitsOf x 25 16
    (i, { e := bitsOf x 10 0, signers := (signed ++ more).take s, key := if s = 0 then [] else old.key })

/-- A group as its save area gives it (R69, R140, R188). -/
def restoreGroup (g : Group) (x : Saved) (kept : SMap Conv) (waits : SMap (Option Wait × BitVec 8)) (now : Nat) : Group :=
  let ugr := granules8 g.hdr.kuni / 8
  let fs := (List.range g.hdr.kfibs).filterMap fun id => (savedFibre g x now id).map fun f =>
    let w := sgetD waits id (none, 0)
    (id, { f with wait := w.1, predPend := w.2 })
  let bytes := fun (b : Option (List Byte)) => b.getD []
  { g with
    uregs := match x.uni with
      | none => []
      | some b => (List.range (8 * ugr)).map fun i => (i, areaReg b 0 (32 * ugr) i)
    tcs := if x.til.isNone then [] else (List.range g.hdr.ktiles).map fun i => (i, BitVec.ofNat 64 (areaNum (bytes x.til) (20544 * i) 8) &&& tcMask)
    tiles := if x.til.isNone then [] else
      (List.range g.hdr.ktiles).foldl (fun m i => bytesSet m (32768 * i) (((bytes x.til).drop (20544 * i + 64)).take 20480)) []
    accs := if x.acc.isNone then [] else
      (List.range g.hdr.kaccs).foldl (fun m n =>
        (List.range 16384).foldl (fun m j => sset m (16384 * n + j) (BitVec.ofNat 32 (areaNum (bytes x.acc) (65600 * n + 64 + 4 * j) 4))) m) []
    accInt := BitVec.ofNat 8 (((List.range g.hdr.kaccs).map fun n => areaNum (bytes x.acc) (65600 * n) 4 % 2 * 2 ^ n).foldl (· + ·) 0)
    convs := savedConvs x.con kept fs
    scratch := bytesSet [] 0 ((bytes x.scr).take g.hdr.kscr)
    fibres := fs }

/-! ## Starting a gang -/

/-- How a gang starts: at its first admission, from its region frames, or from its save areas. -/
inductive StartMode where
  | fresh | restart | restore
deriving DecidableEq, Repr

def Task.mode (k : Task) : StartMode := if k.saved then .restore else if k.restart then .restart else .fresh

/-- A group held back until the completions it depends on are old enough (R236). -/
def startState (s : State) (d : Nat) (k : Task) : GroupSt :=
  if k.startMask.getLsbD d || decide (s.now d > k.startWct + 4) then .run else .deferred (k.startWct + 4)

/-- The storage and identity of a group at its place. -/
def groupAt (s : State) (t : Nat) (k : Task) (gang grp : Nat) (u : Nat) (x : Place) : Group :=
  { hdr := k.hdr, st := startState s (dieOf u) k, domain := k.domain, set := ((dpartOf s u k.domain).map (·.1)).getD 0,
    gangId := gang, grpIx := grp, task := some t, pasid := domField s (dieOf u) k.domain 4 4 % 2 ^ 20, vbase := x.vbase,
    ubase := x.ubase, banks := x.banks, ptiles := x.tiles, paccs := x.accs }

/-- The completion times that came in for a saved group's fibres after it left enter their WCT (R168). -/
def withLateWct (k : Task) (grp : Nat) (g : Group) : Group :=
  { g with fibres := g.fibres.map fun (e : Nat × Fibre) => (e.1, { e.2 with wct := Nat.max e.2.wct (sgetD k.lateWct (1024 * grp + e.1) 0) }) }

/-- A group at its start in one of the three ways (R29, R222, R259, R261). -/
def startedGroup (s : State) (u0 t : Nat) (k : Task) (gang grp : Nat) (u : Nat) (x : Place) : Group :=
  let g := groupAt s t k gang grp u x
  let now := (s.core u).opp
  let all := List.range k.hdr.kfibs
  match k.mode with
  | .fresh => { g with uregs := argRegs k.hdr k.arg, fibres := all.map fun id => (id, freshFibre g id k.hdr.kent false now) }
  | .restart =>
    { g with
      uregs := argRegs k.hdr k.arg
      fibres := all.filterMap fun id => (restartFibre g id now (sgetD k.groupWct grp 0) (frameBytes s u0 k gang grp id)).map fun f => (id, f) }
  | .restore =>
    match readSaved s u0 k.domain (saveAddr s (dieOf u0) k gang grp) k.hdr with
    | .ok y => withLateWct k grp (restoreGroup g y (sgetD k.savedConvs grp []) (sgetD k.savedWaits grp []) now)
    | .error _ => g

/-- A group that starts with no live fibre is ending (R41). -/
def orEnding (g : Group) : Group := if g.fibres.isEmpty then { g with st := .ending } else g

/-- The groups of a gang that start: after a save those that had not ended. -/
def startingGroups (k : Task) : List Nat :=
  (List.range k.hdr.kgrps).filter fun i => !(k.saved && k.finished.contains i)

/-- Put the landing slots of a plan in place: storage set aside on a core (R279). -/
def putLanding (s : State) (t : Nat) (k : Task) (gang : Nat) (e : Nat × Place) : State :=
  s.setGroup e.1 e.2.slot { groupAt s t k gang 0 e.1 e.2 with st := .landing }

/-- The requests of a saved group that are still in flight belong to its fibres again (R163, R168). -/
def reattach (s : State) (t grp u slot : Nat) : State :=
  { s with flights := s.flights.map fun (x : Flight) =>
      if x.saved = some (t, grp) then { x with u := u, slot := slot, saved := none } else x }

/-- The restart point of a region passes R101; where the fetch of its line would fault it is not checked, as at a branch (R321). The
scheduler reads the line from core unit `u`. -/
def restartOk (s : State) (u : Nat) (g : Group) (f : Fibre) (rpc : Nat) : Bool :=
  match fetchPageNow s u g f rpc with
  | .error _ => true
  | .ok p => fetchBroken s u p.pa || targetOk (coreLine s u p.pa) rpc
/-- What a frame with STATE = 1 does not allow: a live-in that lies beyond KFRAME (R244), then a restart point that fails R101. -/
def restartFault (s : State) (u : Nat) (g : Group) (f : Fibre) (kframe : Nat) (b : List Byte) : Option (Nat × Nat) :=
  let rpc := ofLe (b.take 8)
  if kframe < 128 && ofLe ((b.drop 12).take 4) != 0 then some (Cause.domain, 10 * 256 + ofLe ((b.drop 16).take 1))
  else if !restartOk s u g f rpc then some (Cause.alignment, rpc) else none
/-- A fibre whose frame fails these checks starts FAULTED at its restart point: DESIGN CHOICE, since R101 and R244 name the check, and no
instruction makes it. -/
def checkRestart (s : State) (k : Task) (gang u0 : Nat) (e : Nat × Nat × Place) : State :=
  match s.group e.2.1 e.2.2.slot with
  | none => s
  | some g =>
    g.fibres.foldl (fun s f =>
      let b := frameBytes s u0 k gang e.1 f.1
      if k.hdr.kframe = 0 || frameState b ≠ 1 then s
      else
        let s1 := fetchTargetNow s u0 g f.2 (ofLe (b.take 8))
        match restartFault s u0 g f.2 k.hdr.kframe b with
        | some (cause, a) => s1.takeFault e.2.1 e.2.2.slot [f.1] f.1 0 cause 0 a f.2.pc
        | none => s1) s

/-- The accesses of an admission to the gang's frames or save areas, before any group starts (R257, R259, R261). -/
def startAccesses (s : State) (u0 : Nat) (k : Task) (gang : Nat) : State :=
  match k.mode with
  | .fresh => zeroFrames s u0 k gang
  | .restart => countRestarts s u0 k gang
  | .restore => (startingGroups k).foldl (fun s i => noteSaved s u0 k.domain (saveAddr s (dieOf u0) k gang i) k.hdr) s
/-- Start one group of a gang at its place. -/
def startOne (s : State) (u0 t : Nat) (k : Task) (gang : Nat) (e : Nat × Nat × Place) : State :=
  let s1 := s.setGroup e.2.1 e.2.2.slot (orEnding (startedGroup s u0 t k gang e.1 e.2.1 e.2.2))
  match k.mode with
  | .fresh => s1
  | .restart => checkRestart s1 k gang u0 e
  | .restore => reattach s1 t e.1 e.2.1 e.2.2.slot

/-- Start the gang of a task at the places of a plan (R42, R227). -/
def startGang (s : State) (u0 t : Nat) (k : Task) (gang : Nat) (p : Plan) : State :=
  let here := (startingGroups k).zip p.groups
  let s2 := here.foldl (fun a e => startOne a u0 t k gang e) (startAccesses s u0 k gang)
  let s3 := p.landing.foldl (fun a e => putLanding a t k gang e) s2
  modTask s3 t fun k =>
    { k with st := if k.tdone then .draining else .running, gangId := some gang, groups := here.map fun e => (e.2.1, e.2.2.slot),
             landing := p.landing.map fun e => (e.1, e.2.slot), saved := false, restart := false,
             finished := (if k.saved then k.finished else []), savedConvs := [], savedWaits := [], lateWct := [],
             chosen := [], failedAt := none, hintAt := none, startMask := 0xFF }

/-- A task that is refused: its gang holds nothing, and its launch takes status 2 (R221, R227). -/
def refuseTask (s : State) (t : Nat) : State :=
  modTask s t fun k => { k with st := .refused, status := Nat.max k.status 2, gangId := none, chosen := [] }

/-- What the save areas of a gang's groups answer to the restore path: the first refusal with its address, or a page under shoot-down
that the admission waits for (R69, R276). -/
def restoreStops (s : State) (u : Nat) (k : Task) (gang : Nat) : List (Nat × Stop) :=
  (startingGroups k).filterMap fun i => match readSaved s u k.domain (saveAddr s (dieOf u) k gang i) k.hdr with
    | .error e => some (saveAddr s (dieOf u) k gang i, e)
    | .ok _ => none
/-- The line of a restart point waits so: its page is under shoot-down, or the host has not answered for it. -/
def restartWaits (s : State) (u : Nat) (k : Task) (gang : Nat) : Bool :=
  (frameSlots k.hdr).any fun e =>
    let b := frameBytes s u k gang e.1 e.2
    frameState b == 1 && match translateNow s u (domainWho s u k.domain false) (ofLe (b.take 8) / 64 * 64) .exec 64 with
      | .error (.block _) => true
      | _ => false
/-- The admission must wait for a shoot-down to commit, or for the host's reply, before it can access the gang's frames or save areas
(R276, R314). -/
def admissionWaits (s : State) (u : Nat) (k : Task) (gang : Nat) : Bool :=
  match k.mode with
  | .fresh => framesWait s u k gang 64
  | .restart => framesWait s u k gang (frameSize k) || restartWaits s u k gang
  | .restore => (restoreStops s u k gang).any fun e => match e.2 with
    | .block _ => true
    | _ => false

/-- Admission of a task at a plan by a core (R42, R243, R257, R259, R261): the GANGID, the frames or save areas, then the start.
None when no GANGID is free, or while a page of the frames or save areas is under shoot-down. -/
def admitTask (s : State) (u t : Nat) (k : Task) (p : Plan) : Option State :=
  let d := dieOf u
  if k.hdr.kframe != 0 && decide (domField s d k.domain 28 4 < k.hdr.kfibs * k.hdr.kframe) then some (refuseTask s t)
  else
    match (match k.gangId with
      | some v => some v
      | none => gangIdFor s u k.domain) with
    | none => none
    | some gang =>
      if admissionWaits s u k gang then none
      else
        match k.mode with
        | .fresh =>
          match frameBad s u k gang 64 false with
          | some (cause, a) => some ((refuseTask s t).sendNoFibre d cause a)
          | none => some (startGang s u t k gang p)
        | .restart =>
          match frameBad s u k gang (frameSize k) true with
          | some (cause, a) => some ((refuseTask s t).sendNoFibre d cause a)
          | none => some (startGang s u t k gang p)
        | .restore =>
          match (restoreStops s u k gang).head? with
          | some (a, _) => some ((modTask (refuseTask s t) t fun k => { k with st := .aborted }).sendNoFibre d Cause.taskDesc a)
          | none => some (startGang s u t k gang p)

end Sys2Proof.Machine
end

