-- ==== Sys2Proof/Machine/Tasks.lean ====
section
/-! DEFINITION. Launches, tasks and their queues (R218 to R238): watched stores, TENQ, TDEQ and TDONE (R414 to R417), dispatch and
reservations, the end of groups and gangs, drains, and the completion of launches. -/

namespace Sys2Proof.Machine

/-! ## Events to the host (R309) -/

/-- The PF that an event of a partition goes to: that of the lowest-numbered die with an island of the partition. -/
def pfOf (s : State) (part : Nat) : Option Nat :=
  (List.range 8).find? fun d => partOf s d 0 == part || partOf s d 1 == part
/-- An event that concerns some partitions: one record for each. -/
def hostEvent (s : State) (parts : List Nat) (code dom die : Nat) : State :=
  parts.foldl (fun s p => match pfOf s p with
    | some pf => hostRecord s pf code dom die
    | none => s) s
/-- The partitions that hold an island of a die. -/
def dieParts (s : State) (d : Nat) : List Nat :=
  let a := partOf s d 0
  let b := partOf s d 1
  if a = b then [a] else [a, b]
/-- The partitions of the package. -/
def allParts (s : State) : List Nat :=
  (List.range 16).filter fun p => (pfOf s p).isSome

/-! ## Entering a queue (R224, R226, R227) -/

/-- A task enters its queue, or parks on its counter. -/
def enterTask (s : State) (t : Nat) : State :=
  match sget s.tasks t with
  | none => s
  | some k =>
    let now := s.now (queueDie k.queue)
    if noCounter k.waitc then readyTask s t now
    else
      let c := counterOf s (ctrDie k.waitc) (ctrId k.waitc)
      if c.count = 0 then
        modTask (readyTask s t now) t fun k => { k with startWct := c.recWct, startMask := c.recDies }
      else
        modTask (setCounter s (ctrDie k.waitc) (ctrId k.waitc) { c with parked := c.parked ++ [t] }) t fun k =>
          { k with st := .parked }

/-- Tasks that wait to enter a queue of a die, in a state. -/
def waitingTasks (s : State) (d : Nat) (launches : Bool) : List (Nat × Task) :=
  s.tasks.filter fun e => queueDie e.2.queue == d && (match e.2.st with
    | .pendingLaunch => launches
    | .waitingRoom => !launches
    | _ => false)
/-- The task of a list that came first. -/
def firstTask : List (Nat × Task) → Option (Nat × Task)
  | [] => none
  | e :: t => some (t.foldl (fun a b => if b.2.seq < a.2.seq then b else a) e)

/-- Add a task to the package's list, numbered in order of arrival. -/
def addTask (s : State) (k : Task) : State :=
  { s with tasks := sset s.tasks s.nextTask { k with seq := s.nextId }, nextTask := s.nextTask + 1, nextId := s.nextId + 1 }

/-- The page of a kernel header that the scheduler or the supervisor reads. -/
def headerPage (s : State) (u dom pasid : Nat) (va : DWord) : Except Stop Page :=
  translateNow s u ⟨pasid, dom, keyOf s u dom, true, false⟩ va.toNat .load 64
/-- A kernel header behind an address that the scheduler or the supervisor reads, whose reserved bytes are zero (R131): a stop where it
cannot be read, or must wait for a shoot-down to commit (R276). A line that carries poison cannot be read (R155): DESIGN CHOICE, see the
log. -/
def headerAt (s : State) (u dom pasid : Nat) (va : DWord) (trap : Bool) : Except Stop Header := do
  let p ← headerPage s u dom pasid va
  let b := paBytes s p.pa 64
  if headerReserved b && !isPoisoned s p.pa then return headerOf b trap else stopFault Cause.taskDesc va.toNat
/-- What the read of a header does at its home (R138, R144, R155, R156). -/
def noteHeader (s : State) (u dom pasid : Nat) (va : DWord) : State :=
  match headerPage s u dom pasid va with
  | .ok p => readLine s p.pa (classOf s u dom)
  | .error _ => s
/-- The same for a header that is registered, and so is read. -/
def noteRegistered (s : State) (u dom pasid : Nat) (va : DWord) : State :=
  if s.headers.any fun e => e.1 == dom && e.2.1 == va then noteHeader s u dom pasid va else s
/-- The registered header at an address for a domain (R131, R222). A header whose reserved bytes have changed since its registration
counts as one that is not registered: DESIGN CHOICE, since R131 has the supervisor refuse it at registration alone. -/
def readHeader (s : State) (u dom pasid : Nat) (va : DWord) : Except Stop Header :=
  match s.headers.find? fun e => e.1 == dom && e.2.1 == va with
  | none => stopFault Cause.taskDesc va.toNat
  | some (_, _, trap) => headerAt s u dom pasid va trap
/-- The registration of a header for a domain: the supervisor refuses one whose reserved bytes are not zero or whose values break R43 or
R130, and one that it cannot read (R131). The class in force is the one registered. -/
def registerHeader (s : State) (d dom pasid : Nat) (va : DWord) (trap : Bool) : State :=
  let s1 := noteHeader s (64 * d) dom pasid va
  match headerAt s (64 * d) dom pasid va trap with
  | .ok h => if headerLimits h then { s1 with headers := (dom, va, trap) :: s.headers } else s1
  | .error _ => s1

/-- A header that nothing reads: a refused task's. -/
def noHeader : Header := headerOf [] false

/-! ## Launch contexts (R219, R220) -/

/-- A field of a launch context's entry: bits `hi` to `lo` of the 256. -/
def ctxOff (c : Nat) : Nat := 0x6000200000 + 32 * (c % 512)
def ctxWord (s : State) (c i : Nat) : Nat := ((s.die (c / 512)).word (ctxOff c + 8 * i)).toNat
def ctxField (s : State) (c hi lo : Nat) : Nat := bitsOf (ctxWord s c (lo / 64)) (hi % 64) (lo % 64)
/-- Write a word of the entry. -/
def setCtxWord (s : State) (c i v : Nat) : State := s.modDie (c / 512) fun d => d.setBytes (ctxOff c + 8 * i) (leBytes 8 v)
/-- OUTST and SEQ share word 1. -/
def setCtx (s : State) (c seq outst : Nat) : State :=
  let w := ctxWord s c 1
  setCtxWord s c 1 (seq % 2 ^ 32 * 2 ^ 32 + outst % 2048 * 2 ^ 21 + w % 2 ^ 21)

/-- The context that watches a slot of a VF: the lowest-numbered VALID one (R220). -/
def watchingCtx (s : State) (vf slot : Nat) : Option Nat :=
  (List.range 4096).find? fun c =>
    ctxField s c 63 63 == 1 && ctxField s c 55 48 == vf && ctxField s c 27 16 == slot

/-- A stored value creates a launch task, or sets OVF (R220, R224). -/
def watched (s : State) (vf slot : Nat) (v : DWord) : State :=
  match watchingCtx s vf slot with
  | none => s.modDie (vf / 32 % 8) fun d => { d with portErrors := d.portErrors + 1 }
  | some c =>
    let outst := ctxField s c 95 85
    if outst ≥ ctxField s c 84 74 then setCtxWord s c 0 (ctxWord s c 0 ||| 2 ^ 61)
    else
      let seq := ctxField s c 127 96
      let q := ctxField s c 12 0
      let khdr := BitVec.ofNat 64 (ctxWord s c 2)
      let pasid := ctxField s c 47 28
      let hdr := readHeader s (64 * (c / 512)) vf pasid khdr
      let l := s.nextLaunch
      let k : Task := { st := .pendingLaunch, khdr := khdr, arg := v, waitc := 0xFFFFFFFF, donec := 0xFFFFFFFF, queue := q,
                        prio := ctxField s c 60 59, kind := 0, domain := vf, launch := l, pasid := pasid,
                        hdr := (match hdr with
                          | .ok h => h
                          | .error _ => noHeader),
                        hdrRead := (match hdr with
                          | .error (.block _) => false
                          | _ => true) }
      let s1 := { setCtx (noteRegistered s (64 * (c / 512)) vf pasid khdr) c (seq + 1) (outst + 1) with
        launches := sset s.launches l
          { ctx := c, seq := seq, domain := vf, root := s.nextTask, crec := ctxWord s c 3, maxpend := ctxField s c 84 74, pasid := pasid,
            msie := ctxField s c 62 62 == 1, msixv := ctxField s c 73 64 }
        nextLaunch := l + 1 }
      let t := s.nextTask
      let s2 := addTask s1 k
      let bad := match hdr with
        | .error (.fault _ _ _) => true
        | .error (.block _) => false
        | .ok h => shapeRefused s (queuePart s q) vf h
      if bad || !queueOwned s vf q then refuseTask s2 t
      else if !(s.die (queueDie q)).alive then modTask s2 t fun k => { k with st := .aborted, status := 1 }
      else if !k.hdrRead || dieFull s (queueDie q) || !(waitingTasks s (queueDie q) true).isEmpty then s2
      else enterTask s2 t

/-- WATCHED_STORE (R220, R310, R316): an aligned 8-byte host store to slot `slot` of a VF's launch window, through the port of the VF's
die. A checkpoint holds it; a port that is down takes none. -/
def execWatchedStore (vf slot : Nat) (value : DWord) (s : State) : Answer :=
  .next <| if vf ≥ 256 || !stepPassed s (vf / 32) 7 then s
    else if s.checkpoint then { s with heldStores := s.heldStores ++ [(vf, slot, value)] } else watched s vf slot value

/-- Other host accesses to a VF's launch window: a store that is not an aligned 8-byte store is counted in the port's error counter, and
a load returns zero (R220). A port that is down takes none (R310). -/
def windowStore (s : State) (vf : Nat) : State :=
  if vf ≥ 256 || !stepPassed s (vf / 32) 7 then s else s.modDie (vf / 32) fun d => { d with portErrors := d.portErrors + 1 }
def windowLoad (s : State) (vf : Nat) : State :=
  if vf ≥ 256 || !stepPassed s (vf / 32) 7 then s else { s with hostRead := List.replicate 8 0 }

/-- A pending launch task enters its queue; one that has not read its header reads it now. -/
def enterLaunch (s : State) (t : Nat) (k : Task) : State :=
  if k.hdrRead then enterTask s t
  else match readHeader s (64 * queueDie k.queue) k.domain k.pasid k.khdr with
    | .error (.block _) => s
    | .error (.fault _ _ _) => refuseTask (noteRegistered s (64 * queueDie k.queue) k.domain k.pasid k.khdr) t
    | .ok h =>
      let s1 := modTask (noteRegistered s (64 * queueDie k.queue) k.domain k.pasid k.khdr) t fun k => { k with hdr := h, hdrRead := true }
      if shapeRefused s (queuePart s k.queue) k.domain h then refuseTask s1 t else enterTask s1 t

/-- PENDING_LAUNCH_ENTRY (R224). -/
def execPendingLaunchEntry (die : Nat) (s : State) : Answer :=
  .next <| match firstTask (waitingTasks s die true) with
    | some (t, k) => if dieFull s die then s else enterLaunch s t k
    | none => s

/-- Let the fibre that waits for room go on. -/
def wakeTenq (s : State) (t : Nat) : State :=
  { s with cores := s.cores.map fun e => (e.1, { e.2 with slots := e.2.slots.map fun g =>
      (g.1, { g.2 with fibres := g.2.fibres.map fun f => match f.2.wait with
        | some (.tenqRoom k next) => if k = t then (f.1, { f.2.ready e.2.opp with pc := next }) else f
        | _ => f }) }) }

/-- TENQ_ENTRY (R224, R415): after every pending launch task of the die. -/
def execTenqEntry (die : Nat) (s : State) : Answer :=
  .next <| match firstTask (waitingTasks s die false) with
    | some (t, _) => if dieFull s die || !(waitingTasks s die true).isEmpty then s else wakeTenq (enterTask s t) t
    | none => s

/-! ## TENQ, TDEQ and TDONE (R414 to R417) -/

/-- The descriptor of a lane, and where it lies. -/
structure TenqLane where
  khdr : DWord
  arg : DWord
  waitc : Word
  donec : Word
  queue : Nat
  prio : Nat
  kind : Nat
  hdr : Header
  pa : Nat

/-- An address of format T or I: a pair plus the signed literal. -/
def pairOffset (o : OpT) (c : Ctx) (f : Fibre) : Except Stop Nat := do
  let a ← srcPair c f o.ua o.a
  return wrapNat (a.toNat + (match o.lit with
    | some l => l.toInt
    | none => 0)) 64

/-- The checks of TENQ (R414). The read of the descriptor is an access of the fibre: it waits for an acquire before it (R163) and for the
fibre's own earlier stores to the line (R160). A descriptor in a line that carries poison raises MACHINE_CHECK: DESIGN CHOICE, see the
log. A task carries the domain of its launch
(R27), so that a TENQ inside a call gate hands over a task of its group's domain, with that domain's header, queue and counters,
and only the descriptor is read in the gate's domain: DESIGN CHOICE, since R414 names the domain without a gate. -/
def tenqCheck (o : OpT) (c : Ctx) (ln : Lane) : Except Stop TenqLane := do
  holdCheck c ln
  let a ← pairOffset o c ln.f
  if a % 32 != 0 then stopFault Cause.misaligned a
  let who := whoOf c.s c.u c.g ln.f
  let p ← translate c.s c.u who a .load 32
  let _ ← routeCheck c.s c.u (domainOf c.g ln.f) a p.pa
  islandCheck c.s c.u a p.pa
  if locationBusy c.s c.u c.slot ln.id p.pa then throw (Stop.block (.sameLine p.pa))
  if isPoisoned c.s p.pa then stopFault Cause.machineCheck a
  if isSupCore c.u then stopFault Cause.taskDesc a
  let b := paBytes c.s p.pa 32
  let n := fun off k => ofLe ((b.drop off).take k)
  let dom := c.g.domain
  let q := n 24 2
  let khdr : DWord := BitVec.ofNat 64 (n 0 8)
  if n 28 4 != 0 || n 27 1 > 1 || n 26 1 / 4 != 0 || q / 8192 != 0 then stopFault Cause.taskDesc a
  match readHeader c.s c.u dom c.g.pasid khdr with
  | .error (.block w) => throw (Stop.block w)
  | .error (.fault _ _ _) => stopFault Cause.taskDesc a
  | .ok h => do
    if queuePart c.s q != unitPart c.s c.u then stopFault Cause.taskDesc a
    if !queueOwned c.s dom q then stopFault Cause.domain (7 * 256 + q % 256)
    if !counterNamed c.s dom (n 16 4) then stopFault Cause.domain (6 * 256 + n 16 1)
    if !counterNamed c.s dom (n 20 4) then stopFault Cause.domain (6 * 256 + n 20 1)
    let lost := dieLost c.s (dieOf c.u)
    let gone := fun x : Nat => x != 0xFFFFFFFF && lost.testBit (x / 65536 % 8)
    if lost.testBit (queueDie q) || gone (n 16 4) || gone (n 20 4) then stopFault Cause.homeLost a
    return { khdr := khdr, arg := BitVec.ofNat 64 (n 8 8), waitc := BitVec.ofNat 32 (n 16 4), donec := BitVec.ofNat 32 (n 20 4),
             queue := q, prio := n 26 1, kind := n 27 1, hdr := h, pa := p.pa }

/-- The launch whose tree a group's tasks join (R237); a group of no task has none, numbered past every launch. -/
def launchOf (s : State) (g : Group) : Nat :=
  match g.task with
  | none => 2 ^ 64
  | some t => match sget s.tasks t with
    | some k => k.launch
    | none => 2 ^ 64

/-- Hand a lane's task to the scheduler (R415): READY, PARKED, REFUSED, or the fibre waits at its TENQ for room. -/
def handTask (c : Ctx) (next : DWord) (s : State) (x : Lane × TenqLane) : State :=
  let y := x.2
  let t := s.nextTask
  let d := queueDie y.queue
  let k : Task := { st := .waitingRoom, khdr := y.khdr, arg := y.arg, waitc := y.waitc, donec := y.donec, queue := y.queue,
                    prio := y.prio, kind := y.kind, domain := c.g.domain, launch := launchOf s c.g, pasid := c.g.pasid, hdr := y.hdr }
  let s1 := addTask s k
  if y.kind = 0 && shapeRefused s (queuePart s y.queue) k.domain y.hdr then refuseTask s1 t
  else if dieFull s d || !(waitingTasks s d true).isEmpty || !(waitingTasks s d false).isEmpty then
    s1.modFibre c.u c.slot x.1.id fun f => { f with wait := some (.tenqRoom t next), pc := c.pc }
  else enterTask s1 t

/-- Insert a lane in increasing fibre identifier. -/
def insertLane {α : Type} (x : Lane × α) : List (Lane × α) → List (Lane × α)
  | [] => [x]
  | y :: t => if x.1.id < y.1.id then x :: y :: t else y :: insertLane x t
/-- Lanes in increasing fibre identifier. -/
def byFibre {α : Type} (l : List (Lane × α)) : List (Lane × α) := l.foldl (fun a x => insertLane x a) []

/-- What a lane's read of its descriptor, and of the header that it names, does at their homes (R138, R144, R155, R156). -/
def noteDesc (c : Ctx) (s : State) (x : Lane × TenqLane) : State :=
  noteRegistered (readLine s x.2.pa (classOf s c.u (domainOf c.g x.1.f))) c.u c.g.domain c.g.pasid x.2.khdr
/-- TENQ (R414, R415): after the checks a release at .pkg, then each lane's task is handed over. -/
def execTenq (o : OpT) (s : State) : Answer :=
  .next <| runLanes s o.g o.len (tenqCheck o) fun c s l =>
    chargeThenHold c (l.foldl (noteDesc c) s) l (fun _ => []) (fun _ => []) (releaseHold c 4) fun s l =>
      (byFibre l).foldl (handTask c (nextPc c.pc o.len)) s

/-- The checks of TDEQ (R416). Inside a call gate the domain is that of the gang, as it is for TENQ. -/
def tdeqCheck (o : OpT) (c : Ctx) (ln : Lane) : Except Stop Nat := do
  let q ← srcB c ln.f o
  destsReady c ln.f 0 o.d.toNat 4
  let x := q.toNat
  if isSupCore c.u || x / 8192 != 0 || queuePart c.s x != unitPart c.s c.u then stopFault Cause.taskDesc x
  if !queueOwned c.s c.g.domain x then stopFault Cause.domain (7 * 256 + x % 256)
  if (dieLost c.s (dieOf c.u)).testBit (queueDie x) then stopFault Cause.homeLost x
  return x

/-- A task comes before another in its queue: level, then age, then order of arrival (R223, R228). -/
def taskBefore (a b : Task) : Bool :=
  decide (a.prio < b.prio) || (a.prio == b.prio && (decide (a.readyAt < b.readyAt) ||
    (a.readyAt == b.readyAt && decide (a.seq < b.seq))))
/-- The first task of a list in that order. -/
def bestTask (before : Task → Task → Bool) : List (Nat × Task) → Option (Nat × Task)
  | [] => none
  | e :: t => some (t.foldl (fun a b => if before b.2 a.2 then b else a) e)

/-- The READY tasks of a kind. -/
def readyTasks (s : State) (kind : Nat) : List (Nat × Task) :=
  s.tasks.filter fun e => e.2.kind == kind && (match e.2.st with
    | .ready => true
    | _ => false)

/-- One lane of TDEQ. -/
def takeItem (o : OpT) (c : Ctx) (s : State) (x : Lane × Nat) : State :=
  let items := (readyTasks s 1).filter fun e => e.2.queue == x.2 && e.2.domain == c.g.domain
  match bestTask taskBefore items with
  | none => oweReturn c x.1 s (regWrites 0 o.d.toNat [0, 0, 0, 1]) false false .ready
  | some (t, k) =>
    let s1 := modTask s t fun k => { k with st := .taken }
    acquirePkg (oweReturn c x.1 s1
      (regWrites 0 o.d.toNat [k.arg.extractLsb' 0 32, k.arg.extractLsb' 32 32, k.donec, 0]) false true .ready) c.u

/-- TDEQ (R416). -/
def execTdeq (o : OpT) (s : State) : Answer :=
  .next <| runLanes s o.g o.len (tdeqCheck o) fun c s l => (byFibre l).foldl (takeItem o c) s

/-- The stores, atomics, copies and tile stores of a group that are not performed (R235). -/
def outstanding (s : State) (u slot : Nat) : List Nat :=
  ((s.flights.filter fun x => x.u == u && x.slot == slot && (match x.kind with
    | .load _ => false
    | _ => true)).map (·.id)) ++
  (((s.core u).copies.filter fun x => x.slot == slot).map (·.id)) ++
  (((s.core u).transfers.filter fun x => x.slot == slot).map (·.id))
/-- The largest WCT of a group's fibres, those that have left included. -/
def groupWct (g : Group) : Nat := g.fibres.foldl (fun a f => Nat.max a f.2.wct) g.wct
/-- Mark a group's requests as covered by its task's drain. -/
def coverFlights (s : State) (t u slot : Nat) : State :=
  { s with flights := s.flights.map fun (x : Flight) => if x.u == u && x.slot == slot then { x with task := some t } else x }
def dieBit (d : Nat) : BitVec 8 := 1#8 <<< d

/-- A group's share in the drain of its task: what it still has outstanding, its WCT and its die (R235). -/
def joinDrain (t : Nat) (s : State) (p : Nat × Nat) : State :=
  match s.group p.1 p.2 with
  | none => s
  | some g =>
    modTask (coverFlights s t p.1 p.2) t fun k =>
      { k with drain := k.drain ++ outstanding s p.1 p.2, wct := Nat.max k.wct (groupWct g), dies := k.dies ||| dieBit (dieOf p.1) }

/-- The first TDONE of a task (R45, R417). -/
def firstTdone (s : State) (u slot : Nat) : State :=
  match s.group u slot with
  | none => s
  | some g => match g.task with
    | none => s
    | some t => match sget s.tasks t with
      | none => s
      | some k =>
        if k.tdone then s
        else modTask (k.groups.foldl (joinDrain t) s) t fun k => { k with tdone := true, st := .draining }

/-- TDONE (R417). -/
def execTdone (o : OpN) (s : State) : Answer :=
  .next <| runLanes s o.g 1
    (fun c ln => if ln.f.gate.isSome then .ok false else do
      releaseCheck c ln 4
      return true)
    fun c s l => if l.any (·.2) then firstTdone s c.u c.slot else s

/-! ## Dispatch (R228 to R231) -/

/-- The tier of a core for a task, by the home core of its queue (R228). -/
def taskTier (u : Nat) (k : Task) : Nat := tierOf u (queueHome k.queue)

/-- A domain's entry in the domain table of a die is VALID (R242, R243). -/
def domainValid (s : State) (d dom : Nat) : Bool := (domField s d dom 0 1).testBit 0
/-- A core may take a task: its partition, a set of its domain, a VALID domain table entry, no climb, no reservation held by
another task (R228 to R230, R262). -/
def mayTake (s : State) (u t : Nat) (k : Task) : Bool :=
  let d := dieOf u
  coreEnabled s u && queuePart s k.queue == unitPart s u && (s.die (queueDie k.queue)).alive &&
  (dpartOf s u k.domain).isSome && domainValid s d k.domain && !climbing s u k.domain &&
  !reservedFrom s (unitPart s u) t k.prio u
/-- A hint holds the task back from a core (R231). -/
def hintHolds (s : State) (u : Nat) (k : Task) : Bool :=
  !k.noHints && k.hdr.hints.any fun h => decide ((colWord s u h.1).toNat % 2 ^ 28 < h.2)
/-- A core has a free group slot. -/
def slotLeft (s : State) (u : Nat) : Bool := decide ((s.core u).slots.length < 32)

/-- The order in which a core looks at tasks: tier, level, age, then the die in tier 3, then arrival (R228). -/
def dispatchBefore (u : Nat) (a b : Task) : Bool :=
  let ta := taskTier u a
  let tb := taskTier u b
  decide (ta < tb) || (ta == tb && (decide (a.prio < b.prio) || (a.prio == b.prio && (decide (a.readyAt < b.readyAt) ||
    (a.readyAt == b.readyAt &&
      (if ta = 3 && queueDie a.queue != queueDie b.queue then decide (queueDie a.queue < queueDie b.queue)
       else decide (a.seq < b.seq)))))))

/-- The task that a core takes now (R228). -/
def pickTask (s : State) (u : Nat) : Option (Nat × Task) :=
  if s.checkpoint || !slotLeft s u then none
  else bestTask (dispatchBefore u) ((readyTasks s 0).filter fun e => mayTake s u e.1 e.2 && !hintHolds s u e.2)

/-- Tasks that only their hints keep from a core begin to count their 100 µs (R231). -/
def noteHints (s : State) (u : Nat) : State :=
  if s.checkpoint || !slotLeft s u then s
  else
    { s with tasks := s.tasks.map fun (e : Nat × Task) =>
        if e.2.kind == 0 && e.2.st == .ready && mayTake s u e.1 e.2 && hintHolds s u e.2 && e.2.hintAt.isNone then
          (e.1, { e.2 with hintAt := some (s.now (dieOf u)) })
        else e }

/-- A failed admission: the task stays at the head of its level, and its 64 µs run from its first failure (R230). -/
def failAdmission (s : State) (u t : Nat) : State :=
  modTask s t fun k =>
    { k with failedAt := some (k.failedAt.getD (s.now (dieOf u))), failedCore := u }

/-- A core tries to take a task in. -/
def tryAdmit (s : State) (u t : Nat) (k : Task) : State :=
  match planFor s t k u with
  | none => failAdmission s u t
  | some p => (admitTask s u t k p).getD (failAdmission s u t)

/-- Another core reaches for the same task with a better tier, or with the same tier and a lower number, and can take it in
(R228). -/
def outranked (s : State) (u t : Nat) (k : Task) : Bool :=
  allCores.any fun v =>
    (decide (taskTier v k < taskTier u k) || (taskTier v k == taskTier u k && decide (v < u))) &&
    mayTake s v t k && ((pickTask s v).map (·.1) == some t) && (planFor s t k v).isSome

/-- TASK_DISPATCH (R228): core unit `u` takes a task and tries to take its gang in. -/
def execTaskDispatch (u : Nat) (s : State) : Answer :=
  .next <| match pickTask s u with
    | none => noteHints s u
    | some (t, k) => if outranked s u t k then noteHints s u else tryAdmit (noteHints s u) u t k

/-- The core that takes a READY task now, if one does. -/
def takerOf (s : State) (t : Nat) : Option Nat :=
  allCores.find? fun u => match pickTask s u with
    | some (t', k) => t' == t && !outranked s u t k
    | none => false

/-- SAVED_TASK_RESTORE (R261): the core that takes the saved task restores its gang from its save areas, or refuses it. -/
def execSavedTaskRestore (task : Nat) (s : State) : Answer :=
  .next <| match sget s.tasks task, takerOf s task with
    | some k, some u => if k.saved then tryAdmit s u task k else s
    | _, _ => s

/-- DISCARD_RESTART (R259): the core that takes the re-admitted task restarts its gang from its region frames. -/
def execDiscardRestart (task : Nat) (s : State) : Answer :=
  .next <| match sget s.tasks task, takerOf s task with
    | some k, some u => if k.restart then tryAdmit s u task k else s
    | _, _ => s

/-- HINT_TIMEOUT (R231). -/
def execHintTimeout (task : Nat) (s : State) : Answer :=
  .next <| match sget s.tasks task with
    | some k => match k.hintAt with
      | some h => if s.now (queueDie k.queue) ≥ h + 100000 then modTask s task fun k => { k with noHints := true } else s
      | none => s
    | none => s

/-- The cores of a reservation: cores in order until the shape fits when everything is free, then those that the landing slots
need (R230). -/
def chooseCores (s : State) (part dom : Nat) (h : Header) : List Nat → List Nat → List Nat
  | [], acc => acc
  | u :: t, acc =>
    let enough := decide (h.kgrps ≤ ((acc.map fun v => coreCapacity s v dom h).foldl (· + ·) 0))
    if fitsFree s acc part dom h then acc
    else if !enough then chooseCores s part dom h t (acc ++ [u])
    else
      let short := (landingDies s part dom h).filter fun d =>
        !(acc.any fun v => dieOf v == d && decide (coreCapacity s v dom h ≥ 1))
      if short.isEmpty || short.contains (dieOf u) then chooseCores s part dom h t (acc ++ [u])
      else chooseCores s part dom h t acc

/-- The cores that a task of a domain may take: no climb keeps it from them (R262). -/
def takingCores (s : State) (part : Nat) (k : Task) : List Nat :=
  (domainCores s part k.domain).filter fun u => !climbing s u k.domain

/-- RESERVING_TIMEOUT (R230): the taking core comes first. A task whose shape its cores cannot hold while a climb keeps some of them
stays READY. -/
def execReservingTimeout (task : Nat) (s : State) : Answer :=
  .next <| match sget s.tasks task with
    | some k => match k.st, k.failedAt with
      | .ready, some f =>
        let part := queuePart s k.queue
        if s.now (queueDie k.queue) ≥ f + 64000 && (reservingTask s part).isNone then
          if shapeRefused s part k.domain k.hdr then refuseTask s task
          else
            let l := chooseCores s part k.domain k.hdr (tierOrder k.failedCore (takingCores s part k)) []
            if l.head? = some k.failedCore && fitsFree s l part k.domain k.hdr then
              modTask s task fun k => { k with st := .reserving, chosen := l }
            else s
        else s
      | _, _ => s
    | none => s

/-- RESERVATION_COMPLETE (R230): the shape fits on the chosen cores, or the partition can no longer hold it. -/
def execReservationComplete (task : Nat) (s : State) : Answer :=
  .next <| match sget s.tasks task with
    | some k => match k.st, k.chosen with
      | .reserving, u :: _ =>
        let part := queuePart s k.queue
        if shapeRefused s part k.domain k.hdr then refuseTask s task
        else if s.checkpoint || !domainValid s (dieOf u) k.domain ||
            k.chosen.any (fun v => climbing s v k.domain || !coreEnabled s v || unitPart s v != part) then s
        else
          match planOn s part k k.chosen [] with
          | none => s
          | some p => (admitTask s u task k p).getD s
      | _, _ => s
    | none => s

/-- A group held back starts: its fibres are ready now. -/
def startDeferred (opp : Nat) (g : Group) : Group :=
  { g with st := .run, fibres := g.fibres.map fun f => (f.1, { f.2 with readyAt := opp }) }
/-- DEFERRED_GROUP_START (R236). -/
def execDeferredGroupStart (u slot : Nat) (s : State) : Answer :=
  .next <| match s.group u slot with
    | some g => match g.st with
      | .deferred t =>
        if s.now (dieOf u) > t then
          s.modGroup u slot (startDeferred (s.core u).opp)
        else s
      | _ => s
    | none => s

/-! ## The end of groups, gangs, tasks and launches -/

/-- Engine operations of a group that have not completed, and register writes still owed (R32, R41). -/
def engineBusy (s : State) (u slot : Nat) : Bool :=
  let c := s.core u
  (c.copies.any fun x => x.slot == slot) || (c.ops.any fun m => m.slot == slot) || (c.returns.any fun r => r.slot == slot)

/-- Take a group out of residence: its storage is released, and reads zero for its next owner (R41, R58, R140). An open slot of its
circular buffers is forgotten, with its fill position and its lock: no rule says what becomes of it across a save, and the slot that
FREE no longer counts stays claimed. DESIGN CHOICE, see the log. -/
def vacate (s : State) (u slot : Nat) : State :=
  s.modCore u fun c => { c with slots := sdel c.slots slot, cbOpen := c.cbOpen.filter fun b => b.slot != slot }

/-- Release the pins of a gang (R377). -/
def unpinGang (s : State) (t : Nat) : State :=
  { s with dies := s.dies.map fun e => (e.1, { e.2 with pins := e.2.pins.filter fun p => p.owner != .inl t }) }

/-- The gang of a task holds nothing any more. -/
def releaseGang (s : State) (t : Nat) : State :=
  match sget s.tasks t with
  | none => s
  | some k =>
    let s1 := k.landing.foldl (fun s p => vacate s p.1 p.2) s
    modTask (unpinGang s1 t) t fun k => { k with landing := [], groups := [] }

/-- A task's gang returns to READY, marked as saved or to be restarted (R227, R259, R260). The gang of a task that has already
given its TDONE is not admitted again (R238). -/
def readmit (s : State) (t : Nat) (saved : Bool) : State :=
  match sget s.tasks t with
  | none => s
  | some k =>
    let s1 := releaseGang s t
    if k.tdone then modTask s1 t fun k => { k with gangId := none }
    else modTask (readyTask s1 t (s.now (queueDie k.queue))) t fun k => { k with saved := saved, restart := !saved }

/-- The gang of a task ends (R42, R45, R235). -/
def endGang (s : State) (t : Nat) : State :=
  modTask (releaseGang s t) t fun k =>
    { k with gangId := none, st := match k.st with
      | .running => .draining
      | x => x }

/-- What a drain waits for is done (R235). -/
def drainDone (s : State) (k : Task) : Bool :=
  let here := fun i => (s.flights.any fun x => x.id == i) ||
    (s.cores.any fun c => (c.2.copies.any fun x => x.id == i) || c.2.transfers.any fun m => m.id == i)
  !(k.drain.any here) &&
  (maskDies k.dies.toNat).all fun d => !(s.die d).alive || decide (k.wct ≤ s.now d)

/-- TASK_DRAIN_COMPLETE (R235). -/
def execTaskDrainComplete (task : Nat) (s : State) : Answer :=
  .next <| match sget s.tasks task with
    | some k =>
      match k.st with
      | .draining =>
        if drainDone s k then
          let s1 := modTask s task fun k => { k with st := .done, drain := [] }
          if noCounter k.donec then s1
          else counterTaskDec s1 (ctrDie k.donec) (ctrId k.donec) k.wct k.dies
        else s
      | _ => s
    | none => s

/-- A member of a launch's tree that has ended (R225, R237). -/
def Task.over (k : Task) : Bool :=
  match k.st with
  | .done | .refused | .aborted | .taken => true
  | _ => false

/-- LAUNCH_COMPLETE (R221, R237): every member has ended, and every die's time is past the drains. -/
def execLaunchComplete (launch : Nat) (s : State) : Answer :=
  .next <| match sget s.launches launch with
    | none => s
    | some l =>
      let ms := (s.tasks.filter fun e => e.2.launch == launch).map (·.2)
      let wct := ms.foldl (fun a k => Nat.max a k.wct) 0
      if !l.complete && ms.all Task.over &&
          (List.range 8).all (fun d => !(s.die d).alive || decide (s.now d > wct + 4)) then
        let status := ms.foldl (fun a k => Nat.max a k.status) 0
        let c := l.ctx
        let addr := wrapNat (l.crec + 16 * (l.seq % l.maxpend) : Nat) 64
        let bytes := leBytes 4 l.seq ++ leBytes 4 status ++ leBytes 8 (s.now (c / 512))
        let s1 := setCtx s c (ctxField s c 127 96) (ctxField s c 95 85 - 1)
        { s1 with
          launches := sset s1.launches launch { l with complete := true, status := status }
          hostWrites := if stepPassed s (l.domain / 32) 7 then s1.hostWrites ++ [(l.pasid, addr, bytes)] else s1.hostWrites
          msix := if l.msie && stepPassed s (l.domain / 32) 7 then s1.msix ++ [(l.domain, l.msixv)] else s1.msix }
      else s

end Sys2Proof.Machine
end

