-- ==== Sys2Proof/Machine/Preempt.lean ====
section
/-! DEFINITION. Dropping groups, forced halts and saving (R70, R204, R215, R216, R256, R259, R260), the pre-emption ladder (R262,
R263, R438), and the responses to service records (R249, R250, R265, R437). -/

namespace Sys2Proof.Machine

/-! ## Dropping groups -/

/-- The slot number that stands for no group: what is left of a group that is gone carries it. -/
def noSlot : Nat := 4096

/-- Take the number of a slot away from what its group leaves behind: requests in flight, operations that run to their end, and copies
whose transfers go on. The requests of a saved group keep their fibres, under the task and GRPIX that are given: the restored group's
releases wait for them, and T enters the WCT of its fibres (R163, R168). Those of another group name no fibre. -/
def detach (s : State) (u slot : Nat) (saved : Option (Nat × Nat) := none) : State :=
  let part := fun (p : Part) => if saved.isSome then p else { p with fibre := noSlot }
  let s1 := { s with flights := s.flights.map fun (x : Flight) => if x.u == u && x.slot == slot then
      { x with slot := noSlot, saved := saved, parts := x.parts.map part } else x }
  s1.modCore u fun c => { c with
    running := c.running.map (fun m => if m.slot = slot then { m with slot := noSlot } else m)
    copies := c.copies.map (fun x => if x.slot = slot then { x with slot := noSlot } else x)
    locks := c.locks.map (fun k => if k.slot = slot then { k with slot := noSlot } else k) }

/-- The 128-byte line transfer of a lane, by its destination. -/
def lineTransfer (x : Copy) (l : CopyLane) : Nat := if x.space = 1 || x.space = 3 then lineOf l.dst else lineOf l.dstPa
/-- The line transfer of a lane has started: bytes of it have been read, sent or written. -/
def transferBegun (x : Copy) (l : CopyLane) : Bool :=
  x.lanes.any fun m => lineTransfer x m == lineTransfer x l && !m.failed && (m.data.isSome || m.sent || m.written.isSome || m.done)
/-- A lane of a copy whose group is dropped (R215). A line transfer that has started is performed whole, from scratchpad bytes read
now; a transfer into the group's own storage, which is lost, is over at once. Every other lane is cancelled. -/
def haltLane (s : State) (u : Nat) (x : Copy) (l : CopyLane) : CopyLane :=
  if l.done || l.failed || x.space = 1 || x.space = 3 || !transferBegun x l then { l with done := true, failed := !l.done || l.failed }
  else if x.space = 0 && l.data.isNone then { l with data := sourceBytes s u x l } else l
/-- The counters of the lanes whose started transfers into the group's scratchpad are performed whole. Their lanes count as performed
before the halt: DESIGN CHOICE, since R215 puts the halt at the line boundary. -/
def haltCounters (x : Copy) : List Nat :=
  if x.space ≠ 1 then []
  else (x.lanes.filter fun l => !l.done && !l.failed && l.ctr != 0xFFFFFFFF && transferBegun x l).map (·.ctr)

/-- The writes of a dropped group's copy to another package, none of whose lanes has started, as they leave without bytes (R403): the first
lane of each. -/
def haltedLines (x : Copy) : List CopyLane :=
  (x.lanes.zipIdx.filter fun e => x.registered && e.1.epoch.isSome && !transferBegun x e.1 &&
    ((packetLanes x e.1).head?.map (·.1)) == some e.2).map (·.1)
def sendHalted (s : State) (u : Nat) (x : Copy) : State :=
  (haltedLines x).foldl (fun s l => sendJoined s u (l.dstSlot.getD 0) l.key (l.epoch.getD 0) (lineOf l.dstPa) []) s
/-- The engine operations of a dropped group: queued entries and transfers are dropped, running entries go on to their end, copies
are cancelled at line boundaries, and locks other than those of running entries are released (R204, R215). -/
def cancelEngines (s : State) (u slot : Nat) : State :=
  let mine := (s.core u).copies.filter fun x => x.slot == slot
  let s1 := (mine.foldl (fun s x => sendHalted s u x) s).modCore u fun c =>
    let running := (c.running.filter fun m => m.slot == slot).map (·.id)
    { c with
      queue := c.queue.filter (fun m => m.slot != slot)
      transfers := c.transfers.filter (fun m => m.slot != slot)
      returns := c.returns.filter (fun r => r.slot != slot)
      copies := (c.copies.map fun x => if x.slot = slot then { x with lanes := x.lanes.map (haltLane s u x) } else x).filter
        fun x => x.slot != slot || (x.registered && !(x.lanes.all (·.done)))
      locks := c.locks.filter (fun k => k.slot != slot || running.contains k.owner)
      cbOpen := c.cbOpen.filter fun b => b.slot != slot }
  ((mine.filter (·.registered)).flatMap haltCounters).foldl (fun s k => counterDec s (dieOf u) k) s1

/-- Cancel the records of fibres of a group (R265). -/
def cancelRecords (s : State) (u slot : Nat) : State :=
  s.modDie (dieOf u) fun d =>
    { d with records := d.records.filter fun r => !(r.u == u && r.slot == slot && !r.fibres.isEmpty) }

/-- Tasks that a group's fibres were still handing to the scheduler are handed by nobody. -/
def withdrawTenq (s : State) (u slot : Nat) : State :=
  match s.group u slot with
  | none => s
  | some g =>
    let ts := g.fibres.filterMap fun f => match f.2.wait with
      | some (.tenqRoom t _) => some t
      | _ => none
    { s with tasks := s.tasks.filter fun e => !ts.contains e.1 }

/-- Drop a group without saving (R70, R204, R215, R259, R263). -/
def dropGroup (s : State) (u slot : Nat) : State :=
  vacate (detach (cancelEngines (cancelRecords (withdrawTenq s u slot) u slot) u slot) u slot) u slot

/-- Drop every group of a gang, and what the gang holds. -/
def dropGang (s : State) (t : Nat) : State :=
  match sget s.tasks t with
  | none => s
  | some k => releaseGang (k.groups.foldl (fun s p => dropGroup s p.1 p.2) s) t

/-- Note what a restart needs of a group: its largest WCT, and the frame writes still in flight (R168, R258). -/
def noteRestart (t : Nat) (s : State) (p : Nat × Nat) : State :=
  match s.group p.1 p.2 with
  | none => s
  | some g => modTask s t fun k =>
    { k with groupWct := sset k.groupWct g.grpIx (Nat.max (sgetD k.groupWct g.grpIx 0) (groupWct g))
             drain := if k.tdone then k.drain else k.drain ++ outstanding s p.1 p.2 }

/-- The group is on its way to another core (R280). -/
def Group.migrating (g : Group) : Bool :=
  match g.st with
  | .migrating _ => true
  | _ => false

/-- A discard-class gang is dropped and its task returns to READY (R227, R259). -/
def discardGang (s : State) (t : Nat) : State :=
  match sget s.tasks t with
  | none => s
  | some k => readmit (dropGang (k.groups.foldl (noteRestart t) s) t) t false

/-! ## Trap-class saving (R260) -/

/-- The claim of a lane waits for a free slot: the block has none, and its open slot no room (R212, R216). -/
def claimStarved (s : State) (u slot : Nat) (g : Group) (l : CopyLane) : Bool :=
  (cbBlock g l.ctr).free == 0 && (match cbOpenOf s u slot l.ctr with
    | some b => decide (b.size ≤ b.pos)
    | none => true)
/-- The claims of a halted group that wait for a free slot are cancelled, with nothing written or signalled (R216); an execution that
waits for lock entries is issued again after the restore. Its other claims go on. -/
def cancelClaims (s : State) (u slot : Nat) : State :=
  match s.group u slot with
  | none => s
  | some g => s.modCore u fun c => { c with
      copies := (c.copies.filter fun x => x.slot != slot || x.registered).map fun x =>
        if x.slot = slot && x.space = 3 then
          { x with lanes := x.lanes.map fun l =>
              if !l.claimed && !l.done && claimStarved s u slot g l then { l with done := true, failed := true } else l }
        else x }

/-- Copies of a group without a lane left leave the engine. -/
def sweepCopies (s : State) (u slot : Nat) : State :=
  ((s.core u).copies.filter fun x => x.slot == slot && x.lanes.all (·.done)).foldl (fun s x => retireCopy s u x.id) s

/-- A group is halted: no fibre of it issues, its records are cancelled and calls through gates end at their GCALL (R265), and what it
waits to hand over is withdrawn. -/
def haltGroup (s : State) (u slot : Nat) : State :=
  match s.group u slot with
  | none => s
  | some g =>
    let s1 := g.fibres.foldl (fun s f => unwindGate s u slot f.1) (cancelRecords (withdrawTenq s u slot) u slot)
    s1.modGroup u slot fun g => { g with st := .halting }

/-- A store of a group's fibres to their region frames is not performed yet (R258). -/
def frameBusy (s : State) (u slot : Nat) : Bool := s.flights.any fun x => x.u == u && x.slot == slot && x.frame
/-- A group has a producer or an operation that must end before its save routine starts (R70, R204, R216), a fibre that waits for a
release, with the answers that a RIDGE asks for (R183, R300, R306), or a frame store in flight (R258). -/
def stillBusy (s : State) (u slot : Nat) : Bool :=
  engineBusy s u slot || frameBusy s u slot || match s.group u slot with
    | none => false
    | some g => g.fibres.any fun f => match f.2.wait with
      | some (.release _) | some (.atomics _) => true
      | _ => false

/-- The registers of a fibre as they are saved: those that a waiting CBACQ or MRECV has emptied and not been given are full again, since
the instruction is executed again after the restore (R213, R385). DESIGN CHOICE. -/
def refill (f : Fibre) : SMap Reg :=
  let full := fun (d n : Nat) => (List.range n).foldl (fun m i => sset m (d + i) { f.reg (d + i) with st := .full }) f.regs
  match f.wait with
  | some (.buffer _ d _ _) => full d 1
  | some (.receive _ d _ _) => full d 16
  | _ => f.regs
/-- A live fibre enters its save routine: FPC holds the next instruction to execute, or the faulting one (R260). -/
def enterSave (savev : DWord) (opp : Nat) (f : Fibre) : Fibre :=
  { f with fpc := if f.faulted then f.fpc else f.pc, faddr := 0, fcause := fcauseWord 0 0 Cause.preempt, faulted := false,
           wait := none, predPend := 0, sup := true, saving := true, pc := alignPc savev, readyAt := opp, regs := refill f }

/-- What a saved fibre waited for, as far as it comes back with its open sets (R49). -/
def keptWait (f : Fibre) : Option Wait × BitVec 8 :=
  (match f.wait with
    | some (.signed c) => some (.signed c)
    | _ => none, f.predPend)

/-- A halted group whose operations are done starts its save routine (R260). -/
def startSave (s : State) (u slot : Nat) : State :=
  match s.group u slot with
  | none => s
  | some g =>
    match g.st, g.task with
    | .halting, some t =>
      let s := sweepCopies (cancelClaims s u slot) u slot
      if stillBusy s u slot then s
      else
        let savev : DWord := BitVec.ofNat 64 (domField s (dieOf u) g.domain 8 8)
        let s1 := modTask (cancelRecords s u slot) t fun k =>
          { k with savedWaits := sset k.savedWaits g.grpIx (g.fibres.map fun f => (f.1, keptWait f.2)) }
        s1.modGroup u slot fun g =>
          { g with st := if g.fibres.isEmpty then .ending else .saving, fibres := g.fibres.map fun f => (f.1, enterSave savev (s.core u).opp f.2) }
    | _, _ => s

/-- A group that a forced halt acts on: not ending, and not on its way already; one whose save routine waits for allowance is (R234). -/
def Group.haltable (g : Group) : Bool :=
  match g.st with
  | .halting | .saving | .ending | .landing | .migrating _ | .colwait _ _ _ _ true => false
  | _ => true

/-- Halt a gang by force, by its class (R262). A group that is migrating makes the halt wait (R285), and so does a frame store in flight:
the gang's fibres issue nothing meanwhile (R258). -/
def haltGang (s : State) (t : Nat) : State :=
  match sget s.tasks t with
  | none => s
  | some k =>
    let gs := k.groups.filterMap fun p => s.group p.1 p.2
    if k.groups.isEmpty || gs.any Group.migrating then s
    else if k.hdr.trapClass then
      let s1 := k.groups.foldl (fun s p => match s.group p.1 p.2 with
        | some g => if g.haltable then haltGroup s p.1 p.2 else s
        | none => s) s
      k.groups.foldl (fun s p => startSave s p.1 p.2) (unpinGang s1 t)
    else if k.groups.any fun p => frameBusy s p.1 p.2 then
      k.groups.foldl (fun s p => (cancelRecords s p.1 p.2).modGroup p.1 p.2 fun g =>
        if g.haltable then { g with st := .halting } else g) s
    else discardGang s t

/-! ## Kills -/

/-- Every task of an affected gang takes a status, and is not completed by its drain unless it is draining already (R263). -/
def killGang (status : Nat) (s : State) (t : Nat) : State :=
  modTask (dropGang s t) t fun k =>
    { k with status := Nat.max k.status status, gangId := none, st := match k.st with
      | .draining => .draining
      | .done => .done
      | _ => .aborted }

/-- The gangs with a group of a domain on one of the listed cores of a die. -/
def gangsOn (s : State) (d dom : Nat) (cores : BitVec 32) : List Nat :=
  (s.tasks.filter fun e => e.2.groups.any fun p =>
    dieOf p.1 == d && cores.getLsbD (coreIx p.1) && e.2.domain == dom).map (·.1)
/-- Fibres inside a gate into a domain, on the listed cores of a die. -/
def gateCallers (s : State) (d dom : Nat) (cores : BitVec 32) : List (Nat × Nat × Nat) :=
  (s.cores.filter fun c => dieOf c.1 == d && !isSupCore c.1 && cores.getLsbD (coreIx c.1)).flatMap fun c =>
    c.2.slots.flatMap fun g => (g.2.fibres.filter fun f => match f.2.gate with
      | some t => t.tdom == dom
      | none => false).map fun f => (c.1, g.1, f.1)
/-- An aborted call cancels the record its handler may have open, then faults at its GCALL (R256). -/
def abortCall (s : State) (x : Nat × Nat × Nat) : State := abortGate s x.1 x.2.1 x.2.2
/-- Calls through gates into a domain are aborted on the listed cores (R256, R265). -/
def abortCalls (s : State) (d dom : Nat) (cores : BitVec 32) : State := (gateCallers s d dom cores).foldl abortCall s

/-- The partitions that hold a core of the killed gangs' groups. -/
def partsOfGangs (s : State) (ts : List Nat) : List Nat :=
  let us := ts.flatMap fun t => match sget s.tasks t with
    | some k => k.groups.map (·.1)
    | none => []
  (List.range 16).filter fun p => us.any fun u => unitPart s u == p
/-- The kill step for a domain on cores of a die (R263). -/
def killStep (s : State) (d dom : Nat) (cores : BitVec 32) (ts : List Nat) : State :=
  let parts := partsOfGangs s ts
  hostEvent (ts.foldl (killGang 3) (abortCalls s d dom cores)) parts 2 dom d

/-! ## The ladder (R262, R438) -/

/-- A task has groups in residence. -/
def resident (s : State) (t : Nat) : Bool :=
  match sget s.tasks t with
  | some k => !k.groups.isEmpty
  | none => false
/-- A gang that has left residence is affected no more, though it be admitted again elsewhere; a climb whose affected groups have all
left is HELD. -/
def climbEnd (s : State) (d : Nat) (x : Climb) : Climb :=
  let y := { x with tasks := x.tasks.filter (resident s) }
  if ((gangsOn s d x.domain x.cores).isEmpty || x.shoot) && y.tasks.isEmpty then { y with st := .held } else y
/-- Bring the climbs of a die up to date; a domain that is HELD with its release recorded is released. -/
def settleDie (s : State) (d : Nat) : State :=
  let l := (s.die d).climbs.map (climbEnd s d)
  let open_ := fun dom => l.any fun x => x.domain == dom && x.st != .held && !x.shoot
  let released := fun dom => l.any fun x => x.domain == dom && x.release && !x.shoot
  s.modDie d fun x => { x with climbs := l.filter fun y => if y.shoot then y.st != .held else open_ y.domain || !released y.domain }
def settleClimbs (s : State) : State := (List.range 8).foldl settleDie s

/-- Reserving tasks of a domain with a chosen core among those named return to READY, their wait time kept (R238). -/
def dropReservations (s : State) (d dom : Nat) (cores : BitVec 32) : State :=
  { s with tasks := s.tasks.map fun (e : Nat × Task) =>
      if e.2.st == .reserving && e.2.domain == dom && e.2.chosen.any (fun u => dieOf u == d && cores.getLsbD (coreIx u)) then
        (e.1, { e.2 with st := .ready, chosen := [] })
      else e }

/-- PREQ_REQUEST (R262, R438): a PREQ write with GO = 1. -/
def execPreqRequest (die domain : Nat) (cores : BitVec 32) (s : State) : Answer :=
  .next <|
    let old := ((s.die die).climbs.filter fun x => x.domain == domain).foldl (fun m x => m ||| x.cores) 0
    let new := cores &&& ~~~old
    if new = 0 && old != 0 then s
    else
      settleDie (dropReservations (s.modDie die fun d =>
        { d with climbs := d.climbs ++ [{ domain := domain, st := .soft, cores := new, since := d.time, tasks := gangsOn s die domain new }] }) die domain new) die

/-- PREQ_RELEASE (R262, R438): a PREQ write with GO = 0. With a part of the climb HALTED the release is recorded, and every part goes on
until the domain is HELD. -/
def execPreqRelease (die domain : Nat) (s : State) : Answer :=
  .next <|
    if (s.die die).climbs.any fun x => x.domain == domain && x.st == .halted && !x.shoot then
      settleDie (s.modDie die fun d => { d with climbs := d.climbs.map fun x =>
        if x.domain = domain && !x.shoot then { x with release := true } else x }) die
    else s.modDie die fun d => { d with climbs := d.climbs.filter fun x => x.domain != domain || x.shoot }

/-- One climb at T1: its gangs are halted by force (R262). -/
def graceClimb (s : State) (d : Nat) (x : Climb) : State :=
  let due := match x.st with
    | .soft => decide ((s.die d).time ≥ x.since + 1000 * domField s d x.domain 52 2)
    | .halted => true
    | .held => false
  if due then
    let on := if x.shoot then [] else gangsOn s d x.domain x.cores
    let ts := on ++ x.tasks.filter fun t => !on.contains t
    let s1 := s.modDie d fun y => { y with climbs := y.climbs.map fun z =>
      if z.since = x.since && z.cores = x.cores && z.domain = x.domain && z.shoot = x.shoot then { z with st := .halted, tasks := ts } else z }
    let s2 := match x.st with
      | .soft => abortCalls s1 d x.domain x.cores
      | _ => s1
    ts.foldl haltGang s2
  else s

/-- GRACE_TIMER_EXPIRY (R262): T1 expires; a decode fault about to be taken comes first (R121). Later occurrences carry a halt on: groups whose operations were not done start their save
routines, and gangs whose migration was awaited are halted. -/
def execGraceTimerExpiry (die domain : Nat) (s : State) : Answer :=
  .next <| settleClimbs (((s.die die).climbs.filter fun x => x.domain == domain).foldl (fun s x => graceClimb s die x) (deliverDecode s))

/-- SAVE_TIMER_EXPIRY (R262, R263): T2 expires and what has not left is killed. -/
def execSaveTimerExpiry (die domain : Nat) (s : State) : Answer :=
  .next <| settleClimbs (((s.die die).climbs.filter fun x => x.domain == domain && x.st == .halted &&
      decide ((s.die die).time ≥
        x.since + 1000 * ((if x.shoot then 0 else domField s die domain 52 2) + domField s die domain 54 2))).foldl
    (fun s x =>
      let ts := x.tasks.filter (resident s)
      if ts.isEmpty then s else killStep s die domain x.cores ts) s)

/-! ## The end of a group -/

/-- A group leaves residence; requests of its fibres still in flight name its place no more. -/
def leave (s : State) (u slot : Nat) (saved : Option (Nat × Nat) := none) : State := vacate (detach s u slot saved) u slot

/-- GROUP_END (R41, R260): a group whose last fibre has exited ends once its engine operations have; one whose live fibres have
all left their save routine leaves residence. -/
def execGroupEnd (u slot : Nat) (s : State) : Answer :=
  .next <| settleClimbs <| match s.group u slot with
    | none => s
    | some g =>
      if engineBusy s u slot then s
      else
        match g.st with
        | .ending =>
          match g.task with
          | none => leave s u slot
          | some t =>
            let join := match sget s.tasks t with
              | some k => !k.tdone
              | none => false
            let s1 := leave (if join then joinDrain t s (u, slot) else s) u slot
            let s2 := modTask s1 t fun k =>
              { k with groups := k.groups.filter (· != (u, slot)), finished := g.grpIx :: k.finished }
            match sget s2.tasks t with
            | some k =>
              if k.groups.isEmpty then (if k.savedConvs.isEmpty then endGang s2 t else readmit s2 t true) else s2
            | none => s2
        | .saving =>
          if g.fibres.isEmpty || !(liveFibres g).isEmpty then s
          else
            match g.task with
            | none => s
            | some t =>
              let s1 := leave s u slot (some (t, g.grpIx))
              let s2 := modTask s1 t fun k =>
                { k with groups := k.groups.filter (· != (u, slot)), savedConvs := sset k.savedConvs g.grpIx g.convs }
              match sget s2.tasks t with
              | some k => if k.groups.isEmpty then readmit s2 t true else s2
              | none => s2
        | _ => s

/-! ## Responses to service records (R249, R250) -/

/-- The open record of a tag on a die. -/
def recordOf (s : State) (d tag : Nat) : Option Record := (s.die d).records.find? fun r => r.tag == tag
/-- A record ends; the supervisor's time from its MRECV on is charged to its domain (R250). -/
def endRecord (s : State) (d : Nat) (r : Record) : State :=
  let charged := r.taken && !uncharged r
  s.modDie d fun x =>
    let add := fun (m : SMap Nat) => sset m r.domain (sgetD m r.domain 0 + (x.time - r.takenAt))
    { x with
      records := x.records.filter fun y => y.tag != r.tag
      service := if charged then add x.service else x.service
      serviceAll := if charged then x.serviceAll + (x.time - r.takenAt) else x.serviceAll
      serviceRank := if charged then add x.serviceRank else x.serviceRank }

/-- The stopped fibres of a record leave FAULTED at an address. -/
def releaseFibres (s : State) (r : Record) (pc : DWord) : State :=
  let now := (s.core r.u).opp
  r.fibres.foldl (fun s id => s.modFibre r.u r.slot id fun f =>
    if f.faulted then { f with faulted := false, pc := alignPc pc, readyAt := now } else f) s

/-- The first instruction start after the one at `pc`, as the line at `pc` gives it; an instruction whose line cannot be fetched
counts as one parcel (R98, R99). -/
def afterInstr (s : State) (r : Record) : DWord :=
  match s.group r.u r.slot with
  | none => nextPc r.fpc 1
  | some g =>
    match r.fibres.findSome? fun id => sget g.fibres id with
    | none => nextPc r.fpc 1
    | some f =>
      match fetchPageNow s r.u g f r.fpc.toNat with
      | .error _ => nextPc r.fpc 1
      | .ok p =>
        let k := r.fpc.toNat / 4 % 16
        match (lineStarts (coreLine s r.u (p.pa + 4 * k))).find? fun j => decide (k < j) with
        | some j => nextPc r.fpc (j - k)
        | none => nextPc r.fpc 15

/-- RESUME (R249). -/
def execResponseResume (die tag : Nat) (s : State) : Answer :=
  .next <| match recordOf s die tag with
    | none => s
    | some r => releaseFibres (endRecord s die r) r r.fpc

/-- The line at an address must be fetched for a response, and its translation waits for a shoot-down or for the host's reply (R276,
R314): the response waits with it. -/
def responseWaits (s : State) (r : Record) (va : Nat) : Bool :=
  match s.group r.u r.slot with
  | none => false
  | some g =>
    match r.fibres.findSome? fun id => sget g.fibres id with
    | none => false
    | some f => match fetchPageNow s r.u g f va with
      | .error (.block _) => true
      | _ => false
/-- The line at an address is fetched for a response. -/
def responseFetch (s : State) (r : Record) (va : Nat) : State :=
  match s.group r.u r.slot with
  | none => s
  | some g =>
    match r.fibres.findSome? fun id => sget g.fibres id with
    | none => s
    | some f => fetchTargetNow s r.u g f va

/-- SKIP (R249). -/
def execResponseSkip (die tag : Nat) (s : State) : Answer :=
  .next <| match recordOf s die tag with
    | none => s
    | some r => if responseWaits s r r.fpc.toNat then s else releaseFibres (endRecord s die r) r (afterInstr s r)

/-- The redirect address passes R101, or its line cannot be fetched and the transfer is unchecked (R321). -/
def redirectOk (s : State) (r : Record) (va : Nat) : Bool :=
  match s.group r.u r.slot with
  | none => true
  | some g =>
    match r.fibres.findSome? fun id => sget g.fibres id with
    | none => true
    | some f =>
      match fetchPageNow s r.u g f va with
      | .error _ => true
      | .ok p => fetchBroken s r.u p.pa || targetOk (coreLine s r.u p.pa) va

/-- REDIRECT (R249): an address that fails R101 stops the same fibres with ALIGNMENT, in a new record. -/
def execResponseRedirect (die tag : Nat) (target : DWord) (s : State) : Answer :=
  .next <| match recordOf s die tag with
    | none => s
    | some r =>
      if responseWaits s r target.toNat then s else
      let s1 := endRecord (responseFetch s r target.toNat) die r
      if r.fibres.isEmpty then s1
      else if redirectOk s r target.toNat then releaseFibres s1 r target
      else s1.takeFault r.u r.slot r.fibres (bitsOf r.who.toNat 25 16) (bitsOf r.fcause.toNat 26 22) Cause.alignment 0 target.toNat
        r.fpc

/-- KILL (R249, R256, R265): a call through a gate is aborted; otherwise the domain is killed on the group's core. -/
def execResponseKill (die tag : Nat) (s : State) : Answer :=
  .next <| match recordOf s die tag with
    | none => s
    | some r =>
      let s1 := endRecord s die r
      match s.group r.u r.slot with
      | none => s1
      | some g =>
        let inGate := r.fibres.filter fun id => match sget g.fibres id with
          | some f => f.gate.isSome
          | none => false
        if r.fibres.isEmpty || isSupCore r.u then s1
        else if !inGate.isEmpty then inGate.foldl (fun s id => abortGate s r.u r.slot id) s1
        else
          let cores : BitVec 32 := 1#32 <<< coreIx r.u
          settleClimbs (killStep s1 die g.domain cores (gangsOn s1 die g.domain cores))

end Sys2Proof.Machine
end

