-- ==== Sys2Proof/Machine/Channel.lean ====
section
/-! DEFINITION. MIGR and the commit of a migration (R280, R380), RIDGE (R401, R402), the Satus channel (R273, R274, R384) and MRECV
(R385), and the supervisor's cache entries: TINV (R418), LPIN and LUNPIN (R376, R377), CFLUSH and CINV (R342). -/

namespace Sys2Proof.Machine

/-! ## MIGR -/

/-- The effective home behind a page, 8 for one of another package. -/
def homeDie (s : State) (p : Page) : Nat := if paPkg p.pa = s.pkg then paDie p.pa else 8

/-- MIGR (R380): the fibre waits at the instruction. Inside a gate, and for a supervisor group, it raises MIGRATE (R12). -/
def execMigr (o : OpM) (s : State) : Answer :=
  .next <| runLanes s o.g o.len
    (fun c ln => do
      let a ← addr64 c ln.f o 1
      if ln.f.gate.isSome || isSupCore c.u then stopFault Cause.migrate a
      let p ← translate c.s c.u (whoOf c.s c.u c.g ln.f) a .load 1 true
      return (a, homeDie c.s p))
    fun c s l =>
      settleMigr (l.foldl (fun s x => s.modFibre c.u c.slot x.1.id fun f =>
        { f with wait := some (.migrate (BitVec.ofNat 64 x.2.1) x.2.2 (nextPc c.pc o.len) x.1.l), pc := c.pc }) s) c.u c.slot

/-- What a migration waits for: producers, engine operations, and the earlier stores, atomics and DSM operations of the group's
fibres (R280, R380). -/
def migrBusy (s : State) (u slot : Nat) : Bool :=
  engineBusy s u slot || s.flights.any fun x => x.u == u && x.slot == slot

/-- The group as it stands in the landing slot: its fibres' registers move with it, with the KSCR bytes of its scratchpad (R68, R140);
the window begins at the slot's storage. A poisoned register keeps the cause its mark records, which the layouts of R67 do not
carry: DESIGN CHOICE. -/
def landed (s : State) (g land : Group) (u : Nat) : Group :=
  let g1 : Group := { migrRelease (s.core u).opp g with
    scratch := g.scratch.filter fun e => decide (e.1 < g.hdr.kscr)
    st := .run, set := ((dpartOf s u g.domain).map (·.1)).getD 0, pasid := domField s (dieOf u) g.domain 4 4 % 2 ^ 20,
    vbase := land.vbase, ubase := land.ubase, banks := land.banks, ptiles := land.ptiles, paccs := land.paccs, drowsy := [] }
  { g1 with fibres := g1.fibres.map fun (e : Nat × Fibre) => (e.1, { e.2 with windowBase := windowOf g1 e.1 }) }

/-- MIGRATION_COMMIT (R280): the group resumes in the gang's landing slot on the target die, and its former place becomes the
landing slot of the source die. -/
def execMigrationCommit (u slot : Nat) (s : State) : Answer :=
  .next <| match s.group u slot with
    | none => s
    | some g => match g.st, g.task with
      | .migrating d, some t =>
        if migrBusy s u slot then s
        else match landingOn s g d with
          | none => s
          | some (u', slot') => match s.group u' slot' with
            | none => s
            | some land =>
              let opens := (s.core u).cbOpen.filter fun b => b.slot == slot
              let s1 := s.setGroup u' slot' (landed s g land u')
              let s2 := s1.setGroup u slot { hdr := g.hdr, st := .landing, domain := g.domain, set := g.set, gangId := g.gangId,
                                             task := g.task, pasid := g.pasid, vbase := g.vbase, ubase := g.ubase,
                                             banks := g.banks, ptiles := g.ptiles, paccs := g.paccs }
              let s3 := (s2.modCore u fun c => { c with cbOpen := c.cbOpen.filter fun b => b.slot != slot }).modCore u' fun c =>
                { c with cbOpen := c.cbOpen ++ opens.map fun b => { b with slot := slot' } }
              modTask s3 t fun k =>
                { k with groups := k.groups.map (fun p => if p = (u, slot) then (u', slot') else p)
                         landing := k.landing.map fun p => if p = (u', slot') then (u, slot) else p }
      | _, _ => s

/-! ## RIDGE (R401, R402) -/

/-- A checked lane of RIDGE. -/
structure RidgeLane where
  pa : Nat
  slot : Nat
  data : List Byte

/-- The bytes of a store's data registers, low bytes first (R370). -/
def dataBytes (n : Nat) (ws : List Word) : List Byte := (wordsBytes ws).take n

/-- The first loop of R402 for one lane, but for the slots of earlier lanes. -/
def ridgeProbe (o : OpM) (c : Ctx) (ln : Lane) : Except Stop RidgeLane := do
  let n := 2 ^ o.size.toNat
  holdCheck c ln
  let ea ← addr64 c ln.f o n
  let ws ← srcRegs c ln.f (clsOf o.ub) o.b.r.toNat o.b.w ((n + 3) / 4)
  let p ← translate c.s c.u (whoOf c.s c.u c.g ln.f) ea .store n
  if paPkg p.pa = c.s.pkg then stopFault Cause.permission ea
  let r ← routeCheck c.s c.u (domainOf c.g ln.f) ea p.pa
  return { pa := p.pa, slot := r.getD 0, data := dataBytes n ws }

/-- An earlier active lane uses the slot. -/
def slotUsed (o : OpM) (c : Ctx) (ln : Lane) (slot : Nat) : Bool :=
  ((activeOf o.g (predFree o.g c.lanes)).takeWhile fun x => x.id != ln.id).any fun x => match ridgeProbe o c x with
    | .ok y => y.slot == slot
    | .error _ => false

/-- An atomic of the fibre on a slot is unanswered (R300). -/
def atomicOn (s : State) (u slot id n : Nat) : Bool :=
  s.flights.any fun x => x.isOf u slot id && (match x.slotTag with
    | some (k, _) => k == n
    | none => false)

/-- The checks of RIDGE. -/
def ridgeCheck (o : OpM) (c : Ctx) (ln : Lane) : Except Stop RidgeLane := do
  let x ← ridgeProbe o c ln
  if slotUsed o c ln x.slot then do
    let ea ← addr64 c ln.f o (2 ^ o.size.toNat)
    stopFault Cause.permission ea
  return x
/-- What a RIDGE waits for once its slots are charged: its release at .pkg, then the fibre's earlier atomics on each slot used (R300). -/
def ridgeHold (c : Ctx) (slots : List Nat) (ln : Lane) : Option Wait :=
  match releaseHold c 4 ln with
  | some w => some w
  | none => (slots.find? fun n => atomicOn c.s c.u c.slot ln.id n).map .atomics

/-- RIDGE (R402). -/
def execRidge (o : OpM) (s : State) : Answer :=
  .next <| runLanes s o.g o.len (ridgeCheck o) fun c s l =>
    chargeThenHold c s l (fun l => l.foldl (fun m x => sset m x.2.slot 64) []) (fun _ => []) (ridgeHold c (l.map (·.2.slot))) fun s l =>
      (byFibre l).foldl (fun s x => sendRidge s c.u x.2.slot (keyFor c [x.1]) (some (x.2.pa, x.2.data))) s

/-! ## The Satus channel -/

/-- A supervisor core's number in the package and its core unit (R12, R273). -/
def supNumber (u : Nat) : Nat := 4 * dieOf u + (coreIx u - 32)
def supUnit (n : Nat) : Nat := 64 * (n / 4) + 32 + n % 4
/-- The live supervisor cores. -/
def liveSups (s : State) : List Nat := (List.range 32).filter fun n => (s.die (n / 4)).alive && !(s.die (n / 4)).judged
/-- A multicast group's entry on the master die; group 0 is every live supervisor core (R273). -/
def groupEntry (s : State) (g : Nat) : Nat := (s.die s.master).num (0x6000900000 + 8 * g) 8
def groupValid (s : State) (g : Nat) : Bool := g == 0 || (groupEntry s g).testBit 63
def groupMembers (s : State) (g : Nat) : List Nat :=
  (liveSups s).filter fun n => g == 0 || (groupEntry s g).testBit n

/-- Messages that stand in a member's queue or wait for it. -/
def satusLoad (s : State) (n : Nat) : Nat :=
  (s.core (supUnit n)).satus.length + (s.satus.filter fun m => m.targets.contains n).length
/-- The channel takes a message for some members: none of their queues is full, counting what waits for them. -/
def satusRoom (s : State) (ns : List Nat) : Bool := ns.all fun n => decide (satusLoad s n < 256)

/-- The message with the fields that the hardware writes (R274). -/
def satusMsg (seq group sender : Nat) (body : List Byte) : BitVec 512 :=
  BitVec.ofNat 512 (ofLe (leBytes 4 seq ++ leBytes 1 group ++ leBytes 1 sender ++ (body.drop 6).take 58))
/-- Give a message to a group to the sequencer: it gets the group's next number. -/
def sendGroup (s : State) (g sender : Nat) (body : List Byte) : State :=
  let q := sgetD s.groupSeq g 0
  { s with
    groupSeq := sset s.groupSeq g ((q + 1) % 2 ^ 32)
    satus := s.satus ++ [{ group := some g, targets := groupMembers s g, seq := q, msg := satusMsg q g sender body,
                           sender := sender }] }
/-- Give a unicast message to the channel. -/
def sendUnicast (s : State) (n sender : Nat) (body : List Byte) : State :=
  { s with satus := s.satus ++ [{ group := none, targets := [n], seq := 0, msg := satusMsg 0 0xFF sender body, sender := sender }] }
/-- A message of the hardware to group 0: its type and body (R274). -/
def sendHard (s : State) (type : Nat) (body : List Byte) : State :=
  sendGroup s 0 0xFF (List.replicate 6 0 ++ leBytes 2 type ++ body)

/-- The destination word of MSEND: none when it is malformed, or names no VALID group or a core of a lost die (R384). -/
def satusDest (s : State) (u w : Nat) : Option (Option Nat × List Nat) :=
  if w.testBit 31 then
    if bitsOf w 30 5 != 0 || (dieLost s (dieOf u)).testBit (w % 32 / 4) then none else some (none, [w % 32])
  else if bitsOf w 30 6 != 0 || !groupValid s (w % 64) then none
  else some (some (w % 64), groupMembers s (w % 64))

/-- A checked lane of MSEND. -/
structure SendLane where
  dest : Option Nat × List Nat
  body : List Byte

/-- The checks of MSEND (R384). -/
def msendCheck (o : OpT) (c : Ctx) (ln : Lane) : Except Stop SendLane := do
  let ws ← srcRegs c ln.f 0 o.a.r.toNat o.a.w 16
  let w ← srcB c ln.f o
  let body := wordsBytes ws
  let type := ofLe ((body.drop 6).take 2)
  match satusDest c.s c.u w.toNat with
  | none => stopFault Cause.permission w.toNat
  | some d => do
    if type ≥ 0x8000 then stopFault Cause.permission type
    if !isSupCore c.u then stopFault Cause.privilege 0
    releaseCheck c ln 4
    return { dest := d, body := body }

/-- One lane of MSEND, or its wait for the channel. -/
def msendLane (c : Ctx) (s : State) (_ : Lane) (x : SendLane) : SignEnd :=
  if satusRoom s x.dest.2 then
    .done (match x.dest.1 with
      | some g => sendGroup s g (supNumber c.u) x.body
      | none => sendUnicast s (x.dest.2.headD 0) (supNumber c.u) x.body)
  else .block .satusRoom

/-- MSEND (R384). -/
def execMsend (o : OpT) (s : State) : Answer := .next <| runLanes s o.g o.len (msendCheck o) (commitSign msendLane)

/-- A message of the hardware also enters the list that each die's hardware acts on, for DIEFAIL that of the named die too
(R276, R282). -/
def hearHard (s : State) (m : Satus) (live : List Nat) : State :=
  if m.sender = 0xFF then
    { s with dies := s.dies.map fun (e : Nat × Die) =>
        if live.any (fun n => n / 4 == e.1) || (m.targets.any (fun n => n / 4 == e.1) && e.2.alive) then
          (e.1, { e.2 with hardIn := e.2.hardIn ++ [m.msg] })
        else e }
  else s

/-- SATUS_DELIVER (R273): a message enters every live member's queue at once, when all of them have room, the messages of a group in
their order and those of a unicast sender to one core in theirs. -/
def execSatusDeliver (idx : Nat) (s : State) : Answer :=
  .next <| match s.satus[idx]? with
    | none => s
    | some m =>
      let before := (s.satus.take idx).any fun x =>
        x.group == m.group && (m.group.isSome || (x.sender == m.sender && x.targets == m.targets))
      let live := m.targets.filter fun n => (liveSups s).contains n
      if before || !(live.all fun n => decide ((s.core (supUnit n)).satus.length < 256)) then s
      else
        live.foldl (fun s n => s.modCore (supUnit n) fun c => { c with satus := c.satus ++ [m.msg] })
          (hearHard { s with satus := s.satus.eraseIdx idx } m live)

/-! ## MRECV (R250, R385) -/

/-- Records not handed out yet. -/
def waitingRecords (s : State) (d : Nat) : List Record := (s.die d).records.filter fun r => !r.taken
/-- SMIN and the sum of SMIN over the valid entries of a die (R242, R250). -/
def sminOf (s : State) (d dom : Nat) : Nat := domField s d dom 56 2
def sminSum (s : State) (d : Nat) : Nat :=
  ((List.range 256).map fun m => if (domField s d m 0 1).testBit 0 then sminOf s d m else 0).foldl (· + ·) 0
/-- SVCCAP (R250). -/
def svccapOf (s : State) (d : Nat) : Nat := (s.die d).num 0x6000500200 4
/-- The service time of a domain since its present spell of records began, and the die's in that time. The rule counts while a domain
has records queued: DESIGN CHOICE, a spell lasts while the domain has an open record. -/
def servedTime (s : State) (d dom : Nat) : Nat := sgetD (s.die d).service dom 0
def servedAll (s : State) (d dom : Nat) : Nat := (s.die d).serviceAll - sgetD (s.die d).serviceFrom dom 0
/-- A domain has received less than its effective minimum SMIN × f of the die's service time (R250). -/
def belowMin (s : State) (d dom : Nat) : Bool :=
  let sum := sminSum s d
  let num := Nat.min (svccapOf s d) sum
  decide (servedTime s d dom * 1000 * sum < servedAll s d dom * sminOf s d dom * num)
/-- Domain `a` is served before domain `b`: one below its minimum first, then the one with the smaller time for its weight
SMIN + 1. -/
def servedBefore (s : State) (d a b : Nat) : Bool :=
  if belowMin s d a != belowMin s d b then belowMin s d a
  else decide (sgetD (s.die d).serviceRank a 0 * (sminOf s d b + 1) < sgetD (s.die d).serviceRank b 0 * (sminOf s d a + 1))

/-- The record that the service queue hands out next (R250). -/
def nextRecord (s : State) (d : Nat) : Option Record :=
  match (waitingRecords s d).find? uncharged with
  | some r => some r
  | none =>
    match waitingRecords s d with
    | [] => none
    | r :: t => some (t.foldl (fun a b => if servedBefore s d b.domain a.domain then b else a) r)

/-- Give a fibre the words of a message, as an acquire at .pkg. -/
def giveMessage (s : State) (u slot id d : Nat) (ws : List Word) : State :=
  acquirePkg (s.addReturn u { id := 0, slot := slot, fibre := id, dests := stillOwed s u slot id (regWrites 0 d ws), acq := true }) u
/-- A fibre takes the next message of a queue; none when the queue is empty. -/
def takeMessage (s : State) (u slot id d q : Nat) : Option State :=
  if q = 0 then
    match (s.core u).satus with
    | [] => none
    | m :: t => some (giveMessage (s.modCore u fun k => { k with satus := t }) u slot id d (bytesWords 16 (leBytes 64 m.toNat)))
  else
    match nextRecord s (dieOf u) with
    | none => none
    | some r => some (giveMessage (s.modDie (dieOf u) fun x => { x with records := x.records.map fun y =>
        if y.tag = r.tag then { y with taken := true, takenAt := x.time } else y }) u slot id d (recordWords r))
/-- Fibres of a core that wait at an MRECV of a queue, with their places in the order. -/
def recvWaiters (s : State) (u q : Nat) : List Nat :=
  (s.core u).slots.flatMap fun g => g.2.fibres.filterMap fun e => match e.2.wait with
    | some (.receive k _ _ seq) => if k = q then some seq else none
    | _ => none
/-- One lane of MRECV: its registers are empty from now on (R55, R385); it takes a message, or waits behind those that wait already. -/
def mrecvLane (o : OpT) (c : Ctx) (s : State) (ln : Lane) (q : Nat) : SignEnd :=
  let d := o.d.toNat
  let s1 := s.emptyRegs c.u c.slot ln.id (blankDests d 16)
  match (if (recvWaiters s c.u q).isEmpty then takeMessage s1 c.u c.slot ln.id d q else none) with
  | some s2 => .done s2
  | none =>
    .done (({ s1 with nextId := s.nextId + 1 }.rewind c.u c.slot ln.id c.pc).block c ln.id
      (.receive q d (nextPc c.pc o.len) s.nextId))
/-- A fibre that waits at an MRECV takes its message and goes on, once there is one and no fibre of the core waits before it. -/
def recvResume (s : State) (u slot id d q : Nat) (next : DWord) (seq : Nat) : Option State :=
  if (recvWaiters s u q).all fun k => decide (seq ≤ k) then
    (takeMessage s u slot id d q).map fun s1 => s1.modFibre u slot id fun f => { f.ready (s.core u).opp with pc := next }
  else none

/-- MRECV (R385). -/
def execMrecv (o : OpT) (s : State) : Answer :=
  .next <| runLanes s o.g o.len
    (fun c ln => do
      let q ← srcB c ln.f o
      destsReady c ln.f 0 o.d.toNat 16
      if q.toNat > 1 then stopFault Cause.permission q.toNat
      if !isSupCore c.u then stopFault Cause.privilege 0
      return q.toNat)
    (commitSign (mrecvLane o))

/-! ## TINV -/

/-- The entries that TINV leaves (R418). -/
def tinvKeeps (k pasid va : Nat) (t : TlbEntry) : Bool :=
  if k = 2 then false
  else if k = 1 then t.pasid != pasid
  else !(t.pasid == pasid && (if t.big then t.vpage == va / 2 ^ 28 else t.vpage == va / 65536))
/-- Drop translations from every cache of a die: those that `keep` refuses, and walk-cache entries that `keepWalk` refuses. -/
def dropTranslations (s : State) (d : Nat) (keep : TlbEntry → Bool) (keepWalk : WalkEntry → Bool) : State :=
  (s.mapCores (fun u => dieOf u == d) fun c => { c with tlb := c.tlb.filter keep, noPage := [] }).modDie d fun x =>
    { x with sharedTlb := x.sharedTlb.map (fun e => (e.1, e.2.filter keep)), walkCache := x.walkCache.map fun e => (e.1, e.2.filter keepWalk) }

/-- TINV (R418). -/
def execTinv (o : OpM) (s : State) : Answer :=
  .next <| runLanes s o.g o.len
    (fun c ln => do
      let a ← addr64 c ln.f o 1
      let p ← srcField c ln.f o.ub o.b
      return (a, p.toNat % 2 ^ 20))
    fun c s l => l.foldl (fun s x =>
      let k := o.size.toNat
      dropTranslations s (dieOf c.u) (tinvKeeps k x.2.2 x.2.1) fun t => if k = 2 then false else t.pasid != x.2.2) s

/-! ## LPIN and LUNPIN -/

/-- The owner of a pin: the issuing group's gang, or the supervisor core; a group of no task owns by its place. -/
def pinOwner (u slot : Nat) (g : Group) : Nat ⊕ Nat :=
  match g.task with
  | some t => .inl t
  | none => .inr (if isSupCore u then u else 4096 + 64 * u + slot)

/-- The line that a lane of LPIN or LUNPIN names. -/
def pinPage (o : OpM) (clamp : Bool) (c : Ctx) (ln : Lane) : Except Stop (Nat × Page) := do
  let a ← addr64 c ln.f o 1
  let p ← translate c.s c.u (whoOf c.s c.u c.g ln.f) a .load 1 true
  if clamp then islandCheck c.s c.u a p.pa
  return (a, p)

/-- The pinned ways of a set of a slice (R376). -/
def pinnedWays (d : Die) (sl set : Nat) : Nat :=
  ((d.pins.filter fun q => q.slice == sl && sget d.l2 q.line == some set).map (·.line)).eraseDups.length

/-- Change the first entry of a pin table that a test holds of. -/
def modPin (p : Pin → Bool) (f : Pin → Pin) : List Pin → List Pin
  | [] => []
  | q :: t => if p q then f q :: t else q :: modPin p f t

/-- Pin the line of a page, and whether it is pinned (R376). An owner whose entry counts 255 takes a further entry. -/
def pinLine (c : Ctx) (s : State) (ln : Lane) (va : Nat) (p : Page) : State × Bool :=
  if paPkg p.pa ≠ s.pkg || !plainPa p.pa then (s, false)
  else
    let d := paDie p.pa
    let sl := sliceOf p.pa
    let line := lineIx p.pa
    let me := pinOwner c.u c.slot c.g
    let mine := fun (q : Pin) => q.slice == sl && q.line == line && q.owner == me
    let pins := (s.die d).pins
    let cls := classOf s c.u (domainOf c.g ln.f)
    let room := fun (q : Pin) => mine q && decide (q.count < 255)
    if pins.any room then
      (s.modDie d fun x => { x with pins := modPin room (fun q => { q with count := q.count + 1 }) x.pins }, true)
    else if decide ((pins.filter fun q => q.slice == sl).length < 256) && decide (pinnedWays (s.die d) sl (setOf p.pa cls) < 8) then
      ((l2Fill s p.pa cls).modDie d fun x => { x with pins := x.pins ++ [⟨sl, line, me, (whoOf s c.u c.g ln.f).pasid, va, 1⟩] }, true)
    else (s, false)

/-- LPIN (R376). -/
def execLpin (o : OpM) (s : State) : Answer :=
  .next <| runLanes s o.g o.len
    (fun c ln => do
      let x ← pinPage o true c ln
      destReady c ln.f 0 o.d.toNat
      return x)
    fun c s l => l.foldl (fun s x =>
      let r := pinLine c s x.1 x.2.1 x.2.2
      r.1.writeReg c.u c.slot x.1.id 0 o.d.toNat (if r.2 then 1 else 0)) s

/-- LUNPIN (R376). -/
def execLunpin (o : OpM) (s : State) : Answer :=
  .next <| runLanes s o.g o.len (pinPage o false) fun c s l => l.foldl (fun s x =>
    let p := x.2.2
    let me := pinOwner c.u c.slot c.g
    let mine := fun (q : Pin) => q.slice == sliceOf p.pa && q.line == lineIx p.pa && q.owner == me
    if paPkg p.pa ≠ s.pkg then s
    else s.modDie (paDie p.pa) fun d =>
      { d with pins := (modPin mine (fun q => { q with count := q.count - 1 }) d.pins).filter fun q => q.count != 0 }) s

/-! ## CFLUSH and CINV -/

/-- A line is in the middle of a transaction of its home die: its entry is transient or has requests queued, or messages or
requests for it are under way. -/
def lineBusy (s : State) (pa : Nat) : Bool :=
  let d := s.die (paDie pa)
  let e := sgetD d.dirs (lineIx pa) {}
  (match e.st with
    | .sm | .fw => true
    | _ => false) || !e.queue.isEmpty || (d.msgs.any fun m => m.2.1 == lineIx pa) ||
  s.cores.any fun c => dieOf c.1 == paDie pa && ((sget c.2.l1Req (lineIx pa)).isSome || (sget c.2.wb (lineIx pa)).isSome)
/-- Take every copy of a line out of the caches of its home die (R342). The coherent value stands in memory. -/
def flushLine (s : State) (pa : Nat) : State :=
  (s.mapCores (fun u => dieOf u == paDie pa) fun c => { c with l1 := sdel c.l1 (lineIx pa) }).modDie (paDie pa) fun d =>
    { d with dirs := sdel d.dirs (lineIx pa), l2 := if pinnedLine d (lineIx pa) then d.l2 else sdel d.l2 (lineIx pa) }
/-- A store or atomic of a fibre to a line is not performed. -/
def storeTo (s : State) (u slot id pa : Nat) : Bool :=
  s.flights.any fun x => x.isOf u slot id && lineOf x.pa == lineOf pa && (match x.kind with
    | .load _ => false
    | _ => true)

/-- CFLUSH (R342). -/
def execCflush (o : OpM) (s : State) : Answer :=
  .next <| runLanes s o.g o.len
    (fun c ln => do
      let a ← addr64 c ln.f o 1
      let p ← translate c.s c.u (whoOf c.s c.u c.g ln.f) a .load 1 true
      islandCheck c.s c.u a p.pa
      if paPkg p.pa = c.s.pkg && (storeTo c.s c.u c.slot ln.id p.pa || lineBusy c.s p.pa) then
        throw (Stop.block (.flush p.pa))
      return p.pa)
    fun c s l => l.foldl (fun s x =>
      if paPkg x.2 ≠ s.pkg then s
      else
        (flushLine s x.2).mapCores (fun u => dieOf u == dieOf c.u) fun k => { k with lcopies := sdel k.lcopies (lineOf x.2) }) s

/-- CINV (R342): the line leaves the instruction caches of the issuing die. Nothing is fetched, so no slot is needed. -/
def execCinv (o : OpM) (s : State) : Answer :=
  .next <| runLanes s o.g o.len
    (fun c ln => do
      let a ← addr64 c ln.f o 1
      let p ← translate c.s c.u (whoOf c.s c.u c.g ln.f) (a / 64 * 64) .exec 64
      islandCheck c.s c.u a p.pa
      return p.pa / 64)
    fun c s l => l.foldl (fun s x =>
      s.mapCores (fun u => dieOf u == dieOf c.u) fun k => { k with icache := sdel k.icache x.2 }) s

end Sys2Proof.Machine
end

