-- ==== Sys2Proof/Machine/Fabric.lean ====
section
/-! DEFINITION. The fabric between packages as this package sees it (R286 to R306): the course table, the packets received, ridges and
their counts, loss and resends, digests, remote atomics and loads, course allocation and close, credits, and col waits. -/

namespace Sys2Proof.Machine

/-! ## The course table (R291) -/

/-- Replace bits `hi` to `lo` of a number. -/
def putBits (x hi lo v : Nat) : Nat := x - bitsOf x hi lo * 2 ^ lo + v % 2 ^ (hi + 1 - lo) * 2 ^ lo
def courseOff (c : Nat) : Nat := 0x6000B00000 + 32 * c
/-- The 256 bits of an entry. -/
def courseEntry (s : State) (d c : Nat) : Nat := (s.die d).num (courseOff c) 32
def setCourse (s : State) (d c v : Nat) : State := s.modDie d fun x => x.setBytes (courseOff c) (leBytes 32 v)
/-- Change bits of an entry. -/
def courseBits (s : State) (d c hi lo v : Nat) : State := setCourse s d c (putBits (courseEntry s d c) hi lo v)
/-- The receiving state of a course beside its entry. -/
def courseSt (s : State) (d c : Nat) : CourseSt := sgetD (s.die d).courses c {}
def modCourse (s : State) (d c : Nat) (f : CourseSt → CourseSt) : State :=
  s.modDie d fun x => { x with courses := sset x.courses c (f (sgetD x.courses c {})) }

def courseValid (e : Nat) : Bool := e.testBit 63
def courseBroken (e : Nat) : Bool := e.testBit 145
def courseLow (e : Nat) : Nat := bitsOf e 159 152
/-- CNT, CAR, GEN and RDG of the open epoch LOW + k. -/
def courseCnt (e k : Nat) : Nat := if k = 0 then bitsOf e 231 208 else bitsOf e 255 232
def courseGen (e k : Nat) : Nat := if k = 0 then bitsOf e 149 148 else bitsOf e 151 150
def setCnt (s : State) (d c k v : Nat) : State := if k = 0 then courseBits s d c 231 208 v else courseBits s d c 255 232 v
def setCar (s : State) (d c k v : Nat) : State := if k = 0 then courseBits s d c 183 160 v else courseBits s d c 207 184 v
def setGen (s : State) (d c k v : Nat) : State := if k = 0 then courseBits s d c 149 148 v else courseBits s d c 151 150 v
def setRdg (s : State) (d c k v : Nat) : State := if k = 0 then courseBits s d c 146 146 v else courseBits s d c 147 147 v
/-- The largest T of the counted writes of LOW + k. -/
def setT (s : State) (d c k t : Nat) : State := modCourse s d c fun x => if k = 0 then { x with t0 := t } else { x with t1 := t }
def courseT (x : CourseSt) (k : Nat) : Nat := if k = 0 then x.t0 else x.t1

/-- TLOST, TCONF and DIGPER of a die, in ns (R297). -/
def tlostNs (s : State) (d : Nat) : Nat := 1000 * (s.die d).num 0x6000C00004 2
def tconfNs (s : State) (d : Nat) : Nat := 1000 * (s.die d).num 0x6000C00002 2
def digperNs (s : State) (d : Nat) : Nat := 1000 * (s.die d).num 0x6000C00000 2

/-! ## Receiving -/

/-- A packet dropped at a die and counted in its fabric error counter (R293). -/
def dropPacket (s : State) (d : Nat) : State := s.modDie d fun x => { x with fabErrors := x.fabErrors + 1 }
/-- A live die whose fabric port is up (R310). -/
def fabricHere (s : State) (d : Nat) : Bool := (s.die d).alive && (s.die d).fabricUp
/-- The packet is for such a die of this package, and its tag holds (R303). -/
def packetHere (s : State) (p : Packet) : Bool :=
  p.dstPkg == s.pkg && decide (p.dstDie < 8) && fabricHere s p.dstDie && p.tagOk
/-- The course of a packet: allocated, from the course's sender, under the course's key (R291, R303). -/
def courseOwned (s : State) (p : Packet) : Bool :=
  let e := courseEntry s p.dstDie p.course
  decide (p.course < 4096) && courseValid e && bitsOf e 54 45 == p.srcPkg && bitsOf e 44 42 == p.srcDie &&
  bitsOf e 41 37 == p.srcCore && bitsOf e 36 25 == p.keyId
/-- Such a course that has not failed. -/
def courseMatches (s : State) (p : Packet) : Bool := courseOwned s p && !courseBroken (courseEntry s p.dstDie p.course)
/-- The payload lies in one line of stack memory of the receiving die. -/
def payloadOk (s : State) (p : Packet) : Bool :=
  paPkg p.addr == s.pkg && paDie p.addr == p.dstDie && plainPa p.addr && p.addr < 2 ^ 52 &&
  p.data.all fun b => decide (p.addr % 128 + b.1 < 128)
/-- The stack memory of an address lies in an island whose clamps are closed to what comes from outside the package (R16). -/
def landClosed (s : State) (pa : Nat) : Bool := clamped s (paDie pa) (stackIsland (paOff pa))
/-- A request of no core of the package, at the home of a line of die `d`. -/
def outsideFlight (s : State) (d pa : Nat) (kind : FlightKind) (origin : Origin) (parts : List Part) : Flight :=
  { id := s.nextId, u := 64 * d + 63, slot := 4096, kind := kind, pa := pa / 128 * 128, parts := parts, origin := origin,
    since := s.now d }
/-- The bytes of a packet as the parts of a store: bytes at rising offsets without a gap in one part. -/
def payloadParts (addr : Nat) : List (Nat × Byte) → List Part
  | [] => []
  | b :: t => match payloadParts addr t with
    | q :: l => if q.addr = addr + b.1 + 1 then { q with addr := addr + b.1, size := q.size + 1, data := b.2 :: q.data } :: l
      else { fibre := 8192, addr := addr + b.1, size := 1, data := [b.2] } :: q :: l
    | [] => [{ fibre := 8192, addr := addr + b.1, size := 1, data := [b.2] }]

/-- Where a packet's epoch stands: an open epoch, the last closed one, or neither (R295). -/
inductive EpochPlace where
  | open_ (k : Nat)
  | closed
  | outside
def epochPlace (s : State) (p : Packet) : EpochPlace :=
  let k := (p.epoch + 256 - courseLow (courseEntry s p.dstDie p.course)) % 256
  if k ≤ 1 then .open_ k else if k = 255 then .closed else .outside

/-- Restart the TLOST timer of the held ridge of an epoch (R298). -/
def restartLost (s : State) (d c epoch : Nat) : State :=
  modCourse s d c fun x => { x with held := x.held.map fun h => if h.epoch = epoch then { h with since := s.now d } else h }

/-- A generation of an open epoch becomes expected now: its count starts again, and so does its TLOST timer (R295, R298, R299). -/
def expectGen (s : State) (d c epoch k gen : Nat) : State :=
  restartLost (modCourse (setT (setCnt (setGen s d c k gen) d c k 0) d c k 0) d c fun x =>
    if k = 0 then { x with raised0 := s.now d } else { x with raised1 := s.now d }) d c epoch
/-- A packet of a higher generation raises the expected one. -/
def raiseGen (s : State) (d c epoch k gen : Nat) : State :=
  if gen > courseGen (courseEntry s d c) k then expectGen s d c epoch k gen else s
/-- Count `n` writes of an open epoch, of one generation, with completion time `t` (R173, R295). -/
def countWrites (s : State) (d c epoch k gen n t : Nat) : State :=
  let s1 := raiseGen s d c epoch k gen
  let e := courseEntry s1 d c
  if gen = courseGen e k then
    setT (setCnt s1 d c k (courseCnt e k + n)) d c k (Nat.max (courseT (courseSt s1 d c) k) t)
  else s1

/-- The held ridge of an epoch. -/
def heldOf (s : State) (d c epoch : Nat) : Option HeldRidge := (courseSt s d c).held.find? fun h => h.epoch == epoch
/-- The count of the epoch and generation equals the carried count. -/
def countMet (s : State) (d c k : Nat) (h : HeldRidge) : Bool :=
  let e := courseEntry s d c
  courseGen e k == h.gen && courseCnt e k == h.count
/-- LOW advances: the fields of LOW + 1 become those of LOW (R296). -/
def advanceLow (s : State) (d c : Nat) : State :=
  let e := courseEntry s d c
  let e1 := putBits (putBits e 231 208 (bitsOf e 255 232)) 255 232 0
  let e2 := putBits (putBits e1 183 160 (bitsOf e 207 184)) 207 184 0
  let e3 := putBits (putBits e2 149 148 (bitsOf e 151 150)) 151 150 0
  let e4 := putBits (putBits e3 146 146 (bitsOf e 147 147)) 147 147 0
  modCourse (setCourse s d c (putBits e4 159 152 (courseLow e + 1))) d c fun x =>
    { x with held := x.held.filter (fun h => h.epoch != courseLow e), t0 := x.t1, t1 := 0, raised0 := x.raised1, raised1 := 0 }

/-- A packet that a die's receiving side sends, as its core 0. -/
def answerPacket (s : State) (d type : Nat) (pkg die course key atag : Nat) : Packet :=
  { type := type, srcPkg := s.pkg, srcDie := d, srcCore := 0, dstPkg := pkg, dstDie := die, course := course, epoch := 0, gen := 0,
    count := 0, keyId := key, atag := atag, addr := 0, data := [], op := 0, ty := 0, size := 0, tagOk := true }
/-- Bytes as a payload. -/
def payload (b : List Byte) : List (Nat × Byte) := b.zipIdx.map fun e => (e.2, e.1)
/-- The bytes of a packet's payload from offset `off` on. -/
def packetNum (p : Packet) (off n : Nat) : Nat :=
  ofLe ((List.range n).map fun i => ((p.data.find? fun b => b.1 == off + i).map (·.2)).getD 0)

/-! ## Requests of engines and of other packages at their homes (R167, R211, R296, R300, R422) -/

/-- The answer to an atomic packet: the fetched value, or an empty response for RED (R300); `bad` is 1 where the line is poisoned, 2 where
its island is off line (R16). -/
def atomicAnswer (s : State) (p : Packet) (v bad : Nat) : State :=
  emit s (64 * p.dstDie) { answerPacket s p.dstDie 4 p.srcPkg p.srcDie p.course p.keyId p.atag with
    ty := bad, data := if p.op ≥ 8 || bad ≠ 0 then [] else payload (leBytes p.size v) }
/-- An atomic packet has been performed on a location that held `old`: its course remembers the result. -/
def atomicDone (s : State) (p : Packet) (old : Nat) : State :=
  atomicAnswer (modCourse s p.dstDie p.course fun x =>
    { x with tags := (x.tags ++ [(p.atag, BitVec.ofNat 64 old)]).drop (x.tags.length + 1 - 64) }) p old 0
/-- The contributions that a switch has combined are counted in their courses' open epochs (R304). -/
def countShares (s : State) (d t : Nat) (shares : List (Nat × Nat × Nat × Nat)) : State :=
  shares.foldl (fun s x =>
    let e := courseEntry s d x.1
    let k := (x.2.1 + 256 - courseLow e) % 256
    if x.1 < 4096 && courseValid e && !courseBroken e && k ≤ 1 then countWrites s d x.1 x.2.1 k x.2.2.1 x.2.2.2 t else s) s
/-- A fabric write has been applied at its home with completion time `t`: its course counts it, while its epoch is open (R173, R295). -/
def countApplied (s : State) (p : Packet) (t : Nat) : State :=
  if courseMatches s p then
    match epochPlace s p with
    | .open_ k => countWrites s p.dstDie p.course p.epoch k p.gen 1 t
    | _ => s
  else s
/-- What follows when a request has been applied at die `d` at time `t`; `before` is the state it met. -/
def settleOrigin (before s : State) (d : Nat) (f : Flight) (t : Nat) : State :=
  match f.origin with
  | .copy id i => copyApplied s f.u id i t
  | .tst id => tstApplied s f.u id f.pa t
  | .fabric p =>
    if p.type ≠ 3 then countApplied s p t
    else
      let s1 := countShares s d t p.shares
      if isPoisoned before p.addr then atomicAnswer s1 p 0 1
      else atomicDone s1 p (ofLe (memRead before.mem p.addr p.size))
  | .ridge c e => if courseLow (courseEntry s d c) = e then advanceLow s d c else s
  | .fibre | .host => s
/-- A request from outside the package's cores reaches its home; what follows its application follows at once when it is applied. -/
def arriveHome (s : State) (d : Nat) (f : Flight) : State :=
  let s1 := { s with flights := s.flights ++ [f], nextId := s.nextId + 1 }
  let r := reachHome s1 d f
  if r.2 then settleOrigin s r.1 d f (completionTime s d f.pa) else r.1

/-- FABRIC_WRITE_RECEIVE (R167, R172, R173, R295): the write reaches its home, which fixes its completion time, and is counted once it
is applied there. A generation that it raises is expected from now on. A packet of a reserved type is dropped and counted as an error
(R293). A write into a clamped island is not accepted, and stays uncounted (R16): DESIGN CHOICE, see the log. -/
def execFabricWriteReceive (p : Packet) (s : State) : Answer :=
  .next <|
    if !(p.dstPkg == s.pkg && decide (p.dstDie < 8) && fabricHere s p.dstDie) || (p.type ≠ 0 && p.type < 11) then s
    else if !(p.type == 0 && p.tagOk && courseMatches s p && payloadOk s p) then dropPacket s p.dstDie
    else
      match epochPlace s p with
      | .closed => s
      | .outside => dropPacket s p.dstDie
      | .open_ k =>
        let d := p.dstDie
        if landClosed s p.addr then s
        else arriveHome (raiseGen s d p.course p.epoch k p.gen) d
          (outsideFlight s d p.addr .store (.fabric p) (payloadParts p.addr p.data))

/-- RIDGE_RECEIVE (R296): a ridge or count-only ridge of an open epoch is held; a later generation replaces an earlier one, whose timer
goes on (R298). -/
def execRidgeReceive (p : Packet) (s : State) : Answer :=
  .next <|
    if !(p.type == 1 || p.type == 2) || !(p.dstPkg == s.pkg && decide (p.dstDie < 8) && fabricHere s p.dstDie) then s
    else if !(p.tagOk && courseMatches s p && (p.type == 2 || payloadOk s p)) then dropPacket s p.dstDie
    else
      match epochPlace s p with
      | .closed => s
      | .outside => dropPacket s p.dstDie
      | .open_ k =>
        let d := p.dstDie
        let s1 := raiseGen s d p.course p.epoch k p.gen
        match heldOf s1 d p.course p.epoch with
        | some y =>
          if p.gen ≤ y.gen then s1
          else setCar (modCourse s1 d p.course fun x => { x with held := x.held.map fun z =>
            if z.epoch = p.epoch then { z with gen := p.gen, count := p.count, pkt := p } else z }) d p.course k p.count
        | none =>
          setCar (setRdg (modCourse s1 d p.course fun x =>
            { x with held := x.held ++ [{ epoch := p.epoch, gen := p.gen, count := p.count, pkt := p, since := s.now d }] })
            d p.course k 1) d p.course k p.count

/-- The flag of an epoch has reached its home and is not applied yet. -/
def flagPending (s : State) (d c epoch : Nat) : Bool :=
  s.flights.any fun f => paDie f.pa == d && (match f.origin with
    | .ridge k e => k == c && e == epoch
    | _ => false)

/-- RIDGE_APPLY (R173, R296): the held ridge of epoch LOW meets its conditions, and its flag reaches its home; LOW advances when the
flag is applied. Into a clamped island no flag goes (R16). -/
def execRidgeApply (die course : Nat) (s : State) : Answer :=
  .next <|
    let e := courseEntry s die course
    match heldOf s die course (courseLow e) with
    | none => s
    | some h =>
      if courseValid e && !courseBroken e && countMet s die course 0 h && decide (s.now die > (courseSt s die course).t0 + 4) &&
          !flagPending s die course h.epoch then
        if h.pkt.type = 2 then advanceLow s die course
        else if landClosed s h.pkt.addr then s
        else arriveHome s die (outsideFlight s die h.pkt.addr .store (.ridge course h.epoch) (payloadParts h.pkt.addr h.pkt.data))
      else s

/-! ## Remote atomics and loads (R300, R301, R373) -/

/-- The atomic of a packet has reached its home already and is not performed yet. -/
def atomicPending (s : State) (p : Packet) : Bool :=
  s.flights.any fun f => match f.origin with
    | .fabric q => q.type == 3 && q.dstDie == p.dstDie && q.course == p.course && q.atag == p.atag
    | _ => false

/-- ATOMIC_PACKET_RECEIVE (R300): performed once, at its home, or answered from the course's last 64 results. A line that carries
poison performs nothing, and the answer says so. -/
def execAtomicPacketReceive (p : Packet) (s : State) : Answer :=
  .next <|
    if p.type ≠ 3 || !(p.dstPkg == s.pkg && decide (p.dstDie < 8) && fabricHere s p.dstDie) then s
    else if !(p.tagOk && courseMatches s p && payloadOk s p && (p.size == 4 || p.size == 8)) then dropPacket s p.dstDie
    else
      let d := p.dstDie
      match (courseSt s d p.course).tags.find? fun e => e.1 == p.atag with
      | some (_, v) => atomicAnswer s p v.toNat 0
      | none =>
        if atomicPending s p then s
        else if landClosed s p.addr then atomicAnswer s p 0 2
        else
          let f := outsideFlight s d p.addr (.atomic (p.op % 8) p.ty false) (.fabric p)
            [{ fibre := 8192, addr := p.addr, size := p.size, data := leBytes p.size (packetNum p 0 p.size),
               cmp := BitVec.ofNat 64 (packetNum p p.size p.size) }]
          arriveHome s d f

/-- LOAD_PACKET_RECEIVE (R373): served at the home of the line. -/
def execLoadPacketReceive (p : Packet) (s : State) : Answer :=
  .next <|
    if p.type ≠ 5 || !(p.dstPkg == s.pkg && decide (p.dstDie < 8) && fabricHere s p.dstDie) then s
    else if !(p.tagOk && courseMatches s p && payloadOk s p) || p.size > 128 then dropPacket s p.dstDie
    else
      let a := answerPacket s p.dstDie 6 p.srcPkg p.srcDie p.course p.keyId p.atag
      if landClosed s p.addr then emit s (64 * p.dstDie) { a with ty := 2 }
      else
        match homeRead s p.addr p.size with
        | some b => emit (readLine s p.addr 8) (64 * p.dstDie) { a with data := payload b, size := p.size }
        | none => emit s (64 * p.dstDie) { a with ty := 1 }

/-- A slot of a sending core of a die that leads to the source of a packet on its course. -/
def slotLeads (s : State) (u n : Nat) (p : Packet) : Bool :=
  slotValid s u n && slotFab s u n && slotPkg s u n == p.srcPkg && slotDie s u n == p.srcDie && slotCourse s u n == p.course
/-- The request that a response answers: an atomic by its slot and tag, a load by its number. -/
def answered (s : State) (p : Packet) : Option Flight :=
  s.flights.find? fun x =>
    paPkg x.pa == p.srcPkg && dieOf x.u == p.dstDie &&
    (if p.type = 4 then (match x.slotTag with
      | some (n, t) => t == p.atag && slotLeads s x.u n p
      | none => false)
    else x.id == p.atag && (match x.kind with
      | .load _ => true
      | _ => false))

/-- The key of the domain that a request of the package was issued in (R303). -/
def requestKey (s : State) (f : Flight) (n : Nat) (p : Packet) : Nat :=
  match (slotSt s f.u n).atomics.find? fun a => a.tag == p.atag with
  | some a => if p.type = 4 then a.pkt.keyId else keyOf s f.u (slotDomain s f.u n)
  | none => keyOf s f.u (slotDomain s f.u n)
/-- The slot of a request of the package that a response answers. -/
def requestSlot (s : State) (f : Flight) (p : Packet) : Nat :=
  match f.slotTag with
  | some (n, _) => n
  | none => ((List.range 64).find? fun n => slotLeads s f.u n p).getD 0

/-- Each lane's fetched value of a combined atomic, in rank order (R301). -/
def fetchLanes (s : State) (u op ty : Nat) : Nat → List Part → State
  | _, [] => s
  | old, q :: t =>
    fetchLanes (fillReturn s u q (bytesWords (q.size / 4) (leBytes q.size old))) u op ty
      (atomicNew op ty q.size old (ofLe q.data) q.cmp.toNat) t

/-- The bytes of a 16-byte piece of a copy's source arrive (R208). -/
def fillCopies (s : State) (f : Flight) (bytes : List Byte) : State :=
  s.modCore f.u fun c => { c with copies := c.copies.map fun x =>
    { x with lanes := x.lanes.map fun l =>
        if l.fetch == some f.id then { l with data := some ((bytes.drop (l.srcPa % 16)).take x.n) } else l } }

/-- The error status of a response: a poisoned line, or an island that is off line. -/
def answerCause (p : Packet) : Nat := if p.ty = 2 then Cause.islandOffline else Cause.machineCheck
/-- ATOMIC_RESPONSE_RECEIVE (R300, R301, R373): an atomic response or a load response. -/
def execAtomicResponseReceive (p : Packet) (s : State) : Answer :=
  .next <|
    if !(p.type == 4 || p.type == 6) || p.dstPkg ≠ s.pkg || !fabricHere s p.dstDie then s
    else if !p.tagOk then dropPacket s p.dstDie
    else
      match answered s p with
      | none => s
      | some f =>
        if p.keyId ≠ requestKey s f (requestSlot s f p) p then dropPacket s p.dstDie
        else
        let bytes := (List.range 128).map fun i => ((p.data.find? fun b => b.1 == i).map (·.2)).getD 0
        let s1 := dropFlight s f.id
        match f.kind with
        | .atomic op ty _ =>
          let n := (f.slotTag.map (·.1)).getD 0
          let s2 := noteCause (modSlot s1 f.u n fun x => { x with atomics := x.atomics.filter fun a => a.tag != p.atag }) f.u n
          if p.ty ≠ 0 then failFlight s2 (answerCause p) f
          else fetchLanes s2 f.u op ty (ofLe (bytes.take ((f.parts.map (·.size)).headD 4))) f.parts
        | _ =>
          if p.ty ≠ 0 then failFetched (failFlight s1 (answerCause p) f) (answerCause p) f
          else
            fillCopies (f.parts.foldl (fun s q => fillLoad s f.u q (bytes.take q.size)) s1) f
              (bytes.take ((f.parts.map (·.size)).headD 0))

/-! ## Loss and failure (R298, R299) -/

/-- A course fails at its receiver. -/
def failCourse (s : State) (d c : Nat) : State :=
  let s1 := modCourse s d c fun x => { x with held := [] }
  let e := courseEntry s1 d c
  (setCourse s1 d c (putBits (putBits e 147 146 0) 145 145 1)).sendNoFibre d Cause.machineCheck c
/-- A request in flight has left the core through a slot: an atomic by its tag, a load by the domain in force for its fibre (R287). -/
def throughSlot (s : State) (u n : Nat) (x : Flight) : Bool :=
  x.u == u && match x.slotTag with
    | some (k, _) => k == n
    | none => paPkg x.pa != s.pkg && match s.group u x.slot with
      | none => false
      | some g => x.parts.any fun p =>
        let dom := match sget g.fibres p.fibre with
          | some f => domainOf g f
          | none => g.domain
        slotFor s u dom (paPkg x.pa) (paDie x.pa) == some n
/-- A course fails at its sender: the slot is BROKEN, with CAUSE 5, and its epochs are freed. Requests through it that are in flight end
with HOME_LOST. -/
def failSlot (s : State) (u n : Nat) : State :=
  let gone := s.flights.filter (throughSlot s u n)
  let s1 := gone.foldl (fun s f => failFetched (dropFlight (failFlight s Cause.homeLost f) f.id) Cause.homeLost f) s
  setSlotBroken (modSlot s1 u n fun x => { x with buf := [], atomics := [], cause := 5 }) u n true

/-- Send an epoch again from the buffer with a generation (R298). -/
def replay (s : State) (u n : Nat) (b : EpochBuf) (gen : Nat) : State :=
  let s1 := b.writes.foldl (fun s p => emit s u { p with gen := gen }) s
  let s2 := match b.ridge with
    | some p => emit s1 u { p with gen := gen }
    | none => s1
  modSlot s2 u n fun x =>
    { x with buf := x.buf.map fun y => if y.epoch = b.epoch then { y with gen := gen, closedAt := s.now (dieOf u) } else y }

/-- The core and slot of a die that a packet from a course's receiver concerns. -/
def senderSlot (s : State) (p : Packet) : Option (Nat × Nat) :=
  ((List.range 32).flatMap fun k => (List.range 64).map fun n => (64 * p.dstDie + k, n)).find? fun e => slotLeads s e.1 e.2 p

/-- RESEND_REQUEST_RECEIVE (R298): once for each generation, and not for a confirmed epoch. One under another key than the epoch's
ridge, or, for an epoch without one, than the slot's domain's, is dropped and counted (R303). -/
def execResendRequestReceive (p : Packet) (s : State) : Answer :=
  .next <|
    if p.type ≠ 7 || p.dstPkg ≠ s.pkg || !fabricHere s p.dstDie then s
    else if !p.tagOk then dropPacket s p.dstDie
    else match senderSlot s p with
      | none => s
      | some (u, n) =>
        let b := (slotSt s u n).buf.find? fun b => b.epoch == p.epoch
        let key := match b.bind (·.ridge) with
          | some r => r.keyId
          | none => keyOf s u (slotDomain s u n)
        if p.keyId ≠ key then dropPacket s p.dstDie
        else match b with
          | some b => if p.gen > b.gen && b.ridge.isSome then replay s u n b p.gen else s
          | none => s

/-- DIGEST_RECEIVE (R289, R298, R299): CONF and the buffer, or the failure of the course; a congestion mark halves the window, a
clean digest widens it. Its tag holds: one whose tag fails is `badDigest`. -/
def execDigestReceive (u slot low : Nat) (broken mark : Bool) (s : State) : Answer :=
  .next <|
    if !fabricHere s (dieOf u) then s
    else if !slotValid s u slot || slotBroken s u slot then s
    else if broken then failSlot s u slot
    else
      let conf := slotConf s u slot
      let s1 := modSlot s u slot fun x =>
        { x with cwnd := if mark then Nat.max 65536 (x.cwnd / 2) else Nat.min 1048576 (x.cwnd + 4096) }
      if (low + 256 - conf) % 256 ≤ (slotEpoch s u slot + 256 - conf) % 256 then
        let s2 := setSlotHi s1 u slot (slotEpoch s u slot) (slotWcnt s u slot) (low % 256)
        noteCause (modSlot s2 u slot fun x =>
          { x with buf := x.buf.filter fun b => (b.epoch + 256 - conf) % 256 ≥ (low + 256 - conf) % 256 }) u slot
      else s1

/-- A digest whose tag fails reaches a die: it is dropped and counted (R303). -/
def badDigest (s : State) (d : Nat) : State := if fabricHere s d then dropPacket s d else s

/-- The sending cores of a die's valid courses, as package, die and core. -/
def sendersOf (s : State) (d : Nat) : List (Nat × Nat × Nat) :=
  ((List.range 4096).filterMap fun c =>
    let w := ((s.die d).word (courseOff c)).toNat
    if w.testBit 63 then some (bitsOf w 54 45, bitsOf w 44 42, bitsOf w 41 37) else none).eraseDups
/-- One digest: for each course of a sending core, LOW at offset 2 c and BROKEN and the congestion mark at 2 c + 1. -/
def digestFor (s : State) (d : Nat) (x : Nat × Nat × Nat) : Packet :=
  let cs := (List.range 4096).filter fun c =>
    let w := ((s.die d).word (courseOff c)).toNat
    w.testBit 63 && bitsOf w 54 45 == x.1 && bitsOf w 44 42 == x.2.1 && bitsOf w 41 37 == x.2.2
  { answerPacket s d 8 x.1 x.2.1 0 0 0 with
    data := cs.flatMap fun c =>
      let e := courseEntry s d c
      [(2 * c, BitVec.ofNat 8 (courseLow e)),
       (2 * c + 1, BitVec.ofNat 8 ((if courseBroken e then 1 else 0) + 2 * (s.free % 2)))] }

/-- DIGEST_PERIOD (R298): whether a digest carries a congestion mark is a free value. -/
def execDigestPeriod (die : Nat) (s : State) : Answer :=
  .next <|
    if (s.die die).alive && s.now die ≥ (s.die die).lastDigest + digperNs s die then
      (sendersOf s die).foldl (fun s x => (emit s (64 * die) (digestFor s die x)).bumpFree)
        (s.modDie die fun d => { d with lastDigest := d.time })
    else s

/-- The open epoch LOW + k has not met its count in time: within TLOST of its ridge's arrival or of the last restart, and in generation
3 within TLOST of the moment at which that generation became expected, whether or not a ridge is held (R298, R299). -/
def lostDue (s : State) (d c k : Nat) : Bool :=
  let e := courseEntry s d c
  let held := heldOf s d c ((courseLow e + k) % 256)
  let unmet := match held with
    | some h => !countMet s d c k h
    | none => true
  if courseGen e k = 3 then
    unmet && decide (s.now d ≥ (if k = 0 then (courseSt s d c).raised0 else (courseSt s d c).raised1) + tlostNs s d)
  else match held with
    | some h => unmet && decide (s.now d ≥ h.since + tlostNs s d)
    | none => false
/-- LOST_PACKET_TIMEOUT (R298, R299): the first open epoch whose count is not met within TLOST. -/
def execLostPacketTimeout (die course : Nat) (s : State) : Answer :=
  .next <|
    let e := courseEntry s die course
    match (List.range 2).find? (lostDue s die course) with
    | none => s
    | some k =>
      let epoch := (courseLow e + k) % 256
      if !courseValid e || courseBroken e then s
      else if courseGen e k = 3 then failCourse s die course
      else
        let g := courseGen e k + 1
        emit (expectGen s die course epoch k g) (64 * die)
          { answerPacket s die 7 (bitsOf e 54 45) (bitsOf e 44 42) course (bitsOf e 36 25) 0 with epoch := epoch, gen := g }

/-- CONFIRMATION_TIMEOUT (R298, R299): the oldest epoch whose ridge is not confirmed within TCONF. -/
def execConfirmationTimeout (u slot : Nat) (s : State) : Answer :=
  .next <|
    match (slotSt s u slot).buf.find? fun b => b.ridge.isSome && decide (s.now (dieOf u) ≥ b.closedAt + tconfNs s (dieOf u)) with
    | none => s
    | some b => if b.gen < 3 then replay s u slot b (b.gen + 1) else failSlot s u slot

/-- ATOMIC_RESEND_TIMEOUT (R300): sent again with its tag; after three resendings the course fails. -/
def execAtomicResendTimeout (u slot tag : Nat) (s : State) : Answer :=
  .next <|
    match (slotSt s u slot).atomics.find? fun a => a.tag == tag with
    | none => s
    | some a =>
      if s.now (dieOf u) ≥ a.since + tlostNs s (dieOf u) then
        if a.resends ≥ 3 then failSlot s u slot
        else
          modSlot (emit s u a.pkt) u slot fun x => { x with atomics := x.atomics.map fun b =>
            if b.tag = tag then { b with since := s.now (dieOf u), resends := b.resends + 1 } else b }
      else s

/-! ## Allocation and close (R292, R302) -/

/-- An entry as an allocation fills it. -/
def freshCourse (dom pkg die core key : Nat) : Nat :=
  2 ^ 63 + dom % 256 * 2 ^ 55 + pkg % 1024 * 2 ^ 45 + die % 8 * 2 ^ 42 + core % 32 * 2 ^ 37 + key % 4096 * 2 ^ 25
/-- Write an entry whose state fields start anew. -/
def resetCourse (s : State) (d c v : Nat) : State := modCourse (setCourse s d c v) d c fun _ => {}

/-- The sending supervisor of a core asks a die of another package for a course (R292). With SVCMODE.CRSALL = 1 the hosts allocate. -/
def requestCourse (s : State) (u domain pkg die : Nat) : State :=
  if s.svcmode.getLsbD 2 || pkg = s.pkg then s
  else emit s u { answerPacket s (dieOf u) 9 pkg die 0 (keyOf s u domain) 0 with srcCore := coreIx u, op := domain % 256 }

/-- COURSE_ALLOCATION (R292): a request names its domain in `op` and its key in KEYID, and has no payload; the answer's payload is
RESULT. With SVCMODE.CRSALL = 1 the hosts allocate, and a request does nothing; an answer ends a request made before (R314), and is kept
for the supervisor, which writes the slot. -/
def execCourseAllocation (p : Packet) (s : State) : Answer :=
  .next <|
    if p.type ≠ 9 || !(p.dstPkg == s.pkg && decide (p.dstDie < 8) && fabricHere s p.dstDie) then s
    else if !p.tagOk then dropPacket s p.dstDie
    else
      let d := p.dstDie
      if !p.data.isEmpty then s.modDie d fun x => { x with allocated := x.allocated ++ [(p.srcPkg, p.srcDie, packetNum p 0 2)] }
      else if s.svcmode.getLsbD 2 then s
      else
      let a := answerPacket s d 9 p.srcPkg p.srcDie 0 p.keyId 0
      match (List.range 4096).find? fun c => !((s.die d).word (courseOff c)).getLsbD 63 with
      | some c => emit (resetCourse s d c (freshCourse p.op p.srcPkg p.srcDie p.srcCore p.keyId)) (64 * d)
          { a with data := payload (leBytes 2 c) }
      | none => emit s (64 * d) { a with data := payload (leBytes 2 0xFFFF) }

/-- Free a course: held ridges are dropped, and RDG0 and RDG1 say so (R302). -/
def freeCourse (s : State) (d c : Nat) : State :=
  modCourse (courseBits (courseBits s d c 147 146 0) d c 63 63 0) d c fun _ => {}

/-- COURSE_CLOSE (R302): a course that has failed is freed too. -/
def execCourseClose (p : Packet) (s : State) : Answer :=
  .next <|
    if p.type ≠ 10 || !(p.dstPkg == s.pkg && decide (p.dstDie < 8) && fabricHere s p.dstDie) then s
    else if !(p.tagOk && courseOwned s p) then dropPacket s p.dstDie
    else freeCourse s p.dstDie p.course

/-- Drain a fabric slot at its sender: a close packet, and open epochs are discarded without replay (R302). Its atomics still wait for
their answers (R300). -/
def drainSlot (s : State) (u n : Nat) : State :=
  if slotValid s u n && slotFab s u n then
    modSlot (emit s u (packetFrom s u n (keyOf s u (slotDomain s u n)) 10)) u n fun x => { x with buf := [] }
  else s
/-- Drain the slots of a domain at its senders. -/
def drainSlots (s : State) (dom : Nat) : State :=
  let ns := allCores.flatMap fun u => ((List.range 64).filter fun n =>
    slotValid s u n && slotFab s u n && slotDomain s u n == dom).map fun n => (u, n)
  ns.foldl (fun s e => drainSlot s e.1 e.2) s
/-- Free the courses of a domain on every die (R264). -/
def freeCourses (s : State) (dom : Nat) : State :=
  (List.range 8).foldl (fun s d => ((List.range 4096).filter fun c =>
    let w := ((s.die d).word (courseOff c)).toNat
    w.testBit 63 && bitsOf w 62 55 == dom).foldl (fun s c => freeCourse s d c) s) s

/-! ## Table writes (R286, R291) -/

/-- The fields of a slot-map entry that a store writes. -/
def slotMask : Nat := 2 ^ 64 - 2 ^ 26
/-- Write a slot: a write that sets VALID resets its epoch state; open epochs are discarded. -/
def writeSlot (s : State) (u n v : Nat) : State :=
  let lo := v &&& slotMask
  let keep := if slotBroken s u n && !v.testBit 63 then 2 ^ 25 else 0
  let s1 := s.modDie (dieOf u) fun d => d.setBytes (slotEntryOff u n) (leBytes 8 (lo + keep))
  let s2 := if v.testBit 63 then setSlotHi s1 u n 0 0 0 else s1
  noteCause (modSlot s2 u n fun x => { x with buf := [] }) u n

/-- SLOT_MAP_WRITE (R286). -/
def execSlotMapWrite (u slot : Nat) (value : BitVec 128) (s : State) : Answer :=
  .next <| if isSupCore u || slot ≥ 64 then s else writeSlot s u slot (value.toNat % 2 ^ 64)

/-- The fields of a course entry that a store writes: bits 63 to 25. -/
def writeCourse (s : State) (d c v : Nat) : State :=
  let lo := v % 2 ^ 64 / 2 ^ 25 * 2 ^ 25
  if v.testBit 63 then resetCourse s d c lo else courseBits s d c 63 0 lo

/-- COURSE_TABLE_WRITE (R291). -/
def execCourseTableWrite (die course : Nat) (value : BitVec 256) (s : State) : Answer :=
  .next <| if course ≥ 4096 then s else writeCourse s die course value.toNat

/-! ## Credits and col waits -/

/-- LINK_CREDIT_RETURN (R289). -/
def execLinkCreditReturn (u slot bytes : Nat) (cwnd : Bool) (s : State) : Answer :=
  .next <| noteCause (modSlot s u slot fun x =>
    if cwnd then { x with cwndUsed := x.cwndUsed - bytes } else { x with linkUsed := x.linkUsed - bytes }) u slot

/-- COLWAIT_RESUME (R232, R238, R299): the allowance has come back, or the slot is broken or no longer the domain's, so that the
store is checked again. A group that ran its save routine goes on with it (R234). Deadlines restart. -/
def execColwaitResume (u slot : Nat) (s : State) : Answer :=
  .next <| match s.group u slot with
    | none => s
    | some g => match g.st with
      | .colwait n need _ dom saving =>
        if allow s u n ≥ need || slotBroken s u n || !slotValid s u n || slotDomain s u n ≠ dom then
          s.modGroup u slot fun g =>
            { g with st := if saving then .saving else .run, fibres := g.fibres.map fun e => (e.1, { e.2 with readyAt := (s.core u).opp }) }
        else s
      | _ => s

/-- The clock of an island in units of 0.1 GHz (R308, R315). -/
def clockRate (s : State) (d k : Nat) : Nat :=
  if (match sget (s.die d).islands k with
    | some i => i.clk07
    | none => false) then 7 else 14 - bitsOf ((s.die d).num (0x6000E00000 + 8 * k) 8) 57 55

/-- DROWSY_ENTRY (R59): the group has waited for 64 clocks. A granule that the register port has woken meanwhile may enter again in the
same wait: DESIGN CHOICE, see the log. -/
def execDrowsyEntry (u slot : Nat) (s : State) : Answer :=
  .next <| match s.group u slot with
    | none => s
    | some g => match g.st with
      | .colwait _ _ since _ _ =>
        if (s.now (dieOf u) - since) * clockRate s (dieOf u) (islandOf u) ≥ 640 then
          s.modGroup u slot fun g =>
            { g with drowsy := ((List.range g.hdr.kfibs).flatMap fun f =>
                (List.range (granules8 g.hdr.kregs / 8)).map fun k => 32 * f + k) ++ g.fibres.flatMap fun e => match e.2.gate with
                  | some t => (List.range (t.gregs / 8)).map fun k => 32 * (1024 + e.1) + k
                  | none => [] }
        else s
      | _ => s

end Sys2Proof.Machine
end

