-- ==== Sys2Proof/Machine/Dies.lean ====
section
/-! DEFINITION. Shoot-downs (R275 to R277, R285), the completion of page walks (R271, R272, R314), and the failure of dies:
suspicion, judgement and what each survivor does (R281 to R284). -/

namespace Sys2Proof.Machine

/-! ## Messages of the hardware -/

/-- TYPE of a message, and bytes of its body (R274). -/
def msgType (m : BitVec 512) : Nat := bitsOf m.toNat 63 48
def msgBody (m : BitVec 512) (off n : Nat) : Nat := m.toNat >>> (8 * (8 + off)) % 2 ^ (8 * n)
/-- The oldest message that a live die has received and not acted on, when it is of a type and its body begins with a value. -/
def nextHard (s : State) (d type n key : Nat) : Option (BitVec 512) :=
  match (s.die d).hardIn with
  | m :: _ => if (s.die d).alive && msgType m == type && msgBody m 0 n == key then some m else none
  | [] => none
/-- The die has acted on its oldest message. -/
def popHard (s : State) (d : Nat) : State := s.modDie d fun x => { x with hardIn := x.hardIn.drop 1 }

/-! ## Shoot-downs -/

/-- The fields of a die's shoot-down block (R275). -/
def sdOff : Nat := 0x6000800000
def sdStatus (s : State) (d : Nat) : Nat := (s.die d).num (sdOff + 24) 4
def setSdStatus (s : State) (d v : Nat) : State := s.modDie d fun x => x.setBytes (sdOff + 24) (leBytes 4 v)
/-- The body of RETRACT and COMMIT: identifier, PASID, first address and units (R274). -/
def sdBody (id pasid va npg : Nat) : List Byte := leBytes 4 id ++ leBytes 4 pasid ++ leBytes 8 va ++ leBytes 4 npg
/-- The initiator of a shoot-down: its identifier carries the die in its low three bits. -/
def sdInitiator (sd : Nat) : Nat := sd % 8

/-- RETRACT (R275, R276): OP = 1. A die that has been judged failed is a member of no group any more, and the sequencer takes nothing
from it (R282). -/
def execShootdownRetract (die : Nat) (s : State) : Answer :=
  .next <|
    let x := s.die die
    if !x.alive || x.judged then s
    else if sdStatus s die = 1 || sdStatus s die = 2 || x.sd.isSome then setSdStatus s die 4
    else
      let id := (8 * x.nextSd + die) % 2 ^ 32
      let s1 := s.modDie die fun x =>
        { x.setBytes (sdOff + 20) (leBytes 4 id) with sd := some id, sdAcks := 0, nextSd := x.nextSd + 1 }
      sendHard (setSdStatus s1 die 1) 0x8001 (sdBody id (x.num (sdOff + 8) 4) (x.num sdOff 8) (x.num (sdOff + 12) 4))

/-- COMMIT (R275, R276): OP = 2. -/
def execShootdownCommit (die : Nat) (s : State) : Answer :=
  .next <|
    let x := s.die die
    if !x.alive || x.judged then s
    else match sdStatus s die, x.sd with
      | 2, some id =>
        sendHard (setSdStatus (s.modDie die fun x => { x with sd := none }) die 3) 0x8003
          (sdBody id (x.num (sdOff + 8) 4) (x.num sdOff 8) (x.num (sdOff + 12) 4))
      | _, _ => setSdStatus s die 4

/-- A span of virtual bytes of a PASID touches a shoot-down's range. -/
def spanShot (x : Shoot) (pasid va size : Nat) : Bool :=
  x.pasid == pasid && decide (va / 65536 < x.va / 65536 + x.npg) && decide (x.va / 65536 ≤ (va + size - 1) / 65536)
/-- A cached translation overlaps the range. -/
def entryShot (x : Shoot) (t : TlbEntry) : Bool :=
  let size := if t.big then 2 ^ 28 else 65536
  spanShot x t.pasid (t.vpage * size) size

/-- RETRACT_RECEIVE (R276): the entries of the range go, and walks into it wait from now on. -/
def execRetractReceive (die sd : Nat) (s : State) : Answer :=
  .next <| match nextHard s die 0x8001 4 sd with
    | none => s
    | some m =>
      let x : Shoot := { id := sd, initiator := sdInitiator sd, pasid := msgBody m 4 4 % 2 ^ 20, va := msgBody m 8 8,
                         npg := msgBody m 16 4, since := s.now die }
      (dropTranslations (popHard s die) die (fun t => !entryShot x t) fun t => t.pasid != x.pasid).modDie die fun d =>
        { d with shoots := d.shoots ++ [x] }

/-- The PASID under which an operation of a group slot translates: the group's for its own domain, and the domain's inside a gate (R254)
or when the group is gone. -/
def slotPasid (s : State) (u slot dom : Nat) : Nat :=
  match s.group u slot with
  | some g => if g.domain = dom then g.pasid else domField s (dieOf u) dom 4 4 % 2 ^ 20
  | none => domField s (dieOf u) dom 4 4 % 2 ^ 20
/-- The PASID of a group slot's matrix and tile operations, which no gate has. -/
def tilePasid (s : State) (u slot : Nat) : Nat := ((s.group u slot).map (·.pasid)).getD 0
/-- A range lock of a core on the range (R276). -/
def lockShot (s : State) (x : Shoot) (u : Nat) (k : Lock) : Bool :=
  k.space == 0 && k.lines.any fun l => spanShot x (slotPasid s u k.slot k.domain) (128 * l) 128
/-- A lane of a copy that waits for lock entries has translated through the range. -/
def copyShot (s : State) (x : Shoot) (u : Nat) (c : Copy) : Bool :=
  c.lanes.any fun l => !l.done &&
    ((c.space != 0 && spanShot x (slotPasid s u c.slot c.domain) l.src c.n) ||
      (c.space == 0 && spanShot x (slotPasid s u c.slot c.domain) l.dst c.n))
/-- A tile transfer whose rows or scale bytes lie in the range. -/
def transferShot (s : State) (x : Shoot) (u : Nat) (m : MEntry) : Bool :=
  !m.md.testBit 0 && m.rows.any fun r => spanShot x (tilePasid s u m.slot) r.va 128 || match r.sva with
    | some a => spanShot x (tilePasid s u m.slot) a 32
    | none => false
/-- A fibre of a group waits at a MIGR whose address lies in the range (R285). -/
def migrShot (x : Shoot) (g : Group) : Bool :=
  g.fibres.any fun f => match f.2.wait with
    | some (.migrate a _ _ _) => spanShot x g.pasid a.toNat 1
    | _ => false
/-- A request in flight translated through the range. -/
def flightShot (x : Shoot) (f : Flight) : Bool :=
  f.parts.any fun p => match p.page with
    | some (pasid, first, size) => spanShot x pasid first size
    | none => false
/-- The cores of a die. -/
def coresOf (s : State) (d : Nat) : List (Nat × Core) := s.cores.filter fun e => dieOf e.1 == d
/-- Something of the die still uses the range: an access, a pin of its slices, or a range lock (R276, R285). -/
def usesRange (s : State) (d : Nat) (x : Shoot) : Bool :=
  (s.flights.any fun f => dieOf f.u == d && flightShot x f) ||
  ((s.die d).pins.any fun p => spanShot x p.pasid p.va 1) ||
  (coresOf s d).any fun e =>
    (e.2.locks.any (lockShot s x e.1)) || (e.2.copies.any (copyShot s x e.1)) || (e.2.transfers.any (transferShot s x e.1)) ||
      e.2.slots.any fun g => migrShot x g.2

/-- RETRACT_ACK (R276). -/
def execRetractAck (die sd : Nat) (s : State) : Answer :=
  .next <| match (s.die die).shoots.find? fun x => x.id == sd with
    | none => s
    | some x =>
      if x.acked || usesRange s die x || !(s.die die).alive then s
      else
        (s.modDie die fun d => { d with shoots := d.shoots.map fun y => if y.id = sd then { y with acked := true } else y }).modDie
          x.initiator fun d => { d with acksIn := d.acksIn ++ [(sd, die)] }

/-- A die that takes part in shoot-downs, as another die sees it: it has joined and is not lost (R283). -/
def countedDie (s : State) (d e : Nat) : Bool := (s.die e).started && !(dieLost s d).testBit e
/-- Every live die has acknowledged the die's shoot-down: STATUS becomes 2. -/
def settleAcks (s : State) (d : Nat) : State :=
  if (s.die d).sd.isSome && sdStatus s d ≠ 2 && (List.range 8).all fun e => !countedDie s d e || (s.die d).sdAcks.getLsbD e then
    setSdStatus s d 2
  else s

/-- RETRACT_ACK_RECEIVE (R276): the initiator counts an acknowledgement. -/
def execRetractAckReceive (die sd : Nat) (s : State) : Answer :=
  .next <| match (s.die die).acksIn.find? fun e => e.1 == sd with
    | none => s
    | some e =>
      let s1 := s.modDie die fun d =>
        { d with acksIn := d.acksIn.erase e, sdAcks := if d.sd = some sd then d.sdAcks ||| dieBit e.2 else d.sdAcks }
      settleAcks s1 die

/-- COMMIT_RECEIVE (R276): the walks of the range go on. -/
def execCommitReceive (die sd : Nat) (s : State) : Answer :=
  .next <| match nextHard s die 0x8003 4 sd with
    | none => s
    | some _ => (popHard s die).modDie die fun d => { d with shoots := d.shoots.filter fun x => x.id != sd }

/-- The gangs that hold a lock or a pin on the range at a die (R277). -/
def rangeHolders (s : State) (d : Nat) (x : Shoot) : List Nat :=
  let pinned := (s.die d).pins.filterMap fun p => match p.owner with
    | .inl t => if spanShot x p.pasid p.va 1 then some t else none
    | .inr _ => none
  let locked := (coresOf s d).flatMap fun e => (e.2.locks.filter (lockShot s x e.1)).filterMap fun k =>
    match s.group e.1 k.slot with
    | some g => g.task
    | none => none
  (pinned ++ locked).eraseDups

/-- The halted gangs of a domain go through T2 as the ladder's do, without HELD (R277, R285). -/
def shootClimbs (s : State) (d : Nat) (ts : List Nat) : State :=
  let left := ts.filter (resident s)
  let doms := (left.filterMap fun t => (sget s.tasks t).map (·.domain)).eraseDups
  doms.foldl (fun s dom =>
    let ts := left.filter fun t => match sget s.tasks t with
      | some k => k.domain == dom
      | none => false
    s.modDie d fun y =>
      { y with climbs := y.climbs ++ [⟨dom, .halted, 0, y.time, false, true, ts⟩] }) s

/-- SHOOTDOWN_TIMEOUT (R277): step 3 has lasted SDTIME and is not over; gangs that hold the range are halted by force, and pins of supervisor cores are released. -/
def execShootdownTimeout (die sd : Nat) (s : State) : Answer :=
  .next <| match (s.die die).shoots.find? fun x => x.id == sd with
    | none => s
    | some x =>
      if x.acked || x.timedOut || !usesRange s die x || s.now die < x.since + 1000 * (s.die x.initiator).num (sdOff + 28) 4 then s
      else
        let ts := rangeHolders s die x
        let s1 := shootClimbs (ts.foldl haltGang (deliverDecode s)) die ts
        let s2 := s1.modDie die fun d =>
          { d with
            pins := d.pins.filter fun p => !(spanShot x p.pasid p.va 1 && match p.owner with
              | .inl _ => false
              | .inr _ => true)
            shoots := d.shoots.map fun y => if y.id = sd then { y with timedOut := true } else y }
        s2.sendNoFibre die Cause.machineCheck x.va

/-! ## Walks (R271, R272, R314) -/

/-- The fibres of a core that wait for a page of a PASID and domain: (slot, identifier, fibre). -/
def walkWaiters (s : State) (u pasid va dom : Nat) (host : Bool) : List (Nat × Nat × Fibre) :=
  (s.core u).slots.flatMap fun g => g.2.fibres.filterMap fun f => match f.2.wait with
    | some (.walk p a h) =>
      if p = pasid && h = host && a.toNat / 65536 = va / 65536 && (g.2.phys == false) && domainOf g.2 f.2 = dom then
        some (g.1, f.1, f.2)
      else none
    | _ => none

/-- A leaf enters the core's cache and its island's (R271). -/
def fillWalk (s : State) (u pasid dom va e : Nat) (big : Bool) : State :=
  let t : TlbEntry :=
    { pasid := pasid, domain := dom, vpage := if big then va / 2 ^ 28 else va / 65536, big := big, entry := BitVec.ofNat 128 e }
  let d := dieOf u
  (s.modCore u fun c => { c with tlb := cacheAdd 128 t c.tlb, noPage := c.noPage.filter (· != (pasid, dom, va / 65536)) }).modDie d fun x =>
    { x with sharedTlb := sset x.sharedTlb (islandOf u) (cacheAdd 4096 t (sgetD x.sharedTlb (islandOf u) [])) }

/-- A leaf of 256 MiB overlaps a range under shoot-down (R276). -/
def bigShot (s : State) (d pasid va : Nat) (big : Bool) : Bool :=
  big && (s.die d).shoots.any fun x => spanShot x pasid (va / 2 ^ 28 * 2 ^ 28) (2 ^ 28)
/-- What the reads of a walk do at their homes (R144, R155, R156), and the table pointers that the island's walk cache keeps (R271). -/
def noteWalk (s : State) (u pasid dom va : Nat) : State :=
  let a := walkStart s u pasid dom va
  let s1 := (walkReads s (dieOf u) va a.1 a.2).foldl (fun s r => readLine s r.2.2 (classOf s u dom)) s
  let add := fun (l : List WalkEntry) => (walkPointers s u pasid dom va).foldl (fun l t => t :: List.take 63 (l.filter (· != t))) l
  s1.modDie (dieOf u) fun x =>
    { x with walkCache := sset x.walkCache (islandOf u) (add (sgetD x.walkCache (islandOf u) [])) }

/-- WALK_COMPLETE (R272): a leaf enters the caches; a walk that ends in a fault fills none. Inside a range under shoot-down nothing
ends (R276). -/
def execWalkComplete (u pasid : Nat) (va : DWord) (domain : Nat) (s : State) : Answer :=
  .next <|
    let a := va.toNat
    let d := dieOf u
    if (walkWaiters s u pasid a domain false).isEmpty || retracted s d pasid a then s
    else match walk s u pasid domain a with
      | .bad _ => s
      | .leaf e big => if bigShot s d pasid a big then s else noteWalk (fillWalk s u pasid domain a e big) u pasid domain a

/-- The fibres of a refused reply raise TRANSLATION at their instructions, those of one instruction of a group together. -/
def refuseWalk (s : State) (u : Nat) (ws : List (Nat × Nat × Fibre)) : State :=
  (groupBy (fun w : Nat × Nat × Fibre => w.1 * 2 ^ 64 + w.2.2.pc.toNat) ws).foldl (fun s e =>
    match e.2 with
    | [] => s
    | w :: _ =>
      let a := match w.2.2.wait with
        | some (.walk _ a _) => a.toNat
        | _ => 0
      s.takeFault u w.1 (e.2.map fun x => x.2.1) w.2.1 0 Cause.translation 0 a w.2.2.pc) s

/-- A refused reply: the fibres that wait raise TRANSLATION, and the core's own hardware, when no fibre waits, remembers it. -/
def refuseReply (s : State) (u pasid dom va : Nat) (ws : List (Nat × Nat × Fibre)) : State :=
  if ws.isEmpty then s.modCore u fun c => { c with noPage := (pasid, dom, va / 65536) :: c.noPage } else refuseWalk s u ws
/-- HOST_WALK_REPLY (R314): the host's entry enters the caches as a walker's result; a refused or malformed one raises
TRANSLATION. The request is a fibre's, or that of the core's own hardware. -/
def execHostWalkReply (u pasid : Nat) (va : DWord) (domain : Nat) (entry : Option (BitVec 128)) (s : State) : Answer :=
  .next <|
    let a := va.toNat
    let ws := walkWaiters s u pasid a domain true
    if (ws.isEmpty && !hostWalks s) || retracted s (dieOf u) pasid a then s
    else match entry with
      | none => refuseReply s u pasid domain a ws
      | some e =>
        if pteT e.toNat ≠ 2 || leafBad s.pkg false e.toNat then refuseReply s u pasid domain a ws
        else fillWalk s u pasid domain a e.toNat false

/-! ## Heartbeats and suspicion (R281) -/

/-- The links of a die on which its next heartbeat is due, each 1 µs after the last on it. -/
def dueLinks (s : State) (die : Nat) : List Nat :=
  (List.range 8).filter fun e => e != die && match sget (s.die die).beats e with
    | none => true
    | some t => decide ((s.die die).time ≥ t + 1000)
/-- HEARTBEAT: one on each link every 1 µs; a link that carries nothing brings none. Each link has a phase of its own, which is not
defined: which due link sends now is a free value. -/
def execHeartbeat (die : Nat) (s : State) : Answer :=
  .next <|
    let due := dueLinks s die
    match (if due.contains (s.free % 8) then some (s.free % 8) else due.head?) with
    | none => s
    | some n =>
      if !(s.die die).alive then s
      else
        let s1 := s.bumpFree.modDie die fun x => { x with beats := sset x.beats n x.time }
        if (s.die die).badLinks.contains n then s1
        else s1.modDie n fun x => { x with lastHeard := sset x.lastHeard die x.time }

/-- A die link stops carrying, or carries again, in both directions. -/
def setLink (s : State) (a b : Nat) (up : Bool) : State :=
  let put := fun (s : State) (d n : Nat) => s.modDie d fun x =>
    { x with badLinks := (if up then [] else [n]) ++ x.badLinks.filter (· != n) }
  if a = b || a ≥ 8 || b ≥ 8 then s else put (put s a b) b a

/-- A die suspects another. -/
def suspect (s : State) (d n : Nat) : State :=
  if d = n || n ≥ 8 || !(s.die d).alive || (s.die d).suspects.contains n then s
  else s.modDie d fun x => { x with suspects := x.suspects ++ [n] }

/-- LINK_SILENCE_TIMEOUT: 20 µs since the last heartbeat received. -/
def execLinkSilenceTimeout (die nbr : Nat) (s : State) : Answer :=
  .next <| if (s.die die).time ≥ sgetD (s.die die).lastHeard nbr 0 + 20000 then suspect s die nbr else s
/-- LINK_UNCORRECTABLE_ERROR. -/
def execLinkUncorrectableError (die nbr : Nat) (s : State) : Answer := .next (suspect s die nbr)
/-- FATAL_ERROR_SIGNAL. -/
def execFatalErrorSignal (die nbr : Nat) (s : State) : Answer :=
  .next ((suspect s die nbr).modDie die fun x => { x with fatals := nbr :: x.fatals.filter (· != nbr) })

/-- The links of a die that carry nothing, or that one of their ends suspects. -/
def linksLost (s : State) (d : Nat) : Nat :=
  ((List.range 8).filter fun e => e != d &&
    ((s.die d).badLinks.contains e || (s.die d).suspects.contains e || (s.die e).suspects.contains d)).length
/-- The master's judgement of a report that `d` suspects `n`: a die that signalled its own fatal error, or that the master cannot hear,
has failed; when a link between two live dies has failed, the die with more lost links, at a tie the higher-numbered (R281). -/
def verdict (s : State) (d n : Nat) : Nat :=
  if d = s.master || (s.die d).fatals.contains n || !(s.die n).alive || (s.die s.master).suspects.contains n then n
  else if linksLost s d > linksLost s n then d
  else if linksLost s n > linksLost s d then n
  else Nat.max d n

/-- SUSPICION_REPORT (R281, R282): the report reaches the master, which judges and sends DIEFAIL on group 0. The reason code, which the
spec does not list, is a free value. -/
def execSuspicionReport (die nbr : Nat) (s : State) : Answer :=
  .next <|
    if !((s.die die).alive && (s.die die).suspects.contains nbr) || (s.die die).masterOf ≠ s.master || nbr = s.master ||
        !(s.die s.master).alive || (s.die nbr).judged || (s.die die).judged || (s.die die).badLinks.contains s.master then s
    else
      let f := verdict s die nbr
      let body := leBytes 1 f ++ leBytes 1 (s.free % 256) ++ leBytes 8 (s.now s.master)
      (sendHard s 0x8010 body).bumpFree.modDie f fun x => { x with judged := true }

/-- Every live die finds the master silent. -/
def masterSilent (s : State) : Bool :=
  (List.range 8).all fun d => d == s.master || !(s.die d).alive || !(s.die d).started || (s.die d).judged ||
    (s.die d).suspects.contains s.master
/-- A die hears every other unsuspected die: each die that it suspects is suspected by a third die as well. -/
def hearsAll (s : State) (m : Nat) : Bool :=
  (List.range 8).all fun y => y == m || y == s.master || !((s.die m).suspects.contains y) ||
    (List.range 8).any fun z => z != m && z != y && (s.die z).alive && (s.die z).suspects.contains y

/-- MASTER_SILENCE_TIMEOUT (R281): the lowest-numbered die that hears the others becomes master and sends MASTER. -/
def execMasterSilenceTimeout (s : State) : Answer :=
  .next <|
    if !masterSilent s then s
    else
      match (List.range 8).find? fun m =>
        m != s.master && (s.die m).alive && (s.die m).started && !(s.die m).judged && hearsAll s m with
      | none => s
      | some m => sendHard { s with master := m, masterSince := s.nextTicket } 0x8011 (leBytes 1 m)

/-- MASTER (R281): the die knows the new master. -/
def execMasterReceive (die newMaster : Nat) (s : State) : Answer :=
  .next <| match nextHard s die 0x8011 1 newMaster with
    | none => s
    | some _ => (popHard s die).modDie die fun x => { x with masterOf := newMaster }

/-! ## DIEFAIL (R283) -/

/-- Requests of a survivor that end with home lost: those whose home is the failed die. -/
def flightLost (d f : Nat) (s : State) (x : Flight) : State :=
  if dieOf x.u ≠ d || paPkg x.pa ≠ s.pkg then
    -- a request from the failed die that has not reached this home is discarded
    if dieOf x.u = f && paPkg x.pa = s.pkg && paDie x.pa = d && !x.arrived then dropFlight s x.id else s
  else if paDie x.pa = f then dropFlight (failFlight s Cause.homeLost x) x.id
  else
    match x.kind with
    | .stm ds =>
      if ds.contains f then
        let rest := ds.filter (· != f)
        if rest.isEmpty then ackFlight (dropFlight s x.id) x x.t else putFlight s { x with kind := .stm rest }
      else s
    | _ => s

/-- Atomics that hold a ticket of an earlier master ask for a new one. -/
def retakeTicket (d : Nat) (s : State) (x : Flight) : Flight :=
  match x.ticket with
  | some n => if dieOf x.u = d && n < s.masterSince then { x with ticket := none, arrived := false } else x
  | none => x

/-- A task is parked on no counter any more. -/
def unpark (s : State) (t : Nat) : State :=
  { s with dies := s.dies.map fun (e : Nat × Die) =>
      (e.1, { e.2 with counters := e.2.counters.map fun (c : Nat × Counter) =>
        (c.1, { c.2 with parked := c.2.parked.filter (· != t) }) }) }
/-- A task that has not started ends with a status. -/
def abortTask (status : Nat) (s : State) (t : Nat) : State :=
  modTask (unpark s t) t fun k =>
    { k with st := .aborted, status := Nat.max k.status status, gangId := none, chosen := [] }
/-- A counter that a task names lies on a die. -/
def onDie (x : Word) (f : Nat) : Bool := !noCounter x && ctrDie x == f

/-- A fibre waiting to hand over a task goes back to its TENQ. -/
def bounceTenq (s : State) (t : Nat) : State :=
  { s with
    tasks := sdel s.tasks t
    cores := s.cores.map fun (e : Nat × Core) => (e.1, { e.2 with slots := e.2.slots.map fun (g : Nat × Group) =>
      (g.1, { g.2 with fibres := g.2.fibres.map fun (f : Nat × Fibre) => match f.2.wait with
        | some (.tenqRoom k _) => if k = t then (f.1, f.2.ready e.2.opp) else f
        | _ => f }) }) }

/-- What a lost die does to a task: gangs with a group there are aborted; tasks queued there, parked on its counters or with DONEC
there end with status 1 (R221, R283). A gang that has ended, and had a group there, is ABORTED before its DONEC (R238); while a gang is in
residence, a TDONE that was given stands (R49). A reservation that counts on its cores is dropped, and the task is READY. -/
def taskLost (f : Nat) (s : State) (e : Nat × Task) : State :=
  let k := e.2
  if k.groups.any fun p => dieOf p.1 == f then killGang 1 s e.1
  else
    match k.st with
    | .done | .refused | .aborted | .taken => s
    | .waitingRoom => if queueDie k.queue = f || onDie k.waitc f || onDie k.donec f then bounceTenq s e.1 else s
    | .running =>
      let s1 := modTask s e.1 fun k => { k with landing := k.landing.filter fun p => dieOf p.1 != f }
      if onDie k.donec f then modTask s1 e.1 fun k => { k with status := Nat.max k.status 1, donec := 0xFFFFFFFF } else s1
    | .draining => if onDie k.donec f || (k.groups.isEmpty && k.dies.getLsbD f) then modTask s e.1 fun k => { k with st := .aborted, status := Nat.max k.status 1 } else s
    | .parked => if queueDie k.queue = f || onDie k.waitc f || onDie k.donec f then abortTask 1 s e.1 else s
    | _ =>
      if queueDie k.queue = f || onDie k.donec f then abortTask 1 s e.1
      else if k.chosen.any fun u => dieOf u == f then modTask s e.1 fun k => { k with st := .ready, chosen := [] }
      else s

/-- Groups of a survivor on their way to the failed die raise HOME_LOST and stay (R280). -/
def migrLost (d f : Nat) (s : State) : State :=
  (coresOf s d).foldl (fun s c => c.2.slots.foldl (fun s g =>
    if g.2.st = .migrating f then
      migrFault (s.modGroup c.1 g.1 fun g => { g with st := .run }) c.1 g.1 Cause.homeLost
    else s) s) s

/-- The shoot-downs that a lost die had opened: the master commits them. -/
def commitLost (d f : Nat) (s : State) : State :=
  if d ≠ s.master then s
  else ((s.die d).shoots.filter fun x => x.initiator == f).foldl (fun s x => sendHard s 0x8003 (sdBody x.id x.pasid x.va x.npg)) s

/-- The steps of a survivor `d` for a failed die `f`. -/
def survive (d f : Nat) (s : State) : State :=
  let s1 := s.flights.foldl (flightLost d f) s
  let s2 := s1.modDie d fun x => x.setBytes 0x6000800040 (leBytes 1 (dieLost s1 d ||| 2 ^ f))
  let s3 := migrLost d f (s2.tasks.foldl (taskLost f) s2)
  let s4 := settleAcks (commitLost d f s3) d
  let s5 := { s4 with flights := s4.flights.map (retakeTicket d s4) }
  settleClimbs (hostRecord s5 d 3 0 f)

/-- DIEFAIL (R282, R283): a survivor acts on the message in its place; the die that it names stops. -/
def execDiefail (die failed : Nat) (s : State) : Answer :=
  .next <| match nextHard s die 0x8010 1 failed with
    | none => s
    | some _ =>
      let s1 := popHard s die
      if die = failed then s1.modDie die fun x => { x with alive := false }
      else survive die failed (s1.modDie failed fun x => { x with alive := false, judged := true })

end Sys2Proof.Machine
end

