-- ==== Sys2Proof/Machine/Registers.lean ====
section
/-! DEFINITION. The control registers of a die at their physical addresses (R4, R13, R138, R152, R157, R170, R171, R219, R223, R240,
R242, R249 to R251, R262, R266, R273, R275, R286, R291, R297, R303, R308): what a write does to each, the register port (R60, R61), the
start blocks (R13), and the scrubber's and the soft errors' events (R155 to R157, R205). -/

namespace Sys2Proof.Machine

/-- The state that an answer leaves; these answers never stop. -/
def afterAnswer (s : State) (r : Answer) : State :=
  match r with
  | .next t => t
  | _ => s

/-! ## Single registers -/

/-- Replace the 64-bit word at a die offset. -/
def putWord (s : State) (d off v : Nat) : State := s.modDie d fun x => x.setBytes off (leBytes 8 v)
/-- Keep the bits of `mask` from the new value, the others from the old one (R4). -/
def maskMerge (mask old new : Nat) : Nat := (new &&& mask) ||| (old &&& (2 ^ 64 - 1 - mask))
/-- The halves of a word. -/
def loHalf (x : Nat) : Nat := x % 2 ^ 32
def hiHalf (x : Nat) : Nat := x / 2 ^ 32 % 2 ^ 32
def joinHalves (lo hi : Nat) : Nat := lo % 2 ^ 32 + hi % 2 ^ 32 * 2 ^ 32
/-- A byte of the word was written. -/
def wrote (sel : List Nat) (lo hi : Nat) : Bool := sel.any fun b => lo ≤ b && b ≤ hi

/-- LEASE (R170): a value outside 64 to 4,096 is ignored. -/
def writeLease (s : State) (d v : Nat) : State :=
  let n := v % 8192
  if 64 ≤ n && n ≤ 4096 then putWord s d 0x6000000040 n else s

/-- The rows of a DSM segment become zero-pending, and read zero (R152). -/
def zeroSegment (s : State) (d seg : Nat) : State :=
  let a := seg * 0x200000
  let lo := seg * 32768
  s.modDie d fun x =>
    { x with
      dsm := x.dsm.filter fun e => !(a ≤ e.1 && e.1 < a + 0x200000)
      dsmPend := x.dsmPend.filter (fun e => !(lo ≤ e.1 && e.2 ≤ lo + 32768)) ++ [(lo, lo + 32768)] }
/-- An entry of the DSM owner table (R152). -/
def writeDsmOwner (s : State) (d seg v : Nat) : State :=
  let off := 0x6000100000 + 4 * seg
  let old := (s.die d).num off 4
  let new := v &&& 0x800000FF
  let s1 := s.modDie d fun x => x.setBytes off (leBytes 4 new)
  if new % 256 != old % 256 || (new.testBit 31 && !old.testBit 31) then zeroSegment s1 d seg else s1

/-- A launch context's words (R219): SEQ and OUTST are read-only, and a one clears OVF. -/
def ctxMerge (i old new : Nat) (sel : List Nat) : Nat :=
  if i = 0 then
    let w := maskMerge 0xD8FFFFFFFFFF1FFF old new
    if wrote sel 7 7 && new.testBit 61 && old.testBit 61 then w - 2 ^ 61 else w
  else if i = 1 then maskMerge 0x1FFFFF old new
  else new

/-- The partitions that have a domain with a DPART set on a die (R309). -/
def servedParts (s : State) (d : Nat) : List Nat :=
  (dieParts s d).filter fun p => (coresOf s d).any fun e =>
    !isSupCore e.1 && unitPart s e.1 == p && e.2.dparts.any fun x => x.2.valid
/-- After a write to SVCCAP or SMIN: the service is degraded when the minima exceed the cap (R251). -/
def checkService (s : State) (d : Nat) : State :=
  if sminSum s d > svccapOf s d then hostEvent s (servedParts s d) 1 0 d else s

/-- PREQ (R262). -/
def writePreq (s : State) (d v : Nat) (sel : List Nat) : State :=
  let w := v &&& 0x800000FFFFFFFFFF
  let s1 := putWord s d 0x6000500000 w
  if !wrote sel 7 7 then s1
  else if w.testBit 63 then afterAnswer s1 (execPreqRequest d (bitsOf w 39 32) (BitVec.ofNat 32 w) s1)
  else afterAnswer s1 (execPreqRelease d (bitsOf w 39 32) s1)

/-- The response register (R249): a record of no fibre ends whatever ACT holds (R437). -/
def writeResponse (s : State) (d v : Nat) (sel : List Nat) : State :=
  let tag := v % 2 ^ 32
  if !wrote sel 4 4 then putWord s d 0x6000500100 (v % 2 ^ 35)
  else
    match bitsOf v 34 32 with
    | 0 => afterAnswer s (execResponseResume d tag s)
    | 1 => afterAnswer s (execResponseSkip d tag s)
    | 2 => afterAnswer s (execResponseRedirect d tag ((s.die d).word 0x6000500108) s)
    | 3 => afterAnswer s (execResponseKill d tag s)
    | _ => match recordOf s d tag with
      | some r => if r.fibres.isEmpty then endRecord s d r else s
      | none => s

/-- CMD of the register port (R61): ignored while a command runs. -/
def writePortCmd (s : State) (d old v : Nat) : State :=
  if old.testBit 63 then s else putWord s d 0x6000500400 (v &&& 0xF803FFFFE00003FF)

/-- FABCTL (R297): each field keeps its value when the write is outside its range. -/
def writeFabctl (s : State) (d old v : Nat) : State :=
  let pick := fun hi lo top => if 1 ≤ bitsOf v hi lo && bitsOf v hi lo ≤ top then bitsOf v hi lo else bitsOf old hi lo
  putWord s d 0x6000C00000 (bitsOf v 63 63 * 2 ^ 63 + pick 47 32 65535 * 2 ^ 32 + pick 31 16 65535 * 2 ^ 16 + pick 15 0 1000)

/-! ## Start blocks (R13) -/

def startOff (sc : Nat) : Nat := 0x6000F00000 + 64 * sc

/-- The page of the header that a start block names. -/
def startPage (s : State) (u : Nat) (khdr pasid : Nat) (phys : Bool) : Except Stop Page :=
  translateNow s u ⟨pasid, 0, 0, true, phys⟩ khdr .load 64
/-- The header that a start block names; none when it cannot be read, lies in a line that carries poison (R155), or a reserved byte of it
is not zero. -/
def startHeader (s : State) (u : Nat) (khdr pasid : Nat) (phys : Bool) : Option Header :=
  match startPage s u khdr pasid phys with
  | .error _ => none
  | .ok p =>
    let b := paBytes s p.pa 64
    if paPkg p.pa = s.pkg && headerReserved b && !isPoisoned s p.pa then some { headerOf b false with kframe := 0 } else none
/-- What the read of that header does at its home (R138, R155, R156). -/
def noteStart (s : State) (u : Nat) (khdr pasid : Nat) (phys : Bool) : State :=
  match startPage s u khdr pasid phys with
  | .ok p => readLine s p.pa 8
  | .error _ => s

/-- The supervisor group that a start block starts at a place: KFIBS fibres at KENT in supervisor mode (R12, R29). -/
def supGroup (s : State) (u : Nat) (h : Header) (arg : DWord) (pasid : Nat) (phys : Bool) (x : Place) : Group :=
  let g : Group := { hdr := h, pasid := pasid, phys := phys, vbase := x.vbase, ubase := x.ubase, banks := x.banks }
  { g with uregs := argRegs h arg
           fibres := (List.range h.kfibs).map fun id => (id, freshFibre g id h.kent true (s.core u).opp) }

/-- A write of GO (R13): the group starts, or STATUS says that it was refused. R13 does not name a header that cannot be read, one in
another package, or one that breaks a limit of R43 or R130: these are refused too. DESIGN CHOICE, see the log. -/
def startGo (s : State) (d sc : Nat) : State :=
  let x := s.die d
  let o := startOff sc
  let u := 64 * d + 32 + sc
  let pasid := x.num (o + 16) 4
  let ctl := x.num (o + 20) 4
  let refuse := fun (s : State) => s.modDie d fun y => y.setBytes (o + 24) (leBytes 4 2)
  if sc ≥ 4 || !x.alive || clamped s d (islandOf u) || pasid ≥ 2 ^ 20 || ctl ≥ 4 ||
      !((x.bytes (o + 32) 32).all (· == 0)) then refuse s
  else
    let s1 := noteStart s u (x.num o 8) pasid (ctl.testBit 1)
    match startHeader s u (x.num o 8) pasid (ctl.testBit 1) with
    | none => refuse s1
    | some h =>
      if h.kgrps ≠ 1 || h.ktiles ≠ 0 || h.kaccs ≠ 0 || !headerLimits h then refuse s1
      else
        match placeGroup (s.core u) wholeCore h with
        | none => refuse s1
        | some p =>
          (s1.setGroup u p.slot (supGroup s u h (x.word (o + 8)) pasid (ctl.testBit 1) p)).modDie d fun y =>
            y.setBytes (o + 24) (leBytes 4 1 ++ leBytes 4 p.slot)

/-- The words of a start block: a one written to GO starts a group, and GO and the reserved bits read 0 (R4). -/
def writeStart (s : State) (d sc i v : Nat) (sel : List Nat) : State :=
  let off := startOff sc + 8 * i
  if i = 3 then s
  else if i = 2 then
    let s1 := putWord s d off (v &&& 0x2000FFFFF)
    if wrote sel 4 4 && v.testBit 32 then startGo s1 d sc else s1
  else putWord s d off v

/-! ## The shoot-down block (R275) -/

/-- Word `i` of the block: VA; PASID and NPG; OP and SDID; STATUS and SDTIME. -/
def writeShoot (s : State) (d i old v : Nat) (sel : List Nat) : State :=
  if i = 0 then putWord s d sdOff v
  else if i = 1 then putWord s d (sdOff + 8) (joinHalves (loHalf v &&& 0xFFFFF) (hiHalf v))
  else if i = 2 then
    if !wrote sel 0 3 then s
    else if loHalf v = 1 then afterAnswer s (execShootdownRetract d s)
    else if loHalf v = 2 then afterAnswer s (execShootdownCommit d s)
    else s
  else if 1 ≤ hiHalf v && hiHalf v ≤ 65535 then putWord s d (sdOff + 24) (joinHalves (loHalf old) (hiHalf v))
  else s

/-! ## A write to a word of the control space -/

/-- The word lies in a table of `n` bytes from an offset. -/
def inTable (off base n : Nat) : Bool := base ≤ off && off < base + n

/-- A supervisor physical store to the word at a die offset: its old value, the value with the stored bytes in place, and the bytes
stored. An offset with no register keeps nothing. -/
def writeReg (s : State) (d off old v : Nat) (sel : List Nat) : State :=
  if off = 0x6000000040 then writeLease s d v
  else if inTable off 0x6000100000 512 then
    let seg := (off - 0x6000100000) / 4
    let s1 := if wrote sel 0 3 then writeDsmOwner s d seg (loHalf v) else s
    if wrote sel 4 7 then writeDsmOwner s1 d (seg + 1) (hiHalf v) else s1
  else if inTable off 0x6000200000 0x4000 then putWord s d off (ctxMerge ((off - 0x6000200000) / 8 % 4) old v sel)
  else if inTable off 0x6000300000 0x1000 || inTable off 0x6000310000 0x1000 then putWord s d off (v &&& 0x800000FF800000FF)
  else if inTable off 0x6000400000 0x2000 then putWord s d off v
  else if off = 0x6000500000 then writePreq s d v sel
  else if off = 0x6000500100 then writeResponse s d v sel
  else if off = 0x6000500108 then putWord s d off v
  else if off = 0x6000500200 then checkService (putWord s d off (loHalf v)) d
  else if off = 0x6000500400 then writePortCmd s d old v
  else if off = 0x6000500408 then putWord s d off v
  else if inTable off 0x6000600000 0x4000 then
    let i := (off - 0x6000600000) / 8 % 8
    if i = 0 then putWord s d off (v &&& 0x000FFFFF00000001)
    else if i = 7 then checkService (putWord s d off (v &&& 0xFFFF)) d
    else putWord s d off v
  else if inTable off sdOff 32 then writeShoot s d ((off - sdOff) / 8) old v sel
  else if inTable off 0x6000900000 512 then if off = 0x6000900000 then s else putWord s d off (v &&& 0x80000000FFFFFFFF)
  else if inTable off 0x6000A00000 0x8000 then
    let k := off - 0x6000A00000
    if k / 8 % 2 = 0 then writeSlot s (64 * d + k / 1024) (k / 16 % 64) v else s
  else if inTable off 0x6000B00000 0x20000 then
    let k := off - 0x6000B00000
    if k / 8 % 4 = 0 then writeCourse s d (k / 32) v else s
  else if off = 0x6000C00000 then writeFabctl s d old v
  else if inTable off 0x6000D00000 0x20000 then putWord s d off v
  else if inTable off 0x6000F00000 256 then writeStart s d ((off - 0x6000F00000) / 64) ((off - 0x6000F00000) / 8 % 8) v sel
  else if inTable off 0x6010000000 0x1000000 then putWord s d off v
  else s

/-- The value of a word with some of its bytes replaced. -/
def overWord (old : Nat) (bs : List (Nat × Byte)) : Nat :=
  bs.foldl (fun w b => putBits w (8 * b.1 + 7) (8 * b.1) b.2.toNat) old

/-- A supervisor physical store to a die's control space, word by word (R138). -/
def ctlWrite (s : State) (d off : Nat) (bytes : List Byte) : State :=
  let ws := groupBy (fun e : Nat × Byte => e.1 / 8) (bytes.zipIdx.map fun b => (off + b.2, b.1))
  ws.foldl (fun s w =>
    let old := ((s.die d).word (8 * w.1)).toNat
    let bs := w.2.map fun e => (e.1 % 8, e.2)
    writeReg s d (8 * w.1) old (overWord old bs) (bs.map (·.1))) s

/-- Bytes stored at a physical address of the package, whatever lies there. -/
def physWrite (s : State) (pa : Nat) (bytes : List Byte) : State :=
  if inControl pa then ctlWrite s (paDie pa) (paOff pa) bytes
  else if isReserved pa then countReserved s pa
  else homeWrite s pa bytes

/-! ## Events of register writes -/

/-- REGISTER_WRITE (R4): a write of one register's bytes. Of ISLCTL, which only the PF's driver writes, it stores FSTEP; the other fields
have events of their own (R308). -/
def execRegisterWrite (die off : Nat) (value : DWord) (size : Nat) (s : State) : Answer :=
  .next <|
    if off = 0x6000E00000 || off = 0x6000E00008 then
      putWord s die off (putBits ((s.die die).word off).toNat 57 55 (bitsOf value.toNat 57 55))
    else if 0x6000000000 ≤ off && off < 0x6100000000 && size ≤ 8 then ctlWrite s die off (leBytes size value.toNat)
    else s

/-- SVCCAP_WRITE (R251). -/
def execSvccapWrite (die : Nat) (value : Word) (s : State) : Answer :=
  .next (checkService (putWord s die 0x6000500200 value.toNat) die)
/-- LEASECFG_WRITE (R170, R171). -/
def execLeasecfgWrite (die : Nat) (value : Word) (s : State) : Answer := .next (writeLease s die value.toNat)
/-- DSM_OWNER_WRITE (R152). -/
def execDsmOwnerWrite (die seg : Nat) (value : Word) (s : State) : Answer :=
  .next <| if seg ≥ 128 then s else writeDsmOwner s die seg value.toNat
/-- START_BLOCK_GO (R13). -/
def execStartBlockGo (die sc : Nat) (s : State) : Answer := .next (if sc ≥ 4 then s else startGo s die sc)

/-! ## The register port (R60, R61) -/

/-- The fields of CMD. -/
structure PortCmd where
  u : Nat
  cls : Nat
  slot : Nat
  fibre : Nat
  reg : Nat
/-- CMD of a die, when a command of the kind stands with GO = 1. -/
def portCmd (s : State) (d : Nat) (write : Bool) : Option PortCmd :=
  let w := ((s.die d).word 0x6000500400).toNat
  if w.testBit 63 && w.testBit 62 == write then
    some { u := 64 * d + (if w.testBit 49 then 32 + bitsOf w 48 44 % 4 else bitsOf w 48 44), cls := bitsOf w 61 59,
           slot := bitsOf w 43 39, fibre := bitsOf w 38 29, reg := bitsOf w 9 0 }
  else none
/-- The command ends: PSTAT, GO clear, and the outcome in the target core's DBGSTAT. -/
def portEnd (s : State) (d u : Nat) (state : Nat) (woke oow bad : Bool) : State :=
  let b := fun (x : Bool) (n : Nat) => if x then n else 0
  let w := ((s.die d).word 0x6000500400).toNat
  let s1 := putWord (putWord s d 0x6000500410 (state + b woke 4 + b oow 8 + b bad 16)) d 0x6000500400 (w % 2 ^ 63)
  s1.modCore u fun c => { c with dbgstat := BitVec.ofNat 2 (b woke 2 + b oow 1) }
/-- DATA takes a value read. -/
def portData (s : State) (d : Nat) (v : DWord) : State := putWord s d 0x6000500408 v.toNat

/-- Wake the granule of a vector register (R59); whether it was drowsy. -/
def wakeGranule (s : State) (u slot fibre r : Nat) : State × Bool :=
  match s.group u slot, s.fibre u slot fibre with
  | some g, some f =>
    let k := granuleOf f fibre r
    if g.drowsy.contains k then (s.modGroup u slot fun g => { g with drowsy := g.drowsy.filter (· != k) }, true) else (s, false)
  | _, _ => (s, false)

/-- What a register's scope asks of CMD: a fibre, a group, or neither (R61, R62). -/
inductive PortScope where
  | fibre | group | core
def csrScope (n : Nat) : PortScope :=
  if n ≤ 1 || n == 4 || (0x010 ≤ n && n ≤ 0x012) || (0x100 ≤ n && n ≤ 0x10F) || n == 0x130 then .fibre
  else if n == 2 || n == 3 || n == 7 || (0x020 ≤ n && n ≤ 0x02F) || n == 0x088 || (0x110 ≤ n && n ≤ 0x12F) || n == 0x131 then .group
  else .core

/-- The group resident in a slot; a slot set aside for a landing has none (R61, R279). -/
def portGroup (s : State) (u slot : Nat) : Option Group :=
  match s.group u slot with
  | some g => if g.st == .landing then none else some g
  | none => none
/-- The group and fibre that a register's scope names, with a stand-in where it needs none; none when they are absent. -/
def portPlace (s : State) (p : PortCmd) : Option (Group × Fibre) :=
  let blank : Fibre := { pc := 0 }
  match csrScope p.reg, portGroup s p.u p.slot with
  | .fibre, some g => (sget g.fibres p.fibre).map fun f => (g, f)
  | .group, some g => some (g, blank)
  | .core, g => some (g.getD { hdr := noHeader }, blank)
  | _, none => none

/-- REGISTER_PORT_READ (R60, R61). A number of a vector or uniform register that lies above every register of its class is outside the
window: DESIGN CHOICE, see the log. -/
def execRegisterPortRead (die : Nat) (s : State) : Answer :=
  .next <| match portCmd s die false with
    | none => s
    | some p =>
      let bad := portEnd s die p.u 0 false false true
      if p.cls ≥ 4 then bad
      else if p.cls = 3 then
        match csrInfo p.reg, portPlace s p with
        | some _, some (g, f) => portEnd (portData s die (csrValue s p.u p.fibre g f p.reg)) die p.u 0 false false false
        | _, _ => bad
      else
        match portGroup s p.u p.slot with
        | none => bad
        | some g =>
          if p.cls = 1 then
            if p.reg < granules8 g.hdr.kuni then
              let r := g.ureg p.reg
              portEnd (portData s die (r.val.setWidth 64)) die p.u r.st.code false false false
            else portEnd (portData s die 0) die p.u 0 false true false
          else
            match sget g.fibres p.fibre with
            | none => bad
            | some f =>
              if p.cls = 2 then portEnd (portData s die ((f.preds ||| 0x80).setWidth 64)) die p.u 0 false false false
              else if p.reg < vecCount g f then
                let r := f.reg p.reg
                let w := wakeGranule s p.u p.slot p.fibre p.reg
                portEnd (portData w.1 die (r.val.setWidth 64)) die p.u r.st.code w.2 false false
              else portEnd (portData s die 0) die p.u 0 false true false

/-- A write of a control or status register through the port: an MTSR by the named fibre without the privilege checks; it waits where
MTSR would block, and sets BAD where MTSR would be refused (R61). -/
def portCsr (s : State) (die : Nat) (p : PortCmd) (v : DWord) : State :=
  let bad := portEnd s die p.u 0 false false true
  match csrInfo p.reg, portPlace s p with
  | some x, some _ =>
    if x.write.isNone then bad
    else if (csrHold s p.u p.slot p.fibre p.reg).isSome then s
    else if !isSupCore p.u && 0x080 ≤ p.reg && p.reg ≤ 0x087 &&
        dpartRefused (s.core p.u) (p.reg - 0x080) (dpartFrom s p.u (p.reg - 0x080) v) then bad
    else portEnd (csrWrite s p.u p.slot p.fibre p.reg v) die p.u 0 false false false
  | _, _ => bad

/-- REGISTER_PORT_WRITE (R61): inside the window the register becomes full with the value, and a producer that still owes it writes it
no more (R56): DESIGN CHOICE, see the log. -/
def execRegisterPortWrite (die : Nat) (s : State) : Answer :=
  .next <| match portCmd s die true with
    | none => s
    | some p =>
      let v := (s.die die).word 0x6000500408
      let bad := portEnd s die p.u 0 false false true
      if p.cls ≥ 4 then bad
      else if p.cls = 3 then portCsr s die p v
      else
        match portGroup s p.u p.slot with
        | none => bad
        | some g =>
          if p.cls = 1 then
            if p.reg < granules8 g.hdr.kuni then
              portEnd ((forgetOwed s p.u p.slot p.fibre 1 p.reg).writeReg p.u p.slot p.fibre 1 p.reg (v.setWidth 32)) die p.u 1 false false false
            else portEnd s die p.u 0 false true false
          else
            match sget g.fibres p.fibre with
            | none => bad
            | some f =>
              if p.cls = 2 then
                portEnd (s.modFibre p.u p.slot p.fibre fun f => { f with preds := v.setWidth 8 ||| 0x80 }) die p.u 0 false false false
              else if p.reg < vecCount g f then
                let w := wakeGranule s p.u p.slot p.fibre p.reg
                portEnd ((forgetOwed w.1 p.u p.slot p.fibre 0 p.reg).writeReg p.u p.slot p.fibre 0 p.reg (v.setWidth 32)) die p.u 1 w.2 false false
              else portEnd s die p.u 0 false true false

/-! ## Scrubbing and errors (R155 to R157, R205) -/

/-- A line index lies in a range of lines. -/
def inLines (first count x : Nat) : Bool := decide (first ≤ x) && decide (x < first + count)
/-- A line of the range is in the middle of a transaction of the die. -/
def rangeBusy (s : State) (d first count : Nat) : Bool :=
  let x := s.die d
  (x.dirs.any fun e => inLines first count e.1 && lineBusy s (mkPa s.pkg d (128 * e.1))) ||
  (x.msgs.any fun m => inLines first count m.2.1) ||
  (coresOf s d).any fun c => (c.2.l1Req.any fun e => inLines first count e.1) || c.2.wb.any fun e => inLines first count e.1
/-- Zero the stack memory of a range of lines of a die. -/
def zeroLines (s : State) (d first count : Nat) : State :=
  let a := mkPa s.pkg d (128 * first)
  { s with mem := s.mem.filter fun e => !(decide (a ≤ e.1) && decide (e.1 < a + 128 * count)) }

/-- An instruction line or a leased copy of a core lies in a range of lines of a die. -/
def keyInLines (s : State) (d first count pa : Nat) : Bool := paPkg pa == s.pkg && paDie pa == d && plainPa pa && inLines first count (lineIx pa)
/-- Take every copy of a range of lines out of the caches of the package (R157). -/
def forgetRange (s : State) (d first count : Nat) : State :=
  (s.mapCores (fun _ => true) fun c =>
    { c with
      icache := c.icache.filter fun e => !keyInLines s d first count (64 * e.1)
      lcopies := c.lcopies.filter fun e => !keyInLines s d first count (128 * e.1) }).mapCores (fun u => dieOf u == d) fun c =>
    { c with l1 := c.l1.filter fun e => !inLines first count e.1 }

/-- MARK_SCRUB_PENDING (R157): the supervisor's command to the stack control registers, as it completes: every lease on the range has
expired on every die, whose counters differ by at most 4 ns (R24), every copy of the range is gone from the caches with its data, and every
line of it is pending. The service mode in force now says who zeroes the range (R314). -/
def execMarkScrubPending (die first count : Nat) (s : State) : Answer :=
  .next <|
    if count = 0 || 128 * (first + count) > 4 * stackSize || rangeBusy s die first count ||
        ((s.die die).horizon.any fun e => inLines first count e.1 && decide (e.2 + 4 ≥ s.now die)) then s
    else
      (zeroLines (forgetRange s die first count) die first count).modDie die fun d =>
        { d with
          dirs := d.dirs.filter fun e => !inLines first count e.1
          poison := d.poison.filter fun e => !inLines first count e.1
          flips := d.flips.filter fun l => !inLines first count l
          l2 := d.l2.filter fun e => !inLines first count e.1
          scrub := d.scrub ++ [(first, first + count)]
          hostScrub := if s.svcmode.getLsbD 3 then d.hostScrub ++ [(first, first + count)] else ivMinus d.hostScrub (first, first + count) }

/-- The pending lines that the scrubber zeroes: those of ranges marked in hardware mode (R157, R314). -/
def ownScrub (d : Die) : List (Nat × Nat) := d.hostScrub.foldl ivMinus d.scrub
/-- SCRUB_STEP (R156): the next pending line in address order. A range marked in host-assisted mode is the host's to zero (R157). -/
def execScrubStep (die : Nat) (s : State) : Answer :=
  .next <|
    match ownScrub (s.die die) with
    | [] => s
    | e :: t =>
      let line := t.foldl (fun a x => Nat.min a x.1) e.1
      (zeroLines s die line 1).modDie die fun d => { d with scrub := ivRemove d.scrub line }

/-- PATROL_SCRUB (R155): the patrol scrubber reads a line and writes back what it corrects, which is counted. It changes no byte that a
program can read. -/
def execPatrolScrub (die line : Nat) (s : State) : Answer :=
  .next <| if (s.die die).flips.contains line then s.modDie die fun d =>
      { d with flips := d.flips.filter (· != line), corrected := d.corrected + 1 }
    else s

/-- A soft error strikes a register, which is poisoned without an exception (R57). A producer that owes it a value still writes it, and a
later write still waits for that producer (R56). -/
def strikeReg (s : State) (u slot id cls n : Nat) : State :=
  s.modReg u slot id cls n fun r => { val := r.val, st := .poisoned Cause.machineCheck, owed := r.pending }

/-- SOFT_ERROR (R57, R205): an uncorrectable soft error poisons a register; in a tile or accumulator row it ends the operation that
reads the row, and the die's supervisor gets MACHINE_CHECK. -/
def execSoftError (err : SoftError) (s : State) : Answer :=
  let count := fun (s : State) (u : Nat) => s.modDie (dieOf u) fun d => { d with softErrors := d.softErrors + 1 }
  .next <| match err with
    | .vreg u slot fibre r =>
      match s.group u slot with
      | none => s
      | some g => match sget g.fibres fibre with
        | some f => if r < vecCount g f then strikeReg (count s u) u slot fibre 0 r else s
        | none => s
    | .ureg u slot r =>
      match s.group u slot with
      | none => s
      | some g => if r < granules8 g.hdr.kuni then strikeReg (count s u) u slot 0 1 r else s
    | .tile u slot t => endRowError (count s u) u slot (fun m => m.readsTile t) t 2
    | .acc u slot a => endRowError (count s u) u slot (fun m => m.ac == a && !(m.op == .azero || m.op == .tld || m.op == .tst)) a 3
where
  /-- The oldest running entry of the group that reads the row ends without its effect. -/
  endRowError (s : State) (u slot : Nat) (reads : MEntry → Bool) (n cls : Nat) : State :=
    match ((s.core u).running ++ (s.core u).transfers).find? fun m => m.slot == slot && reads m with
    | none => s
    | some m =>
      let s1 := s.modCore u fun c =>
        { c with running := c.running.filter (fun x => x.id != m.id), transfers := c.transfers.filter fun x => x.id != m.id }
      let s2 := wakeSigned (dropLocks s1 u m.id) u slot m.conv m.members
      s2.sendNoFibre (dieOf u) Cause.machineCheck (regInfo cls n)

end Sys2Proof.Machine
end

