-- ==== Sys2Proof/Machine/Coherence.lean ====
section
/-! DEFINITION. The directory of a die (R143 to R150): the messages between an L1 and a home slice, the transition table of R148,
and what an L1 does on each message. The coherent value of a line stands in memory, so that the messages carry no data. -/

namespace Sys2Proof.Machine

/-! ## Channels (R147) -/

/-- The message travels from an L1 to a slice. -/
def Msg.toHome : Msg → Bool
  | .invack | .ownerAck _ _ | .req _ => true
  | _ => false
/-- A line of a die, as a physical address. -/
def linePa (s : State) (d line : Nat) : Nat := mkPa s.pkg d (128 * line)
/-- The message belongs to the channel, in one direction, of a core and the slice of a line. -/
def onChannel (s : State) (d line core : Nat) (home : Bool) (m : Nat × Nat × Msg) : Bool :=
  m.1 == core && m.2.2.toHome == home &&
  (m.2.1 == line || sliceOf (linePa s d m.2.1) == sliceOf (linePa s d line))
/-- The message that a channel delivers next, when it is one for the line. -/
def chanHead (s : State) (d line core : Nat) (home : Bool) : Option Msg :=
  match (s.die d).msgs.find? (onChannel s d line core home) with
  | some m => if m.2.1 = line then some m.2.2 else none
  | none => none
/-- Take that message out of the channel. -/
def chanTake (s : State) (d line core : Nat) (home : Bool) : State :=
  s.modDie d fun x => { x with msgs := x.msgs.eraseP (onChannel s d line core home) }
/-- Send a message. -/
def chanSend (s : State) (d line core : Nat) (m : Msg) : State :=
  s.modDie d fun x => { x with msgs := x.msgs ++ [(core, line, m)] }

/-! ## The directory entry of a line -/

def dirOf (s : State) (d line : Nat) : Dir := sgetD (s.die d).dirs line {}
def putDir (s : State) (d line : Nat) (e : Dir) : State := s.modDie d fun x => { x with dirs := sset x.dirs line e }
/-- A transaction of the line is open. -/
def DirSt.transient : DirSt → Bool
  | .sm | .fw => true
  | _ => false
/-- The sharer bit of a core's cluster (R146). -/
def clusterBit (core : Nat) : BitVec 8 := 1#8 <<< (core / 4)
/-- The L1s that an invalidation of the marked clusters goes to. -/
def invTargets (sharers : BitVec 8) (requester : Nat) : List Nat :=
  (List.range 32).filter fun c => sharers.getLsbD (c / 4) && c != requester

/-- The end of SM: the requester owns the line, by GRANT or by DATA as recorded. -/
def finishSm (s : State) (d line : Nat) (e : Dir) : State :=
  chanSend (putDir s d line { e with st := .m, owner := e.requester, sharers := clusterBit e.requester, acks := 0 }) d line e.requester
    (if e.grant then .grant else .data true)
/-- Enter SM: invalidations to the marked clusters, and FWD_GETX to another owner, whose acknowledgement counts as one INVACK and who
sends the line itself: the home then sends GRANT. -/
def enterSm (s : State) (d line core : Nat) (e : Dir) (grant fwd : Bool) : State :=
  let ts := invTargets e.sharers core
  let e1 := { e with st := .sm, requester := core, grant := grant, acks := ts.length + (if fwd then 1 else 0) }
  let s1 := ts.foldl (fun s t => chanSend s d line t .inv) s
  let s2 := if fwd then chanSend s1 d line e.owner (.fwdGetx core) else s1
  if e1.acks = 0 then finishSm s2 d line e1 else putDir s2 d line e1
/-- Enter FW: the request goes to the owner. -/
def enterFw (s : State) (d line core : Nat) (e : Dir) (getx : Bool) : State :=
  chanSend (putDir s d line { e with st := .fw, requester := core }) d line e.owner (if getx then .fwdGetx core else .fwdGets core)
/-- DATA from the slice to a requester that becomes the owner. -/
def giveOwned (s : State) (d line core : Nat) (e : Dir) (st : DirSt) : State :=
  chanSend (putDir s d line { e with st := st, owner := core, sharers := 0 }) d line core (.data true)

/-- A PUTM, PUTO or PUTE of the owner takes the line out of its L1: I, or S when sharers remain. Another's is discarded. Both are
answered by PUTACK. -/
def dirPut (s : State) (d line core : Nat) (e : Dir) : State :=
  let owned := match e.st with
    | .m | .e | .o => e.owner == core
    | _ => false
  let e1 := if !owned then e
    else if e.st = .o && e.sharers != 0 then { e with st := .s }
    else { e with st := .i, sharers := 0 }
  chanSend (putDir s d line e1) d line core .putack

/-- The class of a core's request for a line (R144). -/
def requestClass (s : State) (d line core : Nat) : Nat := sgetD (s.core (64 * d + core)).l1Cls line 8
/-- The slice reads a line that it serves from memory or from itself; a line that it holds in another class's set moves before any request
is served (R144, R145). -/
def dirFill (s : State) (d line core : Nat) (k : ReqKind) : State :=
  let moved := l2Fill s (linePa s d line) (requestClass s d line core)
  let held := (sget (s.die d).l2 line).isSome
  match k, (dirOf s d line).st with
  | .gets, .i | .gets, .s | .getx, .i | .getx, .s | .upg, .i => moved
  | .gets, _ | .getx, _ | .upg, _ => if held then moved else s
  | _, _ => s
/-- The transition table of R148 for a line in a stable state. A GETX of the owner itself of a line in O, its UPG converted while it
waited (R149), has no row: the sharers are invalidated and the slice sends the data. DESIGN CHOICE, see the log. -/
def dirServe (s0 : State) (d line core : Nat) (k : ReqKind) : State :=
  let e := dirOf s0 d line
  let s := dirFill s0 d line core k
  match k, e.st with
  | .gets, .i => giveOwned s d line core e .e
  | .gets, .s => chanSend (putDir s d line { e with sharers := e.sharers ||| clusterBit core }) d line core (.data false)
  | .gets, _ => enterFw s d line core e false
  | .getx, .i | .upg, .i => giveOwned s d line core e .m
  | .upg, .s => enterSm s d line core e true false
  | .getx, .s => enterSm s d line core e false false
  | .getx, .o => enterSm s d line core e (core != e.owner) (core != e.owner)
  | .upg, .o => enterSm s d line core e true (core != e.owner)
  | .getx, _ | .upg, _ => enterFw s d line core e true
  | _, _ => dirPut s d line core e

/-- A request behind another becomes GETX if it was UPG (R148). -/
def queuedKind : ReqKind → ReqKind
  | .upg => .getx
  | k => k
/-- A request that must wait for the line's lease horizon (R167). -/
def leaseHeld (s : State) (d line : Nat) (k : ReqKind) : Bool :=
  (k == .getx || k == .upg) && decide (horizonOf s (linePa s d line) > s.now d)
/-- The line serves no request now. -/
def dirBusy (e : Dir) : Bool := e.st.transient || !e.queue.isEmpty

/-- A request that reaches the home: it is served, or it waits in the line's queue. -/
def dirArrive (s : State) (d line core : Nat) (k : ReqKind) : State :=
  let e := dirOf s d line
  if dirBusy e then putDir s d line { e with queue := e.queue ++ [(core, queuedKind k)] }
  else if leaseHeld s d line k then putDir s d line { e with queue := [(core, k)] }
  else dirServe s d line core k

/-- The request at the head of a stable line's queue is served. -/
def dirNext (s : State) (d line core : Nat) (k : ReqKind) : State :=
  let e := dirOf s d line
  match e.queue with
  | (c, j) :: t =>
    if c = core && j = k && !e.st.transient && !leaseHeld s d line k then dirServe (putDir s d line { e with queue := t }) d line core k
    else s
  | [] => s

/-- The event of a request of one kind: what waits at the head of the line's queue goes first, then what the channel delivers. -/
def dirEvent (s : State) (d line core : Nat) (k : ReqKind) : State :=
  let e := dirOf s d line
  if !e.st.transient && (e.queue.head? == some (core, k)) then dirNext s d line core k
  else if chanHead s d line core true = some (.req k) then dirArrive (chanTake s d line core true) d line core k
  else s

/-- DIRECTORY_REQUEST (R148). -/
def execDirectoryRequest (die line core : Nat) (kind : ReqKind) (s : State) : Answer :=
  .next <| match kind with
    | .gets | .getx | .upg => dirEvent s die line core kind
    | _ => s

/-- One of the acknowledgements that SM waits for. -/
def countAck (s : State) (d line : Nat) : State :=
  let e := dirOf s d line
  if e.st = .sm then
    (if e.acks ≤ 1 then finishSm s d line e else putDir s d line { e with acks := e.acks - 1 })
  else s

/-- INVACK (R148). -/
def execInvack (die line core : Nat) (s : State) : Answer :=
  .next <| if chanHead s die line core true = some .invack then countAck (chanTake s die line core true) die line else s

/-- OWNER_ACK (R148): the end of FW, or one acknowledgement of SM. -/
def execOwnerAck (die line core : Nat) (s : State) : Answer :=
  .next <| match chanHead s die line core true with
    | some (.ownerAck getx wasE) =>
      let s1 := chanTake s die line core true
      let e := dirOf s1 die line
      if e.st = .fw then
        if getx then putDir s1 die line { e with st := .m, owner := e.requester, sharers := clusterBit e.requester }
        else if wasE then putDir s1 die line { e with st := .s, sharers := e.sharers ||| clusterBit core ||| clusterBit e.requester }
        else putDir s1 die line { e with st := .o, sharers := e.sharers ||| clusterBit e.requester }
      else countAck s1 die line
    | _ => s

/-! ## The L1 -/

/-- The core unit of a core of a die. -/
def unitOf (d core : Nat) : Nat := 64 * d + core
def setL1 (s : State) (u line : Nat) (x : L1St) : State := s.modCore u fun c => { c with l1 := sset c.l1 line x }
def dropL1 (s : State) (u line : Nat) : State := s.modCore u fun c => { c with l1 := sdel c.l1 line }
def l1Of (s : State) (u line : Nat) : L1St := sgetD (s.core u).l1 line .i
/-- An outstanding UPG whose copy is gone waits for DATA: by R148 the home has made it a GETX (R149). -/
def upgLost (s : State) (u line : Nat) : State :=
  if sget (s.core u).l1Req line = some .upg then s.modCore u fun c => { c with l1Req := sset c.l1Req line .getx } else s

/-- The announcement of an eviction (R146). -/
def L1St.put : L1St → Option ReqKind
  | .m => some .putm
  | .o => some .puto
  | .e => some .pute
  | _ => none

/-- An L1 evicts a line: one that it holds in M, O or E goes to the write-back buffer (R150), one in S goes silently (R146). -/
def evictLine (s : State) (d line core : Nat) : State :=
  let u := unitOf d core
  match (l1Of s u line).put with
  | some k =>
    if (sget (s.core u).l1Req line).isSome || (sget (s.core u).wb line).isSome then s
    else chanSend ((dropL1 s u line).modCore u fun c => { c with wb := sset c.wb line k }) d line core (.req k)
  | none => if (sget (s.core u).l1Req line).isSome || l1Of s u line ≠ .s then s else dropL1 s u line

/-- The eviction that a core has announced for a line, if any. -/
def putOf (s : State) (d line core : Nat) : Option ReqKind := sget (s.core (unitOf d core)).wb line

/-- PUT_REQUEST (R148): an L1 that holds the line announces its eviction; then the announcement reaches the home. -/
def execPutRequest (die line core : Nat) (s : State) : Answer :=
  .next <| if core ≥ 32 then s
    else match putOf s die line core with
      | some k => dirEvent s die line core k
      | none => evictLine s die line core

/-- INV (R149): the copy goes, and INVACK answers whether or not there was one. -/
def execInvReceive (die line core : Nat) (s : State) : Answer :=
  .next <| if chanHead s die line core false = some .inv then
      let u := unitOf die core
      chanSend (upgLost (dropL1 (chanTake s die line core false) u line) u line) die line core .invack
    else s

/-- FWD_GETS (R150): the owner keeps the line in O or S and sends the data; from the write-back buffer a copy goes to the home too. -/
def execFwdGets (die line core : Nat) (s : State) : Answer :=
  .next <| match chanHead s die line core false with
    | some (.fwdGets req) =>
      let u := unitOf die core
      let s1 := chanTake s die line core false
      let r := match l1Of s u line with
        | .m | .o => (setL1 s1 u line .o, false)
        | .e => (setL1 s1 u line .s, true)
        | _ => (s1, true)
      chanSend (chanSend r.1 die line req (.data false)) die line core (.ownerAck false r.2)
    | _ => s

/-- FWD_GETX (R148, R150): the owner gives the line up and sends it to the requester. In SM the requester enters M only with the home's
message, when every copy is gone. -/
def execFwdGetx (die line core : Nat) (s : State) : Answer :=
  .next <| match chanHead s die line core false with
    | some (.fwdGetx req) =>
      let u := unitOf die core
      let s1 := upgLost (dropL1 (chanTake s die line core false) u line) u line
      chanSend (chanSend s1 die line req (if (dirOf s die line).st = .sm then .ownerData else .data true)) die line core
        (.ownerAck true false)
    | _ => s

/-- PUTACK (R150): the line leaves the write-back buffer. -/
def execPutack (die line core : Nat) (s : State) : Answer :=
  .next <| if chanHead s die line core false = some .putack then
      (chanTake s die line core false).modCore (unitOf die core) fun c => { c with wb := sdel c.wb line }
    else s

/-- The stores and atomics of a core that wait for a line of its die. -/
def waitingStores (s : State) (u line : Nat) : List Flight :=
  s.flights.filter fun f => f.u == u && !f.arrived && ownDie s u f.pa && lineIx f.pa == line && (match f.kind with
    | .store => true
    | .atomic _ _ sc => !sc
    | _ => false)
/-- Perform what can be performed of them, in their order; for the rest the L1 asks for the line. -/
def runWaiting (s : State) (u line : Nat) : State :=
  (waitingStores s u line).foldl (fun s f => if localReady s f then performLocal s f else storeRequest s u f.pa f.cls) s

/-- GRANT_OR_DATA (R149): the L1 enters M, E or S, and the stores that waited for the line are performed. The line that an owner sends
in SM is kept for the GRANT that follows. -/
def execGrantOrData (die line core : Nat) (s : State) : Answer :=
  let u := unitOf die core
  let gain := fun (x : L1St) =>
    let s1 := setL1 (chanTake s die line core false) u line x
    runWaiting (s1.modCore u fun c => { c with l1Req := sdel c.l1Req line }) u line
  .next <| match chanHead s die line core false with
    | some .grant => gain .m
    | some (.data true) => gain (if sget (s.core u).l1Req line = some .gets then .e else .m)
    | some (.data false) => gain .s
    | some .ownerData => chanTake s die line core false
    | _ => s

end Sys2Proof.Machine
end

