-- ==== Sys2Proof/Machine/Integer.lean ====
section
/-! DEFINITION. The integer entries: the moulds of R322, R367 and R386, the one-parcel entries of R338 and R388, CMP (R327),
and the moves and selections of R382, R383, R393 and R404. -/

namespace Sys2Proof.Machine

/-- The shared frame of the moulds: read the sources, then write one typed result (R322). -/
def mould (o : OpT) (s : State) (body : Ctx → Fibre → Except Stop DWord) : Answer :=
  .next <| runEff s o.g o.len o.du fun c ln => do
    let v ← body c ln.f
    destsReady c ln.f (clsOf o.du) o.d.toNat (if o.ty = 2 then 2 else 1)
    return { regs := destWrites (o.ty = 2) (clsOf o.du) o.d.toNat v }

/-- A mould entry of B alone, computed on exact integers. -/
def mouldB (o : OpT) (s : State) (r : Int → Int) : Answer :=
  mould o s fun c f => do
    let b ← srcBTyped c f (o.ty = 2) o
    return intResult o.ty o.sat (r (intVal o.ty b))

/-- A mould entry of A and B, computed on exact integers. -/
def mouldAB (o : OpT) (s : State) (r : Int → Int → Int) : Answer :=
  mould o s fun c f => do
    let a ← srcTyped c f (o.ty = 2) o.ua o.a
    let b ← srcBTyped c f (o.ty = 2) o
    return intResult o.ty o.sat (r (intVal o.ty a) (intVal o.ty b))

/-- A mould entry of A and B, computed on the w-bit patterns. -/
def mouldBits (o : OpT) (s : State) (r : DWord → DWord → DWord) : Answer :=
  mould o s fun c f => do
    let a ← srcTyped c f (o.ty = 2) o.ua o.a
    let b ← srcBTyped c f (o.ty = 2) o
    return r a b

/-- A mould entry of A, C and B: the entry computes on the three patterns. -/
def mouldABC (o : OpT) (s : State) (r : DWord → DWord → DWord → DWord) : Answer :=
  mould o s fun c f => do
    let a ← srcTyped c f (o.ty = 2) o.ua o.a
    let b ← srcBTyped c f (o.ty = 2) o
    let x ← srcTyped c f (o.ty = 2) o.uc (srcC o)
    return r a b x

/-- A shift entry: the count is one unsigned 32-bit register or literal, even for .i64 (R387). -/
def mouldShift (o : OpT) (s : State) (r : DWord → Nat → DWord) : Answer :=
  mould o s fun c f => do
    let a ← srcTyped c f (o.ty = 2) o.ua o.a
    let b ← srcB c f o
    return r a b.toNat

/-- ABS (R323). -/
def execAbs (o : OpT) (s : State) : Answer := mouldB o s fun b => if b < 0 then -b else b
/-- NEG (R386). -/
def execNeg (o : OpT) (s : State) : Answer := mouldB o s fun b => -b
/-- ADD (R324). -/
def execAdd (o : OpT) (s : State) : Answer := mouldAB o s fun a b => a + b
/-- SUB (R386). -/
def execSub (o : OpT) (s : State) : Answer := mouldAB o s fun a b => a - b
/-- MUL (R367). -/
def execMul (o : OpT) (s : State) : Answer := mouldAB o s fun a b => a * b
/-- MULHI: the upper w bits of the exact product (R367). -/
def execMulhi (o : OpT) (s : State) : Answer := mouldAB o s fun a b => (a * b) / (2 ^ intWidth o.ty : Int)
/-- MIN (R367). -/
def execMin (o : OpT) (s : State) : Answer := mouldAB o s fun a b => if a ≤ b then a else b
/-- MAX (R367). -/
def execMax (o : OpT) (s : State) : Answer := mouldAB o s fun a b => if a ≤ b then b else a
/-- AND (R325). -/
def execAnd (o : OpT) (s : State) : Answer := mouldBits o s fun a b => a &&& b
/-- OR (R386). -/
def execOr (o : OpT) (s : State) : Answer := mouldBits o s fun a b => a ||| b
/-- XOR (R386). -/
def execXor (o : OpT) (s : State) : Answer := mouldBits o s fun a b => a ^^^ b

/-- MAD: a × c + b (R367). -/
def execMad (o : OpT) (s : State) : Answer :=
  mouldABC o s fun a b x => intResult o.ty o.sat (intVal o.ty a * intVal o.ty x + intVal o.ty b)

/-- Byte i of a word, signed or unsigned. -/
def byteVal (signed : Bool) (x : DWord) (i : Nat) : Int :=
  if signed then (x.extractLsb' (8 * i) 8).toInt else (x.extractLsb' (8 * i) 8).toNat

/-- IDP4: the sum of four byte products, plus b (R367). -/
def execIdp4 (o : OpT) (s : State) : Answer :=
  mouldABC o s fun a b x =>
    let p := fun i => byteVal (intSigned o.ty) a i * byteVal (intSigned o.ty) x i
    intResult o.ty o.sat (p 0 + p 1 + p 2 + p 3 + intVal o.ty b)

/-- LEA: a + b × 2^k with b one signed register or literal (R367). -/
def execLea (o : OpT) (s : State) : Answer :=
  mould o s fun c f => do
    let a ← srcTyped c f (o.ty = 2) o.ua o.a
    let b ← srcB c f o
    return intResult o.ty false (intVal o.ty a + b.toInt * (2 ^ (o.c.toNat % 8) : Int))

/-- The bit field of BFX: position and length from ctl, sign-extended from its top bit unless .u32 (R326). -/
def bfxField (ty : BitVec 4) (a : Int) (ctl : Nat) : Int :=
  let pos := ctl % 256
  let len := ctl / 256 % 256
  let f : Int := (a / (2 ^ pos : Int)) % (2 ^ len : Int)
  if ty != 1 && len > 0 && f ≥ (2 ^ (len - 1) : Int) then f - (2 ^ len : Int) else f

/-- BFX (R326). -/
def execBfx (o : OpT) (s : State) : Answer :=
  mould o s fun c f => do
    let a ← srcTyped c f (o.ty = 2) o.ua o.a
    let b ← srcBTyped c f (o.ty = 2) o
    return intResult o.ty false (bfxField o.ty (intVal o.ty a) b.toNat)

/-- BFI on patterns: the field's bits come from a, the others from c; bits at w or above are dropped (R326). -/
def bfiBits (a x : DWord) (ctl : Nat) : DWord :=
  let pos := ctl % 256
  let len := ctl / 256 % 256
  let m : DWord := BitVec.ofNat 64 ((2 ^ len - 1) * 2 ^ pos)
  ((a <<< pos) &&& m) ||| (x &&& ~~~m)

/-- BFI (R326). -/
def execBfi (o : OpT) (s : State) : Answer := mouldABC o s fun a b x => bfiBits a x b.toNat

/-- SHL: a × 2^s (R387). -/
def execShl (o : OpT) (s : State) : Answer :=
  mouldShift o s fun a n => if n ≥ intWidth o.ty then 0 else a <<< n
/-- SHR: zeros fill from the top (R387). -/
def execShr (o : OpT) (s : State) : Answer :=
  mouldShift o s fun a n => if n ≥ intWidth o.ty then 0 else a >>> n
/-- SHRA: a div 2^s, a signed (R387). -/
def execShra (o : OpT) (s : State) : Answer :=
  mouldShift o s fun a n => intWrap o.ty (intVal o.ty a / (2 ^ Nat.min n 64 : Int))
/-- ROT: the w-bit pattern rotated left by s mod w (R387). -/
def execRot (o : OpT) (s : State) : Answer :=
  mouldShift o s fun a n =>
    if o.ty = 2 then a.rotateLeft (n % 64) else ((a.extractLsb' 0 32).rotateLeft (n % 32)).setWidth 64

/-- An entry of format U on one vector register: D := r(A) at fixed latency (R338, R382, R388). -/
def unary (o : OpU) (s : State) (r : Word → Word) : Answer :=
  .next <| runEff s o.g 1 false fun c ln => do
    let a ← srcField c ln.f false o.a
    destReady c ln.f 0 o.d.toNat
    return { regs := [(0, o.d.toNat, r a)] }

/-- Bit i of the result is bit 31 − i of `x` (R338). -/
def reverseBits (x : Word) : Word :=
  BitVec.ofNat 32 (((List.range 32).map fun i => if x.getLsbD (31 - i) then 2 ^ i else 0).foldl (· + ·) 0)
/-- Leading zero bits of `x`, 0 to 32 (R338). -/
def leadingZeros (x : Word) : Nat := if x = 0 then 32 else 31 - x.toNat.log2

/-- MOV (R382). -/
def execMov (o : OpU) (s : State) : Answer := unary o s id
/-- NOT (R388). -/
def execNot (o : OpU) (s : State) : Answer := unary o s fun a => ~~~a
/-- POPC (R388). -/
def execPopc (o : OpU) (s : State) : Answer := unary o s fun a => BitVec.ofNat 32 (popCount a)
/-- CLZ (R338). -/
def execClz (o : OpU) (s : State) : Answer := unary o s fun a => BitVec.ofNat 32 (leadingZeros a)
/-- BREV (R338). -/
def execBrev (o : OpU) (s : State) : Answer := unary o s reverseBits

/-- MOVI: the literal, sign-extended to the pair for .i64, its low half for .bf16 and .f16 (R383). -/
def execMovi (o : OpT) (s : State) : Answer :=
  mould o s fun _ _ =>
    let l := o.lit.getD 0
    .ok (if o.ty = 2 then l.signExtend 64 else if o.ty = 4 || o.ty = 5 then BitVec.ofNat 64 (l.toNat % 65536)
         else l.setWidth 64)

/-- SEL: a when the predicate of CF holds, b otherwise; both sources are read (R404). -/
def execSel (o : OpT) (s : State) : Answer :=
  mould o s fun c f => do
    let p ← srcPred f (o.c.toNat % 8)
    let a ← srcTyped c f (o.ty = 2) o.ua o.a
    let b ← srcBTyped c f (o.ty = 2) o
    return if p != o.c.getLsbD 3 then a else b

/-- PLOP: bit 4d + 2b + a of the truth table (R393). -/
def execPlop (o : OpP) (s : State) : Answer :=
  .next <| runEff s o.g 1 false fun _ ln => do
    let a ← srcPred ln.f o.pa.toNat
    let b ← srcPred ln.f o.pb.toNat
    let d ← srcPred ln.f o.pd.toNat
    let k := (if d then 4 else 0) + (if b then 2 else 0) + (if a then 1 else 0)
    return { preds := [(o.pd.toNat, o.lut.getLsbD k)] }

/-- An integer comparison into a predicate (R327). -/
def compareInt (o : OpT) (s : State) (r : Int → Int → Bool) : Answer :=
  .next <| runEff s o.g o.len false fun c ln => do
    let a ← srcTyped c ln.f (o.ty = 2) o.ua o.a
    let b ← srcBTyped c ln.f (o.ty = 2) o
    predReady ln.f (o.d.toNat % 8)
    return { preds := [(o.d.toNat % 8, r (intVal o.ty a) (intVal o.ty b))] }

/-- CMP.eq (R327). -/
def execCmpEq (o : OpT) (s : State) : Answer := compareInt o s fun a b => decide (a = b)
/-- CMP.ne (R327). -/
def execCmpNe (o : OpT) (s : State) : Answer := compareInt o s fun a b => decide (a ≠ b)
/-- CMP.lt (R327). -/
def execCmpLt (o : OpT) (s : State) : Answer := compareInt o s fun a b => decide (a < b)
/-- CMP.le (R327). -/
def execCmpLe (o : OpT) (s : State) : Answer := compareInt o s fun a b => decide (a ≤ b)
/-- CMP.gt (R327). -/
def execCmpGt (o : OpT) (s : State) : Answer := compareInt o s fun a b => decide (a > b)
/-- CMP.ge (R327). -/
def execCmpGe (o : OpT) (s : State) : Answer := compareInt o s fun a b => decide (a ≥ b)

/-- NOP: no effect in any lane; its guard is ignored (R389). -/
def execNop (_o : OpN) (s : State) : Answer :=
  .next <| match s.ctx with
    | none => s
    | some c => s.advance c 1 (c.lanes.map (·.id))

end Sys2Proof.Machine
end

