-- ==== Sys2Proof/Machine/Float.lean ====
section
/-! DEFINITION. The floating-point entries: the mould of R354 to R358, FCMP, FCVT, FRND, PACK and UNPACK, and the
special-function entries of R344, R352, R375 and R394, whose results the manual bounds. -/

namespace Sys2Proof.Machine

/-- The format of a .f32, .bf16 or .f16 TYPE (R354). -/
def vecFmt (ty : BitVec 4) : Fmt := if ty = 4 then fmtBF16 else if ty = 5 then fmtF16 else fmtF32

/-- The code of an operand in its register: bits 15:0 for the 16-bit formats (R355). -/
def operandCode (ty : BitVec 4) (x : Word) : Nat := if ty = 4 || ty = 5 then x.toNat % 65536 else x.toNat

/-- The shared frame of the floating-point entries: codes in, one code and flags out (R354, R356). -/
def floatMould (o : OpT) (s : State) (body : Ctx → Fibre → Except Stop (Nat × BitVec 5)) : Answer :=
  .next <| runEff s o.g o.len o.du fun c ln => do
    let r ← body c ln.f
    destReady c ln.f (clsOf o.du) o.d.toNat
    return { regs := [(clsOf o.du, o.d.toNat, BitVec.ofNat 32 r.1)], flags := r.2 }

/-- `In(v)`: the value of an operand, flushed under FTZ (R356). -/
def inVal (ty : BitVec 4) (f : Fibre) (x : Word) : Val :=
  value (vecFmt ty) (flushIn (vecFmt ty) f.ftz (operandCode ty x))

/-- An arithmetic entry of A and B. -/
def floatAB (o : OpT) (s : State) (r : Val → Val → Nat × BitVec 5) : Answer :=
  floatMould o s fun c f => do
    let a ← srcA c f o
    let b ← srcB c f o
    return flushOut (vecFmt o.ty) f.ftz (r (inVal o.ty f a) (inVal o.ty f b))

/-- FADD (R356). -/
def execFadd (o : OpT) (s : State) : Answer :=
  floatAB o s fun x y => addRound (vecFmt o.ty) x y (rndOf o.rnd.toNat) o.sat
/-- FSUB (R356). -/
def execFsub (o : OpT) (s : State) : Answer :=
  floatAB o s fun x y => addRound (vecFmt o.ty) x y.negate (rndOf o.rnd.toNat) o.sat
/-- FMUL (R356). -/
def execFmul (o : OpT) (s : State) : Answer :=
  floatAB o s fun x y => mulRound (vecFmt o.ty) x y (rndOf o.rnd.toNat) o.sat
/-- FFMA: a × c + b, rounded once (R356). -/
def execFfma (o : OpT) (s : State) : Answer :=
  floatMould o s fun c f => do
    let a ← srcA c f o
    let b ← srcB c f o
    let z ← srcField c f o.uc (srcC o)
    return flushOut (vecFmt o.ty) f.ftz
      (fmaRound (vecFmt o.ty) (inVal o.ty f a) (inVal o.ty f z) (inVal o.ty f b) (rndOf o.rnd.toNat) o.sat)

/-- FMIN and FMAX (R358): an operand unchanged; a signalling NaN sets invalid. -/
def floatMinMax (o : OpT) (s : State) (isMin : Bool) : Answer :=
  floatMould o s fun c f => do
    let a ← srcA c f o
    let b ← srcB c f o
    let x := flushIn (vecFmt o.ty) f.ftz (operandCode o.ty a)
    let y := flushIn (vecFmt o.ty) f.ftz (operandCode o.ty b)
    return (minMax (vecFmt o.ty) isMin x y,
      if (value (vecFmt o.ty) x).isSnan || (value (vecFmt o.ty) y).isSnan then flagInv else 0)
/-- FMIN (R358). -/
def execFmin (o : OpT) (s : State) : Answer := floatMinMax o s true
/-- FMAX (R358). -/
def execFmax (o : OpT) (s : State) : Answer := floatMinMax o s false

/-! ## FCMP (R359) -/

/-- A floating-point comparison: `r` decides ordered operands, `un` is the answer when either is a NaN, and `quietInv` says that
any NaN sets invalid. -/
def compareFloat (o : OpT) (s : State) (r : Val → Val → Bool) (un quietInv : Bool) : Answer :=
  .next <| runEff s o.g o.len false fun c ln => do
    let a ← srcA c ln.f o
    let b ← srcB c ln.f o
    predReady ln.f (o.d.toNat % 8)
    let x := inVal o.ty ln.f a
    let y := inVal o.ty ln.f b
    let nan := x.isNan || y.isNan
    return { preds := [(o.d.toNat % 8, if nan then un else r x y)],
             flags := if x.isSnan || y.isSnan || (nan && quietInv) then flagInv else 0 }

/-- FCMP.eq (R359). -/
def execFcmpEq (o : OpT) (s : State) : Answer := compareFloat o s (fun x y => !x.lt y && !y.lt x) false false
/-- FCMP.ne (R359). -/
def execFcmpNe (o : OpT) (s : State) : Answer := compareFloat o s (fun x y => x.lt y || y.lt x) true false
/-- FCMP.lt (R359). -/
def execFcmpLt (o : OpT) (s : State) : Answer := compareFloat o s (fun x y => x.lt y) false true
/-- FCMP.le (R359). -/
def execFcmpLe (o : OpT) (s : State) : Answer := compareFloat o s (fun x y => !y.lt x) false true
/-- FCMP.gt (R359). -/
def execFcmpGt (o : OpT) (s : State) : Answer := compareFloat o s (fun x y => y.lt x) false true
/-- FCMP.ge (R359). -/
def execFcmpGe (o : OpT) (s : State) : Answer := compareFloat o s (fun x y => !x.lt y) false true
/-- FCMP.un (R359). -/
def execFcmpUn (o : OpT) (s : State) : Answer := compareFloat o s (fun _ _ => false) true false
/-- FCMP.ord (R359). -/
def execFcmpOrd (o : OpT) (s : State) : Answer := compareFloat o s (fun _ _ => true) false false

/-! ## Conversions (R360, R361, R365) -/

/-- A value rounded to an integer under a mode, and whether it was exact. -/
def toIntegral (mode : Rnd) (neg : Bool) (m : Nat) (e : Int) : Int × Bool :=
  let (n, cut) := roundUnits mode neg m e 0
  (if neg then -(n : Int) else n, cut)

/-- A floating-point value converted to an integer type (R89, R361). -/
def floatToInt (ty : BitVec 4) (mode : Rnd) (sat : Bool) (v : Val) : DWord × BitVec 5 :=
  match v with
  | .nan _ => (0, flagInv)
  | .inf n => (intWrap ty (if n then intLo ty else intHi ty), if sat then 0 else flagInv)
  | .fin n m e =>
    let (x, cut) := toIntegral mode n m e
    let y := intClamp ty x
    if y = x then (intWrap ty x, if cut then flagInx else 0) else (intWrap ty y, if sat then flagInx else flagInv)

/-- An integer as a value. -/
def intAsVal (x : Int) : Val := .fin (decide (x < 0)) x.natAbs 0

/-- A floating-point value converted to a floating-point format (R361). -/
def floatToFloat (f : Fmt) (mode : Rnd) (sat : Bool) (v : Val) : Nat × BitVec 5 :=
  match v with
  | .nan s => (canonNan f, if s then flagInv else 0)
  | .inf n => (infCode f n, 0)
  | .fin n m e => roundFin f n m e mode sat

/-- A TYPE code of a floating-point vector format. -/
def isFloatTy (ty : BitVec 4) : Bool := ty == 3 || ty == 4 || ty == 5

/-- The source type of FCVT, in CF bits 3:0 (R360). -/
def fcvtSrc (o : OpT) : BitVec 4 := o.c.extractLsb' 0 4

/-- FCVT's result and flags for a source pattern (R361). -/
def convert (o : OpT) (ftz : Bool) (x : DWord) : DWord × BitVec 5 :=
  let st := fcvtSrc o
  let mode := rndOf o.rnd.toNat
  if isFloatTy st then
    let code := operandCode st (x.extractLsb' 0 32)
    if isFloatTy o.ty then
      let r := flushOut (vecFmt o.ty) ftz (floatToFloat (vecFmt o.ty) mode o.sat
        (value (vecFmt st) (flushIn (vecFmt st) ftz code)))
      (BitVec.ofNat 64 r.1, r.2)
    else floatToInt o.ty mode o.sat (value (vecFmt st) code)
  else
    let n := intVal st x
    if isFloatTy o.ty then
      let r := roundVal (vecFmt o.ty) (intAsVal n) mode o.sat
      (BitVec.ofNat 64 r.1, r.2)
    else (intResult o.ty o.sat n, 0)

/-- FCVT (R360, R361). -/
def execFcvt (o : OpT) (s : State) : Answer :=
  .next <| runEff s o.g o.len o.du fun c ln => do
    let wide := decide (fcvtSrc o = 2)
    let x ← srcBTyped c ln.f wide o
    destsReady c ln.f (clsOf o.du) o.d.toNat (if o.ty = 2 then 2 else 1)
    let r := convert o ln.f.ftz x
    return { regs := destWrites (o.ty = 2) (clsOf o.du) o.d.toNat r.1, flags := r.2 }

/-- The integral value of an operand in its own format (R365). -/
def roundIntegral (f : Fmt) (mode : Rnd) (code : Nat) : Nat × BitVec 5 :=
  match value f code with
  | .nan s => (canonNan f, if s then flagInv else 0)
  | .inf n => (infCode f n, 0)
  | .fin n m e =>
    let (k, cut) := roundUnits mode n m e 0
    (if k = 0 then signBit f n else (roundFin f n k 0 .rne false).1, if cut then flagInx else 0)

/-- FRND (R365). -/
def execFrnd (o : OpT) (s : State) : Answer :=
  floatMould o s fun c f => do
    let b ← srcB c f o
    return roundIntegral (vecFmt o.ty) (rndOf o.rnd.toNat) (flushIn (vecFmt o.ty) f.ftz (operandCode o.ty b))

/-! ## PACK and UNPACK (R390 to R392) -/

/-- The bits of one element of a packed register (R390). -/
def packedBits (ty : BitVec 4) : Nat := if ty = 4 || ty = 5 then 16 else if ty = 8 || ty = 9 then 6 else if ty = 10 then 4 else 8
/-- HI of an .e2m1 form: the upper half of the register (R390). -/
def packShift (o : OpT) : Nat := if o.c.getLsbD 0 then 16 else 0
/-- FTZ applies to the .bf16 and .f16 forms alone (R90, R391). -/
def packFtz (o : OpT) (f : Fibre) : Bool := f.ftz && (o.ty == 4 || o.ty == 5)

/-- One element of PACK (R391). -/
def packElem (o : OpT) (ftz : Bool) (x : Word) : Nat × BitVec 5 :=
  let f := (typeFmt o.ty.toNat).getD fmtF32
  let v := value fmtF32 (flushIn fmtF32 ftz x.toNat)
  let snan := if v.isSnan then flagInv else 0
  let r := match v, f.inf with
    | .inf n, some _ => (infCode f n, 0)
    | _, _ => roundVal f v (rndOf o.rnd.toNat) o.sat
  let r' := flushOut f ftz r
  (r'.1, r'.2 ||| snan)

/-- PACK (R391). -/
def execPack (o : OpT) (s : State) : Answer :=
  .next <| runEff s o.g o.len o.du fun c ln => do
    let xs ← srcRegs c ln.f (clsOf o.ua) o.a.r.toNat o.a.w (packN o.ty)
    let old ← if o.ty = 10 then srcReg c ln.f (clsOf o.du) o.d.toNat true else .ok 0
    destReady c ln.f (clsOf o.du) o.d.toNat
    let es := xs.map (packElem o (packFtz o ln.f))
    let packed := ofLe (packCodes (packedBits o.ty) (es.map (·.1)) 4) * 2 ^ packShift o
    let keep := if o.ty = 10 then (if packShift o = 16 then old.toNat % 65536 else old.toNat / 65536 * 65536) else 0
    return { regs := [(clsOf o.du, o.d.toNat, BitVec.ofNat 32 (packed + keep))],
             flags := es.foldl (fun f e => f ||| e.2) 0 }

/-- One element of UNPACK widened to FP32 (R392). -/
def unpackElem (o : OpT) (ftz : Bool) (code : Nat) : Word × BitVec 5 :=
  let f := (typeFmt o.ty.toNat).getD fmtF32
  w32 (floatToFloat fmtF32 .rne false (value f (flushIn f ftz code))) |> fun w =>
    (w, if (value f code).isSnan then flagInv else 0)

/-- UNPACK (R392). -/
def execUnpack (o : OpT) (s : State) : Answer :=
  .next <| runEff s o.g o.len o.du fun c ln => do
    let b ← srcB c ln.f o
    destsReady c ln.f (clsOf o.du) o.d.toNat (packN o.ty)
    let es := (unpackCodes (packedBits o.ty) (packN o.ty) (leBytes 4 (b.toNat / 2 ^ packShift o))).map
      (unpackElem o (packFtz o ln.f))
    return { regs := regWrites (clsOf o.du) o.d.toNat (es.map (·.1)), flags := es.foldl (fun f e => f ||| e.2) 0 }

/-! ## Special functions -/

/-- m₁ × 2^e₁ ≤ m₂ × 2^e₂. -/
def dyLe (m1 : Nat) (e1 : Int) (m2 : Nat) (e2 : Int) : Bool :=
  let q := min e1 e2
  m1 * 2 ^ (e1 - q).toNat ≤ m2 * 2 ^ (e2 - q).toNat

/-- A finite value within m × 2^e of an approximation ± am × 2^ae. -/
def within (v : Val) (an : Bool) (am : Nat) (ae : Int) (m : Nat) (e : Int) : Bool :=
  match v with
  | .fin n k d =>
    let r := addFin n k d (!an) am ae
    dyLe r.2.1 r.2.2 m e
  | _ => false

/-- The exponent of one ulp of FP32 at ± m × 2^e (R72). -/
def ulpExp (m : Nat) (e : Int) : Int := max (e + m.log2) (-126) - 23

/-- A special-function result near ± m × 2^e: the unit's own value where it lies within `k` ulp, else the correctly rounded one. The
approximation is good to 2^-60 ulp, and the bound is drawn in by as much, so that no value beyond `k` ulp passes. -/
def sfuNear (op : Nat) (x : Word) (k : Nat) (neg : Bool) (m : Nat) (e : Int) : Word :=
  let tol := if m = 0 then (-149 : Int) else ulpExp m e
  let ok := fun w : Word => within (value fmtF32 w.toNat) neg m e (k * 2 ^ 60 - 1) (tol - 60)
  if ok (Config.sfu op x) then Config.sfu op x
  else
    let c := (roundFin fmtF32 neg m e .rne false).1
    BitVec.ofNat 32 (if c % 2 ^ 31 > fmtF32.maxCode then signBit fmtF32 neg + fmtF32.maxCode else c)

/-- An FP32 code is subnormal or zero. -/
def tiny32 (w : Word) : Bool := w.toNat % 2 ^ 31 < 2 ^ 23
/-- The flags of an inexact special-function result (R87, R394). -/
def inexactFlags (w : Word) : BitVec 5 := if tiny32 w then flagInx ||| flagUfl else flagInx

def nan32 : Word := 0x7FC00000
def inf32 (neg : Bool) : Word := BitVec.ofNat 32 (infCode fmtF32 neg)
def zero32 (neg : Bool) : Word := BitVec.ofNat 32 (signBit fmtF32 neg)
/-- A NaN input's result: invalid when it is signalling. -/
def nanOut (s : Bool) : Word × BitVec 5 := (nan32, if s then flagInv else 0)

/-- Bits of fixed-point fraction in the approximations. -/
def fixP : Nat := 160

/-- The odd part of m and the exponent that goes with it. -/
def oddPart : Nat → Nat → Int → Nat × Int
  | 0, m, e => (m, e)
  | n + 1, m, e => if m % 2 = 0 && m != 0 then oddPart n (m / 2) (e + 1) else (m, e)
def normOdd (m : Nat) (e : Int) : Nat × Int := oddPart (m.log2 + 1) m e

/-- RCP (R394). -/
def rcpOf (x : Word) : Word × BitVec 5 :=
  match value fmtF32 x.toNat with
  | .nan s => nanOut s
  | .inf n => (zero32 n, 0)
  | .fin n m e =>
    if m = 0 then (inf32 n, flagDvz)
    else
      let (k, d) := normOdd m e
      if k = 1 then
        let r := roundFin fmtF32 n 1 (-d) .rne false
        (BitVec.ofNat 32 r.1, r.2)
      else if dyLe (m * (2 ^ 24 - 1)) (e + 104) 1 0 && !(dyLe 1 0 (m * (2 ^ 24 - 1)) (e + 104)) then
        (inf32 n, flagOfl ||| flagInx)
      else
        let w := sfuNear 0 x 1 n (2 ^ fixP / m) (-e - fixP)
        (w, inexactFlags w)

/-- The exponent made even, for square roots. -/
def evenExp (m : Nat) (e : Int) : Nat × Int := if e % 2 = 0 then (m, e) else (2 * m, e - 1)

/-- RSQ (R394). -/
def rsqOf (x : Word) : Word × BitVec 5 :=
  match value fmtF32 x.toNat with
  | .nan s => nanOut s
  | .inf n => if n then (nan32, flagInv) else (zero32 false, 0)
  | .fin n m e =>
    if m = 0 then (inf32 n, flagDvz)
    else if n then (nan32, flagInv)
    else
      let (k, d) := normOdd m e
      if k = 1 && d % 2 = 0 then
        let r := roundFin fmtF32 false 1 (-(d / 2)) .rne false
        (BitVec.ofNat 32 r.1, 0)
      else
        let (m', e') := evenExp m e
        let w := sfuNear 1 x 1 false (Nat.sqrt (2 ^ (2 * fixP) / m')) (-(e' / 2) - fixP)
        (w, inexactFlags w)

/-- SQRT (R394). -/
def sqrtOf (x : Word) : Word × BitVec 5 :=
  match value fmtF32 x.toNat with
  | .nan s => nanOut s
  | .inf n => if n then (nan32, flagInv) else (inf32 false, 0)
  | .fin n m e =>
    if m = 0 then (zero32 n, 0)
    else if n then (nan32, flagInv)
    else
      let (k, d) := normOdd m e
      let (k', d') := evenExp k d
      if Nat.sqrt k' * Nat.sqrt k' = k' then
        (BitVec.ofNat 32 (roundFin fmtF32 false (Nat.sqrt k') (d' / 2) .rne false).1, 0)
      else
        let (m', e') := evenExp m e
        let w := sfuNear 2 x 1 false (Nat.sqrt (m' * 2 ^ (2 * fixP))) (e' / 2 - fixP)
        (w, inexactFlags w)

/-- ln 2 × 2^160. -/
def ln2Fix : Nat := 0xb17217f7d1cf79abc9e3b39803f2f6af40f34326

/-- Σ y^k / k! from a running term, in units of 2^-160. -/
def expSeries : Nat → Nat → Nat → Nat → Nat
  | 0, _, _, _ => 0
  | n + 1, k, term, y => term + expSeries n (k + 1) (term * y / 2 ^ fixP / k) y

/-- 2^f × 2^160 for f = a / 2^160 in [0, 1). -/
def exp2Fix (a : Nat) : Nat := expSeries 48 1 (2 ^ fixP) (a * ln2Fix / 2 ^ fixP)

/-- EX2 (R352). -/
def ex2Of (x : Word) : Word × BitVec 5 :=
  match value fmtF32 x.toNat with
  | .nan s => nanOut s
  | .inf n => if n then (zero32 false, 0) else (inf32 false, 0)
  | .fin n m e =>
    if !n && dyLe (2 ^ 7) 0 m e then (inf32 false, flagOfl ||| flagInx)
    else if n && dyLe 300 0 m e then
      let w := sfuNear 3 x 2 false 0 (-149)
      (w, inexactFlags w)
    else
      -- x in units of 2^-160, rounded down
      let u : Int := if 0 ≤ e + fixP then dyUnits n m (e + fixP) 0 else -(if n then 1 else 0)
      let i := u / (2 ^ fixP : Nat)
      let f := (u % (2 ^ fixP : Nat)).toNat
      if f = 0 && 0 ≤ e + fixP && -149 ≤ i then
        let r := roundFin fmtF32 false 1 i .rne false
        (BitVec.ofNat 32 r.1, 0)
      else
        let w := sfuNear 3 x 2 false (exp2Fix f) (i - fixP)
        (w, inexactFlags w)

/-- EX2 under FTZ: a subnormal result is written as zero of its sign (R90, R352). -/
def ex2Ftz (ftz : Bool) (x : Word) : Word × BitVec 5 :=
  let v := ex2Of x
  let w := flushOut fmtF32 ftz (v.1.toNat, v.2)
  (BitVec.ofNat 32 w.1, w.2)

/-- Fraction bits of log₂ of t / 2^160 in [1, 2), by repeated squaring, newest bit last. -/
def log2Bits : Nat → Nat → Nat → Nat
  | 0, _, acc => acc
  | n + 1, t, acc =>
    let q := t * t / 2 ^ fixP
    if q ≥ 2 * 2 ^ fixP then log2Bits n (q / 2) (2 * acc + 1) else log2Bits n q (2 * acc)

/-- LG2 (R375). -/
def lg2Of (x : Word) : Word × BitVec 5 :=
  match value fmtF32 x.toNat with
  | .nan s => nanOut s
  | .inf n => if n then (nan32, flagInv) else (inf32 false, 0)
  | .fin n m e =>
    if m = 0 then (inf32 true, flagDvz)
    else if n then (nan32, flagInv)
    else
      let (k, d) := normOdd m e
      if k = 1 then
        let r := roundVal fmtF32 (intAsVal d) .rne false
        (BitVec.ofNat 32 r.1, 0)
      else
        let l := m.log2
        let frac := log2Bits 140 (m * 2 ^ fixP / 2 ^ l) 0
        let v : Int := (e + l) * (2 ^ 140 : Nat) + frac
        (sfuNear 4 x 2 (decide (v < 0)) v.natAbs (-140), flagInx)

/-- 2π in units of 2^-93: 96 significant bits (R344). -/
def twoPiFix : Nat := 0xc90fdaa22168c234c4c6628d

/-- Σ (−1)^k y^(2k) / … from a running term: one term every two factors, in units of 2^-160. -/
def trigSeries : Nat → Nat → Int → Int → Int
  | 0, _, _, _ => 0
  | n + 1, k, term, y =>
    term + trigSeries n (k + 2) (-(term * y / (2 ^ fixP : Nat) * y / (2 ^ fixP : Nat)) / ((k + 1) * (k + 2) : Nat)) y

/-- x − 2πk in units of 2^-160, with k the integer nearest x ÷ 2π (R344). -/
def trigReduce (n : Bool) (m : Nat) (e : Int) : Int :=
  let u : Int := if 0 ≤ e + fixP then dyUnits n m (e + fixP) 0 else 0
  let p : Int := (twoPiFix * 2 ^ (fixP - 93) : Nat)
  u - (2 * u + p) / (2 * p) * p

/-- SIN and COS (R344, R394): `isSin` selects sine. The unit's own value is taken where it lies within the bound, drawn in by the
2^-81 that the series is good to. -/
def trigOf (isSin : Bool) (op : Nat) (x : Word) : Word × BitVec 5 :=
  match value fmtF32 x.toNat with
  | .nan s => nanOut s
  | .inf _ => (nan32, flagInv)
  | .fin n m e =>
    if m = 0 then (if isSin then zero32 n else 0x3F800000, 0)
    else if dyLe m e (2 ^ 20) 0 then
      let r := trigReduce n m e
      let v := if isSin then trigSeries 40 1 r r else trigSeries 40 0 (2 ^ fixP : Nat) r
      let ok := fun w : Word => within (value fmtF32 w.toNat) (decide (v < 0)) v.natAbs (-(fixP : Int)) (2 ^ 60 - 1) (-81)
      let w := if ok (Config.sfu op x) then Config.sfu op x
        else BitVec.ofNat 32 (roundFin fmtF32 (decide (v < 0)) v.natAbs (-(fixP : Int)) .rne false).1
      (w, if isSin then inexactFlags w else flagInx)
    else
      let ok := fun w : Word => match value fmtF32 w.toNat with
        | .fin _ k d => dyLe k d 1 0
        | _ => false
      let w := if ok (Config.sfu op x) then Config.sfu op x else 0
      (w, if isSin then inexactFlags w else flagInx)

/-- A special-function entry: the destination is empty until the unit writes the result and its flags (R55, R91).
`r` takes FSTAT.FTZ, which also flushes EX2's result (R352). -/
def sfuMould (o : OpT) (s : State) (r : Bool → Word → Word × BitVec 5) : Answer :=
  .next <| runEff s o.g o.len o.du fun c ln => do
    let b ← srcB c ln.f o
    destReady c ln.f (clsOf o.du) o.d.toNat
    let v := r ln.f.ftz (BitVec.ofNat 32 (flushIn fmtF32 ln.f.ftz b.toNat))
    return { late := [(clsOf o.du, o.d.toNat, v.1)], lateFlags := v.2, holdsFlags := true }

/-- RCP (R394). -/
def execRcp (o : OpT) (s : State) : Answer := sfuMould o s (fun _ => rcpOf)
/-- RSQ (R394). -/
def execRsq (o : OpT) (s : State) : Answer := sfuMould o s (fun _ => rsqOf)
/-- SQRT (R394). -/
def execSqrt (o : OpT) (s : State) : Answer := sfuMould o s (fun _ => sqrtOf)
/-- EX2 (R352). -/
def execEx2 (o : OpT) (s : State) : Answer := sfuMould o s ex2Ftz
/-- LG2 (R375). -/
def execLg2 (o : OpT) (s : State) : Answer := sfuMould o s (fun _ => lg2Of)
/-- SIN (R394). -/
def execSin (o : OpT) (s : State) : Answer := sfuMould o s (fun _ => trigOf true 5)
/-- COS (R344). -/
def execCos (o : OpT) (s : State) : Answer := sfuMould o s (fun _ => trigOf false 6)

end Sys2Proof.Machine
end

