-- ==== Sys2Proof/Machine/MemEvents.lean ====
section
/-! DEFINITION. The events by which requests in flight are performed: long-latency returns (R55 to R57), leases (R166), stores and
atomics at their homes (R167, R175, R181), DSM banks (R153, R154), and the host's accesses (R307). -/

namespace Sys2Proof.Machine

/-! ## Long-latency returns -/

/-- A return writes its registers, or poisons them (R55, R57). Its write is not the access that wakes a drowsy granule (R59): DESIGN
CHOICE, see the log. -/
def completeReturn (s : State) (u : Nat) (r : Return) : State :=
  let s1 := s.modCore u fun c => { c with returns := c.returns.filter fun x => x.id != r.id }
  match r.st with
  | .failed cause => r.dests.foldl (fun s d => s.poisonReg u r.slot r.fibre d.1 d.2.1 cause) s1
  | _ => (s1.writeRegs u r.slot r.fibre r.dests).modFibre u r.slot r.fibre fun f => { f with flags := f.flags ||| r.flags }
/-- Complete the return numbered `id`, as it now stands. -/
def completeId (s : State) (u id : Nat) : State :=
  match (s.core u).returns.find? fun r => r.id == id with
  | some r => completeReturn s u r
  | none => s

/-- The lines of a request's parts. -/
def Flight.lines (f : Flight) : List Nat := f.parts.flatMap fun p => spanLines p.addr p.size
/-- An uncorrectable error puts poison on lines of the stacks (R155). -/
def poisonLines (s : State) (lines : List Nat) : State :=
  lines.foldl (fun s l => s.modDie (paDie (128 * l)) fun d =>
    { d with poison := sset d.poison (lineIx (128 * l)) (BitVec.ofNat 128 (2 ^ 128 - 1)) }) s
/-- What the read of a part does at its home: each line of a stack that it touches comes into its slice and is read. -/
def notePart (cls : Nat) (s : State) (p : Part) : State :=
  if plainPa p.addr then (spanLines p.addr p.size).foldl (fun s l => readLine s (128 * l) cls) s
  else noteRead s p.addr
/-- A load reads the present bytes of its lines at their home (R55, R144, R156), and is done. -/
def readFlight (s : State) (f : Flight) : State :=
  let s1 := dropFlight s f.id
  if f.lines.any fun l => isPoisoned s (128 * l) then failFlight s1 Cause.machineCheck f
  else f.parts.foldl (fun s p => fillLoad (notePart f.cls s p) f.u p (paBytes s p.addr p.size)) s1

/-- The bank of a DSM offset: its quarter's first bank plus offset bits 12:6. -/
def bankOf (off : Nat) : Nat := off / 2 ^ 26 * 128 + off / 64 % 128
/-- The DSM offset behind a physical address of the window. -/
def dsmOff (pa : Nat) : Nat := paOff pa - 0x4000000000
/-- An earlier request of the same core has not reached the bank (R153): an operation of the .ds space, or an access through the window
onto DSM (R138). -/
def earlierAtBank (s : State) (f : Flight) : Bool :=
  inDsmWindow f.pa && s.flights.any fun x => decide (x.id < f.id) && x.u == f.u && inDsmWindow x.pa && paDie x.pa == paDie f.pa &&
    x.parts.any fun p => f.parts.any fun q => bankOf (dsmOff p.addr) == bankOf (dsmOff q.addr)

/-- A load of the issuing die's own memory is performed in the L1, once it holds its lines (R159); a supervisor core and an access
that is not of stack memory read at the home. -/
def localLoad (s : State) (f : Flight) (ecc : Bool) : Option State :=
  if olderSame s f || earlierAtBank s f then none
  else if !plainPa f.pa then some (readFlight s f)
  else if isSupCore f.u || f.lines.all fun l => (l1Of s f.u (lineIx (128 * l))).readable then
    some (readFlight (if ecc then poisonLines s f.lines else s) f)
  else none

/-- LONG_LATENCY_RETURN (R55, R57): the `idx`-th return of the core. `ecc` is an uncorrectable error of the data that a load, an atomic
or a DSM operation returns. -/
def execLongLatencyReturn (u idx : Nat) (ecc : Bool) (s : State) : Answer :=
  .next <| match (s.core u).returns[idx]? with
    | none => s
    | some r =>
      if !(s.die (dieOf u)).alive then s
      else match r.st with
      | .ready => if r.acq && s.now (dieOf u) < r.after then s else completeReturn s u (if ecc && r.data then { r with st := .failed Cause.machineCheck } else r)
      | .failed _ => completeReturn s u r
      | .matrix ms =>
        if ((s.core u).queue ++ (s.core u).running).any fun m => ms.contains m.id then s
        else match s.group u r.slot with
          | none => completeReturn s u r
          | some g =>
            let w := accfmtWord g ((sget g.fibres r.fibre).getD { pc := 0 })
            completeReturn s u { r with dests := r.dests.map fun d => (d.1, d.2.1, w) }
      | .away n =>
        match s.flights.find? fun f => f.id == n with
        | none => s
        | some f =>
          match f.kind with
          | .load _ =>
            if !ownDie s f.u f.pa then s
            else match localLoad s f ecc with
              | some s1 => if r.acq || r.scaleFlight.isSome then s1 else completeId s1 u r.id
              | none => if olderSame s f then s else f.lines.foldl (fun s l => loadRequest s f.u (128 * l) f.cls) s
          | _ => s

/-! ## Leases (R166, R169) -/

/-- The earliest completion time of a store pending at the home of a line. -/
def earliestPending (s : State) (d ix : Nat) : Option Nat :=
  ((pendingAt s d ix).filter fun f => paDie f.pa == d).foldl (fun m f => match m with
    | some t => some (Nat.min t f.t)
    | none => some f.t) none
/-- A store of the home's own die is pending: its GETX or UPG waits at the directory for the line's lease horizon, which is then the
store's completion time (R167). -/
def ownPending (s : State) (pa : Nat) : Bool :=
  (dirOf s (paDie pa) (lineIx pa)).queue.any fun e => e.2 == .getx || e.2 == .upg
/-- The expiry of a lease granted now: no later than the completion time of a pending store (R166). -/
def leaseExpiryOf (s : State) (pa : Nat) : Nat :=
  let e := s.now (paDie pa) + leaseLen s (paDie pa)
  let own := if ownPending s pa then Nat.min e (Nat.max (s.now (paDie pa)) (horizonOf s pa)) else e
  match earliestPending s (paDie pa) (lineIx pa) with
  | some t => Nat.min own t
  | none => own
/-- The home grants a lease on a line to the L1 of a core. -/
def grantLease (s : State) (u line : Nat) : State :=
  let pa := 128 * line
  let e := leaseExpiryOf s pa
  (raiseHorizon s pa e).modCore u fun c => { c with lcopies := sset c.lcopies line { data := memRead s.mem pa 128, expiry := e } }

/-- LEASE_GRANT (R166): the `idx`-th request in flight, a load from another die, reaches its home. An acquire at .pkg or .rack takes
no lease, and its core's copy of the line goes (R169); an access that is not of stack memory takes none either. -/
def execLeaseGrant (die idx : Nat) (s : State) : Answer :=
  .next <| match s.flights[idx]? with
    | none => s
    | some f =>
      match f.kind with
      | .load acq =>
        if !(paPkg f.pa == s.pkg && paDie f.pa == die && dieOf f.u != die && (s.die die).alive) || olderSame s f ||
            earlierAtBank s f then s
        else if acq then f.lines.foldl (fun s l => dropCopy s f.u (128 * l)) (readFlight s f)
        else if !plainPa f.pa || f.lines.any (fun l => isPoisoned s (128 * l)) then readFlight s f
        else f.lines.foldl (fun s l => grantLease s f.u l) (readFlight s f)
      | _ => s

/-- LEASE_EXPIRY (R166). -/
def execLeaseExpiry (u line : Nat) (s : State) : Answer :=
  .next <| match sget (s.core u).lcopies line with
    | some c => if c.expiry ≤ s.now (dieOf u) then s.modCore u fun x => { x with lcopies := sdel x.lcopies line } else s
    | none => s

/-! ## Stores and atomics -/

/-- One part of an atomic on an address that is not stack memory. -/
def atomicPhys (op ty u : Nat) (s : State) (p : Part) : State :=
  let old := ofLe (paBytes s p.addr p.size)
  fillReturn (physWrite s p.addr (leBytes p.size (atomicNew op ty p.size old (ofLe p.data) p.cmp.toNat))) u p
    (if p.size = 8 then [BitVec.ofNat 32 old, BitVec.ofNat 32 (old / 2 ^ 32)] else [BitVec.ofNat 32 old])
/-- A store or atomic on addresses that are not stack memory is performed where it reaches them: it meets no lease. -/
def performPhys (s : State) (f : Flight) : State :=
  let s1 := dropFlight s f.id
  let s2 := match f.kind with
    | .atomic op ty _ => f.parts.foldl (atomicPhys op ty f.u) s1
    | _ => f.parts.foldl (fun s p => physWrite s p.addr p.data) s1
  settleOrigin s (if dieOf f.u = paDie f.pa then s2 else ackFlight s2 f (s.now (paDie f.pa))) (paDie f.pa) f (s.now (paDie f.pa))

/-- The request is one that a home takes by HOME_STORE_ARRIVAL: a store or atomic from another die, a replicated store, or an atomic
that carries its ticket (R175, R181). -/
def Flight.arrives (f : Flight) : Bool :=
  match f.kind with
  | .store => dieOf f.u != paDie f.pa
  | .atomic _ _ sc => if sc then f.ticket.isSome else dieOf f.u != paDie f.pa
  | .stm _ => true
  | _ => false
/-- A stamped atomic for the same die with an earlier ticket has not arrived (R175). -/
def earlierTicket (s : State) (f : Flight) : Bool :=
  match f.ticket with
  | none => false
  | some n => s.flights.any fun x => !x.arrived && paPkg x.pa == s.pkg && paDie x.pa == paDie f.pa && (match x.ticket with
    | some m => decide (m < n)
    | none => false)

/-- HOME_STORE_ARRIVAL (R167): the home of the line computes T, and applies the request at once when T is reached; otherwise it is
pending, behind what arrived before it. -/
def execHomeStoreArrival (die idx : Nat) (s : State) : Answer :=
  .next <| match s.flights[idx]? with
    | none => s
    | some f =>
      if f.arrived || !f.arrives || paPkg f.pa != s.pkg || paDie f.pa != die || !(s.die die).alive || olderSame s f ||
          earlierTicket s f || earlierAtBank s f then s
      else if !plainPa f.pa then performPhys s f
      else (reachHome s die f).1

/-- A pending request is the next that a die applies to its line, and its time has come there. At the primary home, and for a
request without replicas, that is T; at a replica, the end of the replica's leases (R181). -/
def applyTime (s : State) (d : Nat) (f : Flight) : Option Nat :=
  match pendingAt s d (lineIx f.pa) with
  | x :: _ =>
    if x.id ≠ f.id then none
    else if paDie f.pa = d then (if f.t ≤ s.now d then some f.t else none)
    else if sgetD (s.die d).horizon (lineIx f.pa) 0 ≤ s.now d then some (s.now d) else none
  | [] => none

/-- STORE_APPLY (R167): a pending request whose time has come at a die, or a store or atomic of the die's own core that its L1 can
perform. Where the L1 cannot, it asks for the line again. -/
def execStoreApply (die idx : Nat) (s : State) : Answer :=
  .next <| match s.flights[idx]? with
    | none => s
    | some f =>
      if !(s.die die).alive then s
      else if f.arrived then
        match applyTime s die f with
        | some t => settleOrigin s (performAt s die f t) die f t
        | none => s
      else if f.arrives || paPkg f.pa != s.pkg || dieOf f.u != die || paDie f.pa != die then s
      else match f.kind with
        | .store | .atomic _ _ false =>
          if olderSame s f || earlierAtBank s f then s
          else if !plainPa f.pa then performPhys s f
          else if localReady s f then performLocal s f
          else if isSupCore f.u then s else storeRequest s f.u f.pa f.cls
        | _ => s

/-- An ATOM.sc for another package leaves when it is stamped, where its slot has room for it (R175, R300, R331). -/
def sendStamped (s : State) (f : Flight) : State :=
  match f.packet with
  | some (n, p) => sendAtomic s f.u n p f.id
  | none => s
/-- SC_TICKET (R175): the sequencer on the master die stamps an ATOM.sc. -/
def execScTicket (idx : Nat) (s : State) : Answer :=
  .next <| match s.flights[idx]? with
    | none => s
    | some f =>
      match f.kind, f.ticket with
      | .atomic _ _ true, none =>
        let room := match f.packet with
          | some (n, _) => decide ((slotSt s f.u n).atomics.length < 64)
          | none => true
        if (s.die s.master).alive && room then
          sendStamped { putFlight s { f with ticket := some s.nextTicket } with nextTicket := s.nextTicket + 1 } f
        else s
      | _, _ => s

/-! ## DSM banks (R151, R153, R154) -/

/-- One element under a bank operation: 2 add to 7 xor, 8 fma; type 4 is two BF16 halves (R95, R154). -/
def bankElem (op ty n old x y : Nat) : Nat :=
  if op = 8 then (f32Fma (BitVec.ofNat 32 old) (BitVec.ofNat 32 x) (BitVec.ofNat 32 y)).toNat
  else if ty = 4 then
    (bf16Add (BitVec.ofNat 16 old) (BitVec.ofNat 16 x)).toNat +
      65536 * (bf16Add (BitVec.ofNat 16 (old / 65536)) (BitVec.ofNat 16 (x / 65536))).toNat
  else atomicNew (op - 2) ty n old x 0
/-- The elements of `n` bytes from old bytes and operands. -/
def bankElems (op ty n : Nat) (old x y : List Byte) : List Byte :=
  (List.range (old.length / n)).flatMap fun k =>
    let e := fun (b : List Byte) => ofLe ((b.drop (n * k)).take n)
    leBytes n (bankElem op ty n (e old) (e x) (e y))

/-- One lane of a bank operation, at its bank. -/
def bankPart (op ty u : Nat) (s : State) (p : Part) : State :=
  let die := paDie p.addr
  let off := dsmOff p.addr
  let old := bytesGet (s.die die).dsm off p.size
  if op = 0 then fillLoad (s.modDie die fun d => { d with dsmPend := ivRemove d.dsmPend (off / 64) }) u p old
  else if op = 1 then dsmWrite s die off p.data
  else
    fillReturn (dsmWrite s die off (bankElems op ty (if ty = 2 then 8 else 4) old (p.data.take p.size) (p.data.drop p.size))) u p
      (bytesWords (p.size / 4) old)

/-- The segment's entry no longer names the domain in whose name an access was issued (R158). -/
def ownerLost (s : State) (f : Flight) : Bool :=
  match f.domain with
  | none => false
  | some dom =>
    let e := (s.die (paDie f.pa)).num (0x6000100000 + 4 * (dsmOff f.pa / 0x200000)) 4
    !(e.testBit 31 && e % 256 == dom)
/-- DSM_BANK_OPERATION (R153): the `idx`-th request in flight is performed at its bank, its lanes in rank order. Its time enters WCT
when it changes another die's DSM (R168, R350). An access that a changed owner entry refuses (R158) does nothing and poisons what it
would have returned with DOMAIN: DESIGN CHOICE, see the log. -/
def execDsmBankOperation (die idx : Nat) (s : State) : Answer :=
  .next <| match s.flights[idx]? with
    | none => s
    | some f =>
      match f.kind with
      | .dsm op ty =>
        if paDie f.pa != die || !(s.die die).alive || earlierAtBank s f then s
        else if ownerLost s f then dropFlight (failFlight s Cause.domain f) f.id
        else
          let s1 := f.parts.foldl (bankPart op ty f.u) (dropFlight s f.id)
          if op = 0 || dieOf f.u = die then s1 else ackFlight s1 f (s.now die)
      | _ => s

/-! ## The host -/

/-- HOST_MEMORY_ACCESS (R307): a host read or write, within a line, of the die's stack memory, at the line's home. A read gives the host
its bytes, and none of a line that carries poison (R155), DESIGN CHOICE, see the log; a write meets the line's leases like any other store (R167). -/
def execHostMemoryAccess (die off size : Nat) (write : Option (BitVec 512)) (s : State) : Answer :=
  let pa := mkPa s.pkg die off
  .next <|
    if size = 0 || size > 64 || off % 128 + size > 128 || off + size > 4 * stackSize || !(s.die die).alive ||
        !stepPassed s die 7 || clamped s die (stackIsland off) then s
    else match write with
      | none => { readLine s pa 8 with hostRead := if isPoisoned s pa then [] else paBytes s pa size }
      | some v => arriveHome s die (outsideFlight s die pa .store .host
          [{ fibre := 8192, addr := pa, size := size, data := leBytes size v.toNat }])

/-- An error strikes a line of a die's stacks (R155): one that the ECC engine can correct, or one that puts poison on the line. -/
def strikeLine (s : State) (d line : Nat) (correctable : Bool) : State :=
  if 128 * (line + 1) > 4 * stackSize then s
  else if correctable then s.modDie d fun x => { x with flips := line :: x.flips.filter (· != line) }
  else poisonLines s [lineOf (mkPa s.pkg d (128 * line))]

end Sys2Proof.Machine
end

