-- ==== Sys2Proof/Machine/Issue.lean ====
section
/-! DEFINITION. The end of a fibre's wait (R47) and the issue slots of a core: deadlines, weighted credit, and the sheaf that issues
(R35, R47, R48, R233, R389). -/

namespace Sys2Proof.Machine

/-! ## Waits -/

/-- The condition of a wait holds. The waits that another event ends answer false here: signed operations, barriers, counters, a copy
or task without room, and migrations. -/
def waitOver (s : State) (u slot id : Nat) (g : Group) (f : Fibre) (w : Wait) : Bool :=
  let c := s.core u
  match w with
  | .reg cls n => (regGet g f cls n).st != .empty
  | .pred n => !f.predPend.getLsbD n
  | .walk pasid va host =>
    (cachedEntry s u pasid (whoOf s u g f).domain va.toNat).isSome ||
    (!host && !retracted s (dieOf u) pasid va.toNat &&
      (match walk s u pasid (whoOf s u g f).domain va.toNat with
        | .bad _ => true
        | .leaf _ _ => false))
  | .sign n => !f.signs.getLsbD n
  | .signed _ | .barrier _ | .counter _ _ | .copyRoom | .migrate _ _ _ _ | .tenqRoom _ _ => false
  | .buffer b _ _ seq => cbReady s u slot b seq
  | .callerReg n => !(f.ownReg n).pending
  | .release scope => released s u slot id f.wct scope
  | .acquire scope => if scope = 0 then !acquiring s u slot id else allReturned s u slot id
  | .tile t => !tileBusy s u slot t && (tilePending s u slot t).isEmpty
  | .matrixQueue => decide (c.queue.length < 8)
  | .lockEntries => decide (entriesHeld c none < 64)
  | .flags => !flagsOwed s u slot id
  | .gateWindow dom =>
    match dpartOf s u dom with
    | some (_, p) => (findRun (vecHeld c) p.vbase p.vgran 1).isSome
    | none => true
  | .satusRoom => true
  | .receive q d next seq => (recvResume s u slot id d q next seq).isSome
  | .flush pa => !storeTo s u slot id pa && !lineBusy s pa
  | .sameLine pa => !locationBusy s u slot id pa
  | .ticket => !ticketWait s u slot id
  | .atomicRoom n => decide ((slotSt s u n).atomics.length < 64)
  | .atomics n => !atomicOn s u slot id n

/-- What a wait's end does: a CBACQ takes its slot and an MRECV its message, and the fibre goes on after the instruction (R213, R385);
any other fibre is ready at the core's present opportunity and executes its instruction again (R47). -/
def resumeWait (s : State) (u slot fibre : Nat) (w : Wait) : State :=
  match w with
  | .buffer b d next _ => cbResume s u slot fibre d b next
  | .receive q d next seq =>
    match recvResume s u slot fibre d q next seq with
    | some t => t
    | none => s
  | _ => s.modFibre u slot fibre fun x => x.ready (s.core u).opp

/-- WAIT_RESUME (R47). -/
def execWaitResume (u slot fibre : Nat) (s : State) : Answer :=
  .next <| match s.group u slot with
    | none => s
    | some g =>
      match sget g.fibres fibre with
      | none => s
      | some f =>
        match f.wait with
        | none => s
        | some w =>
          if waitOver s u slot fibre g f w then resumeWait s u slot fibre w else s

/-! ## Issue (R233) -/

/-- A ready fibre of a core: the index of its domain's DPART set (8 for a supervisor group, which has none), its place, when it became
ready and whether YIELD ranks it behind. -/
structure Ready where
  set : Nat
  slot : Nat
  id : Nat
  readyAt : Nat
  late : Bool

/-- The DPART set whose domain is in force for a fibre. -/
def setOfFibre (u : Nat) (g : Group) (f : Fibre) : Nat :=
  if isSupCore u then 8 else match f.gate with
    | some t => t.tset
    | none => g.set

/-- At an opportunity, YIELD ranks a fibre behind: one of its slot's, before the limit that YIELD set (R389). -/
def ranksBehind (opp limit : Nat) : Bool := decide (opp < limit) && (opp + 1) % 4 == limit % 4

/-- F: the ready fibres of a core. -/
def readyFibres (s : State) (u : Nat) : List Ready :=
  (s.core u).slots.flatMap fun e =>
    if e.2.canIssue then
      e.2.fibres.filterMap fun x =>
        if x.2.canIssue then
          some { set := setOfFibre u e.2 x.2, slot := e.1, id := x.1, readyAt := x.2.readyAt,
                 late := ranksBehind (s.core u).opp x.2.yieldTo }
        else none
    else []

/-- The last opportunity at which a fibre may issue. -/
def Ready.deadline (r : Ready) : Nat := r.readyAt + 4095
/-- Ties: the lowest DPART index, then group slot, then fibre identifier. -/
def Ready.tieBefore (a b : Ready) : Bool :=
  decide (a.set < b.set) || (a.set == b.set && (decide (a.slot < b.slot) || (a.slot == b.slot && decide (a.id < b.id))))
/-- The earlier deadline first. -/
def Ready.before (a b : Ready) : Bool :=
  decide (a.readyAt < b.readyAt) || (a.readyAt == b.readyAt && a.tieBefore b)
/-- Within a domain: a fibre that YIELD ranks behind comes after the others, then the one that became ready first. -/
def Ready.rankBefore (a b : Ready) : Bool := if a.late != b.late then b.late else a.before b

/-- The first of a list in an order. -/
def firstBy {α : Type} (before : α → α → Bool) : List α → Option α
  | [] => none
  | a :: t => some (t.foldl (fun x y => if before y x then y else x) a)

/-- For some k ≥ 1 at least k fibres have a deadline of at most n + k − 1. -/
def deadlinePressed (n : Nat) (rs : List Ready) : Bool :=
  rs.any fun r => decide (r.deadline + 1 ≤ n + (rs.filter fun x => decide (x.deadline ≤ r.deadline)).length)

/-- The sets that have a ready fibre, in order. -/
def readySets (rs : List Ready) : List Nat := (List.range 9).filter fun k => rs.any fun r => r.set == k
/-- A set's issue weight IW; the supervisor groups of a core share one of 1. -/
def issueWeight (c : Core) (k : Nat) : Int := if k = 8 then 1 else ((sgetD c.dparts k {}).iw : Int)
/-- The credits after the sets of D have gained their weights, and the others have lost theirs. -/
def raisedCredit (c : Core) (sets : List Nat) : SMap Int := sets.map fun k => (k, sgetD c.credit k 0 + issueWeight c k)
/-- The set of largest credit; ties go to the lowest index. -/
def richest (m : SMap Int) : Option (Nat × Int) := firstBy (fun a b => decide (a.2 > b.2)) m

/-- The fibre whose sheaf issues at an opportunity, and the credits after it. -/
def chooseReady (c : Core) (rs : List Ready) : Option (Ready × SMap Int) :=
  if deadlinePressed c.opp rs then (firstBy Ready.before rs).map fun r => (r, c.credit)
  else
    let sets := readySets rs
    let m := raisedCredit c sets
    match richest m with
    | none => none
    | some (k, _) =>
      (firstBy Ready.rankBefore (rs.filter fun r => r.set == k)).map fun r =>
        (r, smod m k fun x => x - (sets.map fun j => issueWeight c j).foldl (· + ·) 0)

/-- Two fibres can be gathered into one sheaf: one program counter, one mode, and one gate or none (R35). -/
def sheafMates (f x : Fibre) : Bool :=
  x.pc == f.pc && x.sup == f.sup && x.canIssue && (x.gate.map fun t => (t.num, t.tdom)) == f.gate.map fun t => (t.num, t.tdom)

/-- The sheaf of a fibre: itself and up to 31 of the fibres it can be gathered with, out of those that `gather` names (all where it
is empty), in increasing identifier. -/
def sheafOf (g : Group) (lead : Nat) (gather : List Nat) : List Nat :=
  match sget g.fibres lead with
  | none => []
  | some f =>
    let ms := (g.fibres.filter fun e => e.1 != lead && sheafMates f e.2 && (gather.isEmpty || gather.contains e.1)).map (·.1)
    let chosen := ms.take 31
    chosen.filter (· < lead) ++ lead :: chosen.filter (· > lead)

/-- ISSUE_OPPORTUNITY (R233): an issue slot of a core chooses a sheaf. `gather` is the hardware's own choice of the fibres that join
the chosen one (R35). The sheaf's fibres are next ready at the following opportunity. -/
def execIssueOpportunity (u : Nat) (gather : List Nat) (s : State) : Answer :=
  let c := s.core u
  let s1 := s.modCore u fun c => { c with opp := c.opp + 1 }
  .next <|
    if s.cur.isSome || !(s.die (dieOf u)).alive then s
    else match chooseReady c (readyFibres s u) with
      | none => s1
      | some (r, credit) =>
        match s.group u r.slot with
        | none => s1
        | some g =>
          let ids := sheafOf g r.id gather
          let s2 := (s1.modCore u fun c => { c with credit := credit }).modGroup u r.slot fun g =>
            { g with fibres := g.fibres.map fun e => if ids.contains e.1 then (e.1, { e.2 with readyAt := c.opp + 1 }) else e }
          let pc := match sget g.fibres r.id with
            | some f => f.pc
            | none => 0
          { s2 with cur := some { u := u, slot := r.slot, fibres := ids, pc := pc } }

end Sys2Proof.Machine
end

