-- ==== Sys2Proof/Machine/Power.lean ====
section
/-! DEFINITION. Resets, islands and the host's package-wide commands: VF reset (R264), island reset, gating and clamps (R16, R308),
boot and election (R310, R311), quotes (R313), power (R315), and checkpoint and restore (R316). -/

namespace Sys2Proof.Machine

/-! ## VF reset (R264) -/

/-- The tasks of a domain whose launch has not completed, or whose gang still runs after its TDONE (R417). -/
def openTasks (s : State) (dom : Nat) : List (Nat × Task) :=
  s.tasks.filter fun e => e.2.domain == dom && (!e.2.groups.isEmpty || match sget s.launches e.2.launch with
    | some l => !l.complete
    | none => true)
/-- A task of a reset domain: its gang is dropped, or it never starts; what it has still to end is not held up (R264, R221). -/
def resetTask (s : State) (e : Nat × Task) : State :=
  let s1 := if e.2.groups.isEmpty then s else dropGang s e.1
  match e.2.st with
  | .waitingRoom => { s1 with tasks := sdel s1.tasks e.1 }
  | .done | .refused | .aborted | .taken => modTask s1 e.1 fun k => { k with status := Nat.max k.status 4, gangId := none }
  | _ => abortTask 4 s1 e.1
/-- The records of a domain on a die are cancelled. -/
def cancelDomain (s : State) (d dom : Nat) : State :=
  s.modDie d fun x => { x with records := x.records.filter fun r => uncharged r || r.domain != dom }
/-- The DSM segments of a domain become zero-pending (R152). -/
def zeroDomain (s : State) (d dom : Nat) : State :=
  ((List.range 128).filter fun seg =>
    let e := (s.die d).num (0x6000100000 + 4 * seg) 4
    e.testBit 31 && e % 256 == dom).foldl (fun s seg => zeroSegment s d seg) s

/-- VF_RESET (R264, R317). -/
def execVfReset (vf : Nat) (s : State) : Answer :=
  .next <|
    if vf ≥ 256 then s
    else
      let s1 := (openTasks s vf).foldl resetTask s
      let s2 := (List.range 8).foldl (fun s d => cancelDomain (abortCalls s d vf 0xFFFFFFFF) d vf) s1
      let s3 := freeCourses (drainSlots s2 vf) vf
      settleClimbs ((List.range 8).foldl (fun s d => zeroDomain s d vf) s3)

/-! ## Islands (R14 to R16, R308) -/

def islandState (s : State) (d k : Nat) : Island := sgetD (s.die d).islands k {}
def modIsland (s : State) (d k : Nat) (f : Island → Island) : State :=
  s.modDie d fun x => { x with islands := sset x.islands k (f (sgetD x.islands k {})) }
def islctlOff (k : Nat) : Nat := 0x6000E00000 + 8 * k
/-- Set bits of an island's control register. -/
def islctlBits (s : State) (d k hi lo v : Nat) : State :=
  putWord s d (islctlOff k) (putBits ((s.die d).word (islctlOff k)).toNat hi lo v)
/-- The core unit belongs to an island. -/
def onIsland (d k u : Nat) : Bool := dieOf u == d && islandOf u == k
/-- A physical address whose stack or DSM bank belongs to an island. -/
def paOnIsland (s : State) (d k pa : Nat) : Bool :=
  paPkg pa == s.pkg && paDie pa == d &&
  ((plainPa pa && stackIsland (paOff pa) == k) || (inDsmWindow pa && (paOff pa - 0x4000000000) / 0x4000000 % 2 == k))

/-- Every group of an island is dropped without saving, with its gang, whose launch ends with status 1. A landing slot on the island holds
no group (R279): it goes, and its gang stays. -/
def dropIsland (s : State) (d k : Nat) : State :=
  let ts := (s.tasks.filter fun e => e.2.groups.any fun p => onIsland d k p.1).map (·.1)
  let s0 := ts.foldl (killGang 1) s
  let s1 := { s0 with tasks := s0.tasks.map fun (e : Nat × Task) =>
      (e.1, { e.2 with landing := e.2.landing.filter fun p => !onIsland d k p.1 }) }
  let rest := (s1.cores.filter fun c => onIsland d k c.1).flatMap fun c => c.2.slots.map fun g => (c.1, g.1)
  let s2 := rest.foldl (fun s p => dropGroup s p.1 p.2) s1
  { s2 with tasks := s2.tasks.map fun (e : Nat × Task) =>
      if e.2.st == .reserving && e.2.chosen.any (onIsland d k) then (e.1, { e.2 with st := .ready, chosen := [] }) else e }

/-- The clamps of an island close: no request enters, what is inside drains for 10 µs, and the host hears of it. -/
def closeClamps (s : State) (d k : Nat) : State :=
  hostEvent (modIsland s d k fun i => { i with up := false, drainUntil := s.now d + 10000 }) [partOf s d k] 4 0 d

/-- ISLAND_RESET (R308): the PF writes RST = 1. -/
def execIslandReset (die k : Nat) (s : State) : Answer :=
  .next <|
    let i := islandState s die k
    if k ≥ 2 || !(s.die die).alive || i.resetting then s
    else
      let s1 := modIsland (islctlBits s die k 63 63 1) die k fun i => { i with resetting := true }
      settleClimbs (dropIsland (if i.up then closeClamps s1 die k else s1) die k)

/-- ISLAND_POWER_GATE (R308): the PF writes GATE = 1. -/
def execIslandPowerGate (die k : Nat) (s : State) : Answer :=
  .next <|
    let i := islandState s die k
    if k ≥ 2 || !(s.die die).alive || i.gated || i.resetting then s
    else
      settleClimbs (dropIsland (modIsland (closeClamps (islctlBits s die k 62 62 1) die k) die k fun i => { i with gated := true }) die k)

/-- A request in flight that crosses the edge of an island. -/
def crosses (s : State) (d k : Nat) (f : Flight) : Bool := paOnIsland s d k f.pa != onIsland d k f.u
/-- A copy lane of a core whose source or destination lies across the edge. A write that has left for its home counts as a request. -/
def laneCrosses (s : State) (d k u : Nat) (x : Copy) (l : CopyLane) : Bool :=
  let here := onIsland d k u
  !l.done && l.written.isNone && !l.sent &&
    ((x.space != 0 && !here && paOnIsland s d k l.srcPa) ||
     (x.space != 0 && here && paPkg l.srcPa == s.pkg && plainPa l.srcPa && !paOnIsland s d k l.srcPa) ||
     ((x.space == 0 || x.space == 2) && (if here then !paOnIsland s d k l.dstPa else paOnIsland s d k l.dstPa)))
/-- Something is still in flight across the edge. -/
def stillCrossing (s : State) (d k : Nat) : Bool :=
  (s.flights.any (crosses s d k)) ||
  s.cores.any fun c => c.2.copies.any fun x => x.lanes.any (laneCrosses s d k c.1 x)

/-- What the issuer of a request that is cut off learns: fibres the error status, a copy's lanes that they are cancelled, another package
that its atomic gave no value. A ridge's epoch goes on, and its flag is not written. -/
def cutOrigin (s : State) (f : Flight) : State :=
  match f.origin with
  | .copy id i => match (s.core f.u).copies.find? fun x => x.id == id with
    | none => s
    | some x => match x.lanes[i]? with
      | none => s
      | some l => ((laneMates x (dstPiece x.space) l).filter fun e => e.2.sent && e.2.written.isNone).foldl
          (fun s e => failLane s f.u x e.1 e.2) s
  | .fabric p => if p.type = 3 then atomicAnswer s p 0 2 else s
  | .ridge c e => if courseLow (courseEntry s (paDie f.pa) c) = e then advanceLow s (paDie f.pa) c else s
  | .fibre | .tst _ | .host => failFlight s Cause.islandOffline f
/-- A request cut off by the clamps completes with ISLAND_OFFLINE and writes nothing; a replicated store goes on without the
replica on the island. -/
def cutFlight (d k : Nat) (s : State) (f : Flight) : State :=
  if crosses s d k f then cutOrigin (dropFlight s f.id) f
  else match f.kind with
    | .stm ds =>
      if ds.contains d && paDie f.pa != d && stackIsland (paOff f.pa) == k then
        let rest := ds.filter (· != d)
        if rest.isEmpty then ackFlight (dropFlight s f.id) f f.t else putFlight s { f with kind := .stm rest }
      else s
    | _ => s
/-- The lanes of a core's copies that the clamps cut off end as cancelled lanes do. -/
def cutCopies (d k : Nat) (s : State) (u : Nat) : State :=
  (s.core u).copies.foldl (fun s x => x.lanes.zipIdx.foldl (fun s e =>
    if laneCrosses s d k u x e.1 then failLane s u x e.2 e.1 else s) s) s
/-- The row of a tile transfer, and its scale bytes, when the clamps cut them off. -/
def cutRow (s : State) (d k : Nat) (r : TileRow) : TileRow :=
  { r with cut := r.cut || paOnIsland s d k r.pa, scut := r.scut || (r.sva.isSome && (paOnIsland s d k r.sc0 || paOnIsland s d k r.sc1)) }
/-- The tile transfers of cores outside the island: what they have still to read or write there ends with ISLAND_OFFLINE (R421, R422). -/
def cutTransfers (s : State) (d k : Nat) : State :=
  s.mapCores (fun u => !onIsland d k u) fun c =>
    { c with transfers := c.transfers.map fun m => if m.md.testBit 0 then m else
        { m with rows := m.rows.map (cutRow s d k), todo := m.todo.filter fun e => !(e.2.any fun p => paOnIsland s d k p.addr) } }

/-- CLAMP_DRAIN_TIMEOUT (R16): 10 µs after the clamps closed, what is still in flight across the edge ends. -/
def execClampDrainTimeout (die k : Nat) (s : State) : Answer :=
  .next <|
    let i := islandState s die k
    if k ≥ 2 || i.up || s.now die < i.drainUntil then s
    else
      let s1 := s.flights.foldl (cutFlight die k) s
      cutTransfers (s1.cores.foldl (fun s c => cutCopies die k s c.1) s1) die k

/-- The storage of a core reads zero, and its caches are empty. -/
def zeroCore (c : Core) : Core :=
  { c with slots := [], returns := [], locks := [], copies := [], cbOpen := [], queue := [], running := [], transfers := [],
           l1 := [], l1Req := [], wb := [], lcopies := [], icache := [], tlb := [] }
/-- The caches of a die forget the copies of lines; the coherent values stand in memory. -/
def forgetLines (s : State) (d : Nat) : State :=
  (s.mapCores (fun u => dieOf u == d) fun c => { c with l1 := [], l1Req := [], wb := [] }).modDie d fun x => { x with dirs := [], msgs := [] }
/-- The core storage, L2 slices and DSM banks of an island start zeroed. -/
def zeroIsland (s : State) (d k : Nat) : State :=
  ((forgetLines s d).mapCores (onIsland d k) zeroCore).modDie d fun x =>
    { x with
      dsm := x.dsm.filter fun e => e.1 / 0x4000000 % 2 != k
      pins := x.pins.filter fun p => p.slice / 8 != k
      l2 := x.l2.filter fun e => stackIsland (128 * e.1) != k
      sharedTlb := sdel x.sharedTlb k
      walkCache := sdel x.walkCache k }

/-- The ROM starts the boot group on a supervisor core through its start block (R13). -/
def bootGroup (s : State) (d sc : Nat) : State :=
  let fw := leBytes 8 (Config.firmwareBase d)
  startGo (s.modDie d fun x => x.setBytes (startOff sc) (fw ++ fw ++ leBytes 4 0 ++ leBytes 4 2)) d sc

/-- ISLAND_RESET_END (R13, R308): the island is zeroed, the clamps open unless it is power-gated, RST clears, and the ROM starts the
boot group on the island's lower-numbered supervisor core. -/
def execIslandResetEnd (die k : Nat) (s : State) : Answer :=
  .next <|
    let i := islandState s die k
    if k ≥ 2 || !i.resetting || stillCrossing s die k then s
    else
      let s1 := islctlBits (zeroIsland s die k) die k 63 63 0
      let s2 := modIsland s1 die k fun i => { i with resetting := false, up := !i.gated }
      if i.gated then s2 else bootGroup s2 die (2 * k)

/-- ISLAND_POWER_UP (R16): the PF writes GATE = 0. -/
def execIslandPowerUp (die k : Nat) (s : State) : Answer :=
  .next <|
    let i := islandState s die k
    if k ≥ 2 || !i.gated || i.resetting || stillCrossing s die k then s
    else modIsland (islctlBits (zeroIsland s die k) die k 62 62 0) die k fun i => { i with gated := false, up := true }

/-- A task is queued in an island's queues. -/
def queuedOn (s : State) (d k : Nat) : Bool :=
  s.tasks.any fun e => queueDie e.2.queue == d && queueIsland e.2.queue == k && match e.2.st with
    | .ready | .parked | .reserving => true
    | _ => false

/-- A group is resident on an island: a landing slot holds none (R279). -/
def residentOn (s : State) (d k : Nat) : Bool :=
  s.cores.any fun c => onIsland d k c.1 && c.2.slots.any fun g => g.2.st != .landing
/-- Groups on their way to a landing slot of an island raise MIGRATE at their MIGR, and stay where they are. -/
def stopMigrations (s : State) (d k : Nat) : State :=
  s.cores.foldl (fun s c => c.2.slots.foldl (fun s g => match g.2.st with
    | .migrating e => match landingOn s g.2 e with
      | some p => if onIsland d k p.1 then migrFault (s.modGroup c.1 g.1 fun g => { g with st := .run }) c.1 g.1 Cause.migrate else s
      | none => s
    | _ => s) s) s
/-- The gangs of other islands count on an island no more: their landing slots there go, and so do reservations that have chosen cores
of it. -/
def leaveIsland (s : State) (d k : Nat) : State :=
  let s1 := s.mapCores (onIsland d k) fun c => { c with slots := c.slots.filter fun g => g.2.st != .landing }
  { s1 with tasks := s1.tasks.map fun (e : Nat × Task) =>
      let x : Task := { e.2 with landing := e.2.landing.filter fun p => !onIsland d k p.1 }
      (e.1, if x.st == .reserving && x.chosen.any (onIsland d k) then { x with st := .ready, chosen := [] } else x) }
/-- PARTITION_SET (R308): ignored while a group is resident on the island or a task is queued in its queues. A gang is placed on cores of
one partition (R229), and so a landing slot or a reservation of another island's gang on this one goes: DESIGN CHOICE, see the log. -/
def execPartitionSet (die k part : Nat) (s : State) : Answer :=
  .next <|
    if k ≥ 2 || part ≥ 16 || queuedOn s die k || residentOn s die k then s
    else if part = partOf s die k then s
    else islctlBits (leaveIsland (stopMigrations s die k) die k) die k 61 58 part

/-! ## Boot (R310 to R312) -/

/-- An offset lies in a block of `n` bytes. -/
def inBlock (off base n : Nat) : Bool := base ≤ off && off < base + n

/-- The bits of the word at a die offset that a register or a table holds: its other bits are reserved, and stay zero (R4). -/
def ctlMask (off : Nat) : Nat :=
  let all := 2 ^ 64 - 1
  let i := off / 8
  if off = 0x6000000040 then 0x1FFF
  else if inBlock off 0x6000100000 512 || inBlock off 0x6000300000 0x1000 || inBlock off 0x6000310000 0x1000 then 0x800000FF800000FF
  else if inBlock off 0x6000200000 0x4000 then (if i % 4 = 0 then 0xF8FFFFFFFFFF1FFF else all)
  else if inBlock off 0x6000400000 0x2000 then all
  else if off = 0x6000500000 then 0x800000FFFFFFFFFF
  else if off = 0x6000500100 then 2 ^ 35 - 1
  else if off = 0x6000500200 then 2 ^ 32 - 1
  else if off = 0x6000500400 then 0xF803FFFFE00003FF
  else if off = 0x6000500108 || off = 0x6000500408 then all
  else if inBlock off 0x6000600000 0x4000 then (if i % 8 = 0 then 0x000FFFFF00000001 else if i % 8 = 7 then 0xFFFF else all)
  else if inBlock off 0x6000800000 32 then (if i % 4 = 1 then 0xFFFFFFFF000FFFFF else all)
  else if off = 0x6000800040 then 0xFF
  else if inBlock off 0x6000900000 512 then 0x80000000FFFFFFFF
  else if inBlock off 0x6000A00000 0x8000 then (if i % 2 = 0 then 2 ^ 64 - 2 ^ 25 else 2 ^ 64 - 2 ^ 24)
  else if inBlock off 0x6000B00000 0x20000 then
    (if i % 4 = 0 then 2 ^ 64 - 2 ^ 25 else if i % 4 = 1 then 0 else if i % 4 = 2 then 2 ^ 64 - 2 ^ 17 else all)
  else if off = 0x6000C00000 then 0x8000FFFFFFFFFFFF
  else if inBlock off 0x6000D00000 0x20000 then all
  else if inBlock off 0x6000E00000 16 then 0xFF80000000000000
  else if inBlock off 0x6000F00000 256 then (if i % 8 < 2 then all else if i % 8 = 2 then 0x2000FFFFF else if i % 8 = 3 then all else 0)
  else if inBlock off 0x6010000000 0x1000000 then all
  else 0
/-- The bits of a byte of the control space that are not reserved. -/
def ctlByteMask (off : Nat) : Byte := BitVec.ofNat 8 (ctlMask (off / 8 * 8) >>> (8 * (off % 8)))
/-- A byte of a dependence counter's word: its count and its error bits (R347); the bit for parked tasks follows the tasks. -/
def restoreCounter (d : Die) (off : Nat) (b : Byte) : Die :=
  let id := (off - 0x6000700000) / 8
  let c := sgetD d.counters id {}
  let w := ofLe ((leBytes 8 (counterWord c)).set (off % 8) b)
  { d with counters := sset d.counters id { c with count := w % 2 ^ 24, underBit := w.testBit 24, overBit := w.testBit 25 } }

/-- A byte of an image, a checkpoint's or the firmware's, at its physical address: stack memory, DSM or a table, whose reserved bits
stay zero (R4, R316). -/
def restoreByte (s : State) (e : Nat × Byte) : State :=
  if paPkg e.1 ≠ s.pkg then s
  else if plainPa e.1 then { touchLine s e.1 with mem := memSet s.mem e.1 e.2 }
  else if inDsmWindow e.1 then s.modDie (paDie e.1) fun d =>
      { d with dsm := bytesSet d.dsm (paOff e.1 - 0x4000000000) [e.2], dsmPend := ivRemove d.dsmPend ((paOff e.1 - 0x4000000000) / 64) }
  else if inBlock (paOff e.1) 0x6000700000 0x80000 then s.modDie (paDie e.1) fun d => restoreCounter d (paOff e.1) e.2
  else if inControl e.1 then s.modDie (paDie e.1) fun d => d.setByte (paOff e.1) (e.2 &&& ctlByteMask (paOff e.1))
  else s

/-- Steps 1 and 6 have no alternate. -/
def hasAlternate (i : Nat) : Bool := i != 1 && i != 6
/-- The new code of a step from its last one and the outcome of the method it runs. -/
def nextCode (i last : Nat) (pass : Bool) : Nat :=
  if last = 3 then 3
  else if last = 0 then (if pass then 0 else if hasAlternate i then 2 else 3)
  else if pass then 1 else 3
/-- Put a step's code. -/
def putCode (s : State) (d i c : Nat) : State :=
  { s with bootCodes := sset s.bootCodes d (BitVec.ofNat 16 (putBits (sgetD s.bootCodes d 0).toNat (2 * i - 1) (2 * i - 2) c)) }
/-- The flash image that the next run of step 2 loads: slot A, or slot B where the step runs its alternate. -/
def bootImage (s : State) (d : Nat) : Image := if stepCode s d 2 = 0 then (s.die d).imageA else (s.die d).imageB
/-- A die accepts a firmware image (R312): its signature verifies over the image's digest, under the key whose digest is fused, and its
version is not below the fused rollback counter. -/
def imageAccepted (x : Die) (i : Image) : Bool :=
  Config.falconVerifies i.key (Config.shake256 64 i.body) i.signature && Config.shake256 32 i.key == x.fuseKey &&
  decide (x.fuseRollback ≤ i.version)
/-- Step 2 loads the image at the firmware's address. -/
def loadImage (s : State) (d : Nat) (i : Image) : State :=
  ((i.body.zipIdx.map fun b => (Config.firmwareBase d + b.2, b.1)).foldl restoreByte s).modDie d fun x => { x with firmware := i.body }
/-- Record whether a step passed at this start. -/
def notePassed (s : State) (d i : Nat) (pass : Bool) : State :=
  s.modDie d fun x => { x with passed := (x.passed &&& ~~~(1#8 <<< (i - 1))) ||| (if pass then 1#8 <<< (i - 1) else 0) }
/-- The channels of failing stacks are retired, beside those that are (R21, R310). -/
def retireStacks (dead : List Nat) (s : State) (d : Nat) : State :=
  s.modDie d fun x => { x with retired := dead.foldl (fun m j => sset m j 0xFFFF) x.retired }
/-- The supervisor retires a channel of a stack (R21). -/
def retireChannel (s : State) (d stack ch : Nat) : State :=
  if d ≥ 8 || stack ≥ 4 || ch ≥ 16 then s
  else s.modDie d fun x => { x with retired := sset x.retired stack (sgetD x.retired stack 0 ||| 2 ^ ch) }
/-- What a step does: a step that has passed, or one that has failed or is skipped (R310). `dead` are the stacks whose training
failed, and `image` the firmware that step 2 loads. -/
def stepEffect (dead : List Nat) (image : Image) (s : State) (d i : Nat) : State :=
  if stepPassed s d i then
    (if i = 2 then bootGroup (loadImage s d image) d 0
     else if i = 3 then s.modDie d fun x => { x with retired := [] }
     else if i = 4 then s.modDie d fun x => { x with capd := x.capFuse } else s)
  else if i = 1 || i = 2 then s.modDie d fun x => { x with started := false }
  else if i = 3 then retireStacks dead s d
  else if i = 4 then s.modDie d fun x => { x with capd := false }
  else if i = 8 then s.modDie d fun x => { x with fabricUp := false }
  else s
/-- One step of a start: nothing more is run on a die that stays in reset. A refused image fails step 2 (R312). -/
def bootStep (dead : List Nat) (d : Nat) (s : State) (e : Bool × Nat) : State :=
  if !(s.die d).started then s
  else
    let i := e.2
    let image := bootImage s d
    let pass := e.1 && (i != 2 || imageAccepted (s.die d) image)
    let code := nextCode i (stepCode s d i) pass
    let s1 := stepEffect dead image (notePassed (putCode s d i code) d i (decide (code ≤ 1))) d i
    if stepPassed s1 d i then s1 else hostEvent s1 (dieParts s1 d) 5 0 d

/-- A die at its start: its registers at reset, with its fuses, its flash, its time, and what its PF's driver wrote. Until step 3 has run,
the channels retired before stay so, and a port or a link is as the last start left it until its step has run. -/
def Die.atStart (x : Die) : Die :=
  { Die.reset with time := x.time, clen := x.clen, stkp := x.stkp, capd := x.capFuse, capFuse := x.capFuse, step := x.step, started := true,
                   evq := x.evq, retired := x.retired, passed := x.passed, fuseKey := x.fuseKey, fuseRollback := x.fuseRollback, imageA := x.imageA, imageB := x.imageB }

/-- DIE_START (R310): a die that runs nothing starts from its ROM. `pass` says of steps 1 to 8 whether the method that runs
succeeds, and then of stacks 0 to 3 whether step 3 trained them. A failed die does not start again. -/
def execDieStart (die : Nat) (pass : List Bool) (s : State) : Answer :=
  .next <|
    let x := s.die die
    if die ≥ 8 || !x.alive || x.judged || ((coresOf s die).any fun c => !c.2.slots.isEmpty) then s
    else
      let s2 := (s.setDie die x.atStart).mapCores (fun u => dieOf u == die) fun c => { nonces := c.nonces }
      ((List.range 8).map fun i => (pass.getD i true, i + 1)).foldl
        (bootStep ((List.range 4).filter fun j => !pass.getD (8 + j) true) die)
        { s2 with bootJoined := s2.bootJoined &&& ~~~dieBit die }

/-- The host writes zero to a boot step's code: the step returns to its normal method (R310). -/
def stepClear (s : State) (d i : Nat) : State := if d < 8 && 1 ≤ i && i ≤ 8 then putCode s d i 0 else s
/-- The host programs a slot of a die's flash: 0 for A, 1 for B. -/
def flashImage (s : State) (d slot : Nat) (image : Image) : State :=
  s.modDie d fun x => if slot = 0 then { x with imageA := image } else { x with imageB := image }

/-- The die joins the election: it has passed steps 1, 2 and 5. -/
def joins (s : State) (d : Nat) : Bool :=
  (s.die d).alive && (s.die d).started && !(s.die d).judged && stepPassed s d 1 && stepPassed s d 2 && stepPassed s d 5

/-- The dies that could not train their links: the master judges them failed (R310). -/
def judgeUnlinked (s : State) (m : Nat) : State :=
  ((List.range 8).filter fun d => (s.die d).alive && (s.die d).started && !(s.die d).judged && !stepPassed s d 5).foldl
    (fun s d => ((sendHard s 0x8010 (leBytes 1 d ++ leBytes 1 (s.free % 256) ++ leBytes 8 (s.now m))).bumpFree).modDie d fun x =>
      { x with judged := true }) s
/-- The dies that join are entered in the boot record of the master, whose start counts. -/
def enterJoined (s : State) (m : Nat) (ds : List Nat) : State :=
  { s with master := m, bootCount := s.bootCount + 1, bootJoined := ds.foldl (fun b d => b ||| dieBit d) 0 }

/-- MASTER_ELECTION (R311, R317): the lowest joined die becomes master, sends MASTER and starts the sequencer. A master that was sent
stands, even when its die has failed, until R281 replaces it; a die that joins after it is entered in the boot record, and learns of the
master as it joins: DESIGN CHOICE, since R311 names one election. -/
def execMasterElection (s : State) : Answer :=
  .next <|
    let ds := (List.range 8).filter (joins s)
    match ds with
    | [] => s
    | m :: _ =>
      if s.bootJoined.getLsbD s.master then
        if !joins s s.master then s else
        match ds.filter fun d => !s.bootJoined.getLsbD d with
        | [] => judgeUnlinked s s.master
        | new => judgeUnlinked (new.foldl (fun s d => s.modDie d fun x => { x with masterOf := s.master }) (enterJoined s s.master ds)) s.master
      else judgeUnlinked (sendHard { enterJoined s m ds with masterSince := s.nextTicket } 0x8011 (leBytes 1 m)) m

/-- The 64 bytes of the boot record (R311). -/
def bootRecord (s : State) : List Byte :=
  leBytes 4 s.bootCount ++ leBytes 1 s.master ++ leBytes 1 s.bootJoined.toNat ++ leBytes 2 0 ++
  ((List.range 8).flatMap fun d => leBytes 2 (sgetD s.bootCodes d 0).toNat) ++ List.replicate 40 0

/-! ## Attestation (R313) -/

/-- A list cut or padded to a length. -/
def padTo (n : Nat) (b : List Byte) : List Byte := b.take n ++ List.replicate (n - b.length) 0
/-- The mask of dies that run. -/
def dieMask (s : State) : Nat :=
  ((List.range 8).filter fun d => (s.die d).alive && (s.die d).started).foldl (fun m d => m + 2 ^ d) 0
/-- The firmware of every die that runs. -/
def firmwareImages (s : State) : List Byte :=
  ((List.range 8).filter fun d => (s.die d).alive && (s.die d).started).flatMap fun d => (s.die d).firmware
/-- Bytes 0 to 175 of a quote. -/
def quoteHead (s : State) (nonce : BitVec 256) : List Byte :=
  leBytes 32 nonce.toNat ++ padTo 64 (Config.shake256 64 (firmwareImages s)) ++
  padTo 64 (Config.shake256 64 (bootRecord s ++ ((List.range 8).flatMap fun d => leBytes 4 (diecapWord s d).toNat) ++
    (s.die s.master).bytes 0x6000600000 0x4000)) ++
  leBytes 8 (dieMask s) ++ leBytes 8 (s.now s.master)

/-- QUOTE_REQUEST (R313): the master signs with its own device identity key and writes the quote to the result address; in host-assisted mode it writes what it has made, and
the host adds to it. -/
def execQuoteRequest (pf : Nat) (_nonceAddr resultAddr : DWord) (nonce : BitVec 256) (s : State) : Answer :=
  .next <|
    if pf ≥ 8 || !stepPassed s pf 7 || !(s.die s.master).alive then s
    else
      let head := quoteHead s nonce
      let made := head ++ padTo 1280 (Config.quoteSignature s.master head)
      let bytes := if s.svcmode.getLsbD 4 then made else made ++ List.replicate 80 0
      { s with quotes := s.quotes ++ [(pf, bytes)], hostWrites := s.hostWrites ++ [(0, resultAddr.toNat, bytes)] }

/-! ## Power (R315) -/

/-- The arithmetic clock of a die falls to 0.7 GHz, or returns to the FSTEP value. -/
def setSlow (s : State) (d : Nat) (b : Bool) : State :=
  modIsland (modIsland s d 0 fun i => { i with clk07 := b }) d 1 fun i => { i with clk07 := b }
/-- SUPPLY_SAG (R315). -/
def execSupplySag (die : Nat) (s : State) : Answer :=
  .next <|
    if die ≥ 8 || !(s.die die).alive then s
    else hostEvent ((setSlow s die true).modDie die fun x => { x with sag := true, recovered := none }) (dieParts s die) 6 0 die
/-- The supply of a die has recovered (R315). -/
def supplyUp (s : State) (d : Nat) : State :=
  s.modDie d fun x => if x.sag && x.recovered.isNone then { x with recovered := some x.time } else x
/-- SUPPLY_RECOVERY (R315): the clock returns, at least 2 µs after the supply has recovered. -/
def execSupplyRecovery (die : Nat) (s : State) : Answer :=
  .next <| match (s.die die).recovered with
    | none => s
    | some t =>
      if (s.die die).sag && decide (s.now die ≥ t + 2000) then
        (setSlow s die false).modDie die fun x => { x with sag := false, recovered := none }
      else s
/-- CLOCK_SLOWING (R315): the power controller changes FSTEP on its own. -/
def execClockSlowing (die k fstep : Nat) (s : State) : Answer :=
  .next <| if die ≥ 8 || k ≥ 2 || fstep ≥ 8 then s else islctlBits s die k 57 55 fstep

/-! ## Checkpoint and restore (R316) -/

/-- CHECKPOINT_HOLD. -/
def execCheckpointHold (s : State) : Answer := .next { s with checkpoint := true, stopRaised := s.checkpoint && s.stopRaised }
/-- A launch that a checkpoint waits for: not complete, and not one of a VF that was reset (R317). -/
def launchOpen (s : State) (e : Nat × Launch) : Bool :=
  let ms := (s.tasks.filter fun t => t.2.launch == e.1).map (·.2)
  !e.2.complete && !(ms.all Task.over && ms.any fun k => k.status == 4)
/-- CHECKPOINT_STOPPED: no launch of the package is incomplete. -/
def execCheckpointStopped (s : State) : Answer :=
  .next <|
    if s.checkpoint && !s.stopRaised && !(s.launches.any (launchOpen s)) then
      hostEvent { s with stopRaised := true } (allParts s) 7 0 s.master
    else s
/-- CHECKPOINT_RELEASE: the held stores are applied in arrival order. -/
def execCheckpointRelease (s : State) : Answer :=
  .next <| s.heldStores.foldl (fun s e => watched s e.1 e.2.1 e.2.2) { s with checkpoint := false, stopRaised := false, heldStores := [] }

/-- DIECAP without STEP and ISUP. -/
def diecapKey (w : Word) : Word := w &&& 0xFFFFFFC0#32
/-- RESTORE_COMMAND: refused with status 2 on a package whose number or DIECAP values differ. -/
def execRestoreCommand (pf pkg : Nat) (diecaps : List Word) (image : List (Nat × Byte)) (s : State) : Answer :=
  .next <|
    if pf ≥ 8 then s
    else if pkg = s.pkg && diecaps.map diecapKey == (List.range 8).map (fun d => diecapKey (diecapWord s d)) then
      image.foldl restoreByte { s with restoreStatus := some 0 }
    else { s with restoreStatus := some 2 }

end Sys2Proof.Machine
end

