-- ==== Sys2Proof/Machine/Dispatch.lean ====
section
/-! DEFINITION. The dispatch: one arm for each constructor of `Instr`. -/

namespace Sys2Proof.Machine

def exec (i : Instr) (s : State) : Host.Outcome State Fault Refusal :=
  match i with
  | .nop o => Sys2Proof.Machine.execNop o s
  | .bkpt o => Sys2Proof.Machine.execBkpt o s
  | .trap o => Sys2Proof.Machine.execTrap o s
  | .syscall o => Sys2Proof.Machine.execSyscall o s
  | .bra o => Sys2Proof.Machine.execBra o s
  | .brx o => Sys2Proof.Machine.execBrx o s
  | .call o => Sys2Proof.Machine.execCall o s
  | .ret o => Sys2Proof.Machine.execRet o s
  | .eret o => Sys2Proof.Machine.execEret o s
  | .exit o => Sys2Proof.Machine.execExit o s
  | .spawn o => Sys2Proof.Machine.execSpawn o s
  | .yield o => Sys2Proof.Machine.execYield o s
  | .bcol o => Sys2Proof.Machine.execBcol o s
  | .colrd o => Sys2Proof.Machine.execColrd o s
  | .mfsr o => Sys2Proof.Machine.execMfsr o s
  | .mtsr o => Sys2Proof.Machine.execMtsr o s
  | .barGrp o => Sys2Proof.Machine.execBarGrp o s
  | .barGang o => Sys2Proof.Machine.execBarGang o s
  | .signInit o => Sys2Proof.Machine.execSignInit o s
  | .signArv o => Sys2Proof.Machine.execSignArv o s
  | .signWait o => Sys2Proof.Machine.execSignWait o s
  | .rgn o => Sys2Proof.Machine.execRgn o s
  | .gcall o => Sys2Proof.Machine.execGcall o s
  | .gret o => Sys2Proof.Machine.execGret o s
  | .migr o => Sys2Proof.Machine.execMigr o s
  | .plop o => Sys2Proof.Machine.execPlop o s
  | .mov o => Sys2Proof.Machine.execMov o s
  | .movi o => Sys2Proof.Machine.execMovi o s
  | .sel o => Sys2Proof.Machine.execSel o s
  | .dcinit o => Sys2Proof.Machine.execDcinit o s
  | .dcadd o => Sys2Proof.Machine.execDcadd o s
  | .dcwait o => Sys2Proof.Machine.execDcwait o s
  | .tenq o => Sys2Proof.Machine.execTenq o s
  | .tdeq o => Sys2Proof.Machine.execTdeq o s
  | .tdone o => Sys2Proof.Machine.execTdone o s
  | .cbacq o => Sys2Proof.Machine.execCbacq o s
  | .cbrel o => Sys2Proof.Machine.execCbrel o s
  | .msend o => Sys2Proof.Machine.execMsend o s
  | .mrecv o => Sys2Proof.Machine.execMrecv o s
  | .tinv o => Sys2Proof.Machine.execTinv o s
  | .lpin o => Sys2Proof.Machine.execLpin o s
  | .lunpin o => Sys2Proof.Machine.execLunpin o s
  | .cflush o => Sys2Proof.Machine.execCflush o s
  | .cinv o => Sys2Proof.Machine.execCinv o s
  | .add o => Sys2Proof.Machine.execAdd o s
  | .sub o => Sys2Proof.Machine.execSub o s
  | .mul o => Sys2Proof.Machine.execMul o s
  | .mulhi o => Sys2Proof.Machine.execMulhi o s
  | .mad o => Sys2Proof.Machine.execMad o s
  | .abs o => Sys2Proof.Machine.execAbs o s
  | .neg o => Sys2Proof.Machine.execNeg o s
  | .min o => Sys2Proof.Machine.execMin o s
  | .max o => Sys2Proof.Machine.execMax o s
  | .and o => Sys2Proof.Machine.execAnd o s
  | .or o => Sys2Proof.Machine.execOr o s
  | .xor o => Sys2Proof.Machine.execXor o s
  | .not o => Sys2Proof.Machine.execNot o s
  | .shl o => Sys2Proof.Machine.execShl o s
  | .shr o => Sys2Proof.Machine.execShr o s
  | .shra o => Sys2Proof.Machine.execShra o s
  | .rot o => Sys2Proof.Machine.execRot o s
  | .bfi o => Sys2Proof.Machine.execBfi o s
  | .bfx o => Sys2Proof.Machine.execBfx o s
  | .brev o => Sys2Proof.Machine.execBrev o s
  | .clz o => Sys2Proof.Machine.execClz o s
  | .popc o => Sys2Proof.Machine.execPopc o s
  | .lea o => Sys2Proof.Machine.execLea o s
  | .idp4 o => Sys2Proof.Machine.execIdp4 o s
  | .cmpEq o => Sys2Proof.Machine.execCmpEq o s
  | .cmpNe o => Sys2Proof.Machine.execCmpNe o s
  | .cmpLt o => Sys2Proof.Machine.execCmpLt o s
  | .cmpLe o => Sys2Proof.Machine.execCmpLe o s
  | .cmpGt o => Sys2Proof.Machine.execCmpGt o s
  | .cmpGe o => Sys2Proof.Machine.execCmpGe o s
  | .fadd o => Sys2Proof.Machine.execFadd o s
  | .fsub o => Sys2Proof.Machine.execFsub o s
  | .fmul o => Sys2Proof.Machine.execFmul o s
  | .ffma o => Sys2Proof.Machine.execFfma o s
  | .fmin o => Sys2Proof.Machine.execFmin o s
  | .fmax o => Sys2Proof.Machine.execFmax o s
  | .fcvt o => Sys2Proof.Machine.execFcvt o s
  | .frnd o => Sys2Proof.Machine.execFrnd o s
  | .fcmpEq o => Sys2Proof.Machine.execFcmpEq o s
  | .fcmpNe o => Sys2Proof.Machine.execFcmpNe o s
  | .fcmpLt o => Sys2Proof.Machine.execFcmpLt o s
  | .fcmpLe o => Sys2Proof.Machine.execFcmpLe o s
  | .fcmpGt o => Sys2Proof.Machine.execFcmpGt o s
  | .fcmpGe o => Sys2Proof.Machine.execFcmpGe o s
  | .fcmpUn o => Sys2Proof.Machine.execFcmpUn o s
  | .fcmpOrd o => Sys2Proof.Machine.execFcmpOrd o s
  | .pack o => Sys2Proof.Machine.execPack o s
  | .unpack o => Sys2Proof.Machine.execUnpack o s
  | .rcp o => Sys2Proof.Machine.execRcp o s
  | .rsq o => Sys2Proof.Machine.execRsq o s
  | .sqrt o => Sys2Proof.Machine.execSqrt o s
  | .ex2 o => Sys2Proof.Machine.execEx2 o s
  | .lg2 o => Sys2Proof.Machine.execLg2 o s
  | .sin o => Sys2Proof.Machine.execSin o s
  | .cos o => Sys2Proof.Machine.execCos o s
  | .shflIdx o => Sys2Proof.Machine.execShflIdx o s
  | .shflUp o => Sys2Proof.Machine.execShflUp o s
  | .shflDown o => Sys2Proof.Machine.execShflDown o s
  | .shflXor o => Sys2Proof.Machine.execShflXor o s
  | .voteAny o => Sys2Proof.Machine.execVoteAny o s
  | .voteAll o => Sys2Proof.Machine.execVoteAll o s
  | .voteBallot o => Sys2Proof.Machine.execVoteBallot o s
  | .reduxAdd o => Sys2Proof.Machine.execReduxAdd o s
  | .reduxMin o => Sys2Proof.Machine.execReduxMin o s
  | .reduxMax o => Sys2Proof.Machine.execReduxMax o s
  | .reduxAnd o => Sys2Proof.Machine.execReduxAnd o s
  | .reduxOr o => Sys2Proof.Machine.execReduxOr o s
  | .reduxXor o => Sys2Proof.Machine.execReduxXor o s
  | .scanAdd o => Sys2Proof.Machine.execScanAdd o s
  | .scanMin o => Sys2Proof.Machine.execScanMin o s
  | .scanMax o => Sys2Proof.Machine.execScanMax o s
  | .scanAnd o => Sys2Proof.Machine.execScanAnd o s
  | .scanOr o => Sys2Proof.Machine.execScanOr o s
  | .scanXor o => Sys2Proof.Machine.execScanXor o s
  | .ld o => Sys2Proof.Machine.execLd o s
  | .st o => Sys2Proof.Machine.execSt o s
  | .stm o => Sys2Proof.Machine.execStm o s
  | .fence o => Sys2Proof.Machine.execFence o s
  | .cpy o => Sys2Proof.Machine.execCpy o s
  | .cpyCb o => Sys2Proof.Machine.execCpyCb o s
  | .ridge o => Sys2Proof.Machine.execRidge o s
  | .atomAdd o => Sys2Proof.Machine.execAtomAdd o s
  | .atomMin o => Sys2Proof.Machine.execAtomMin o s
  | .atomMax o => Sys2Proof.Machine.execAtomMax o s
  | .atomAnd o => Sys2Proof.Machine.execAtomAnd o s
  | .atomOr o => Sys2Proof.Machine.execAtomOr o s
  | .atomXor o => Sys2Proof.Machine.execAtomXor o s
  | .atomExch o => Sys2Proof.Machine.execAtomExch o s
  | .atomCas o => Sys2Proof.Machine.execAtomCas o s
  | .redAdd o => Sys2Proof.Machine.execRedAdd o s
  | .redMin o => Sys2Proof.Machine.execRedMin o s
  | .redMax o => Sys2Proof.Machine.execRedMax o s
  | .redAnd o => Sys2Proof.Machine.execRedAnd o s
  | .redOr o => Sys2Proof.Machine.execRedOr o s
  | .redXor o => Sys2Proof.Machine.execRedXor o s
  | .dsopAdd o => Sys2Proof.Machine.execDsopAdd o s
  | .dsopMin o => Sys2Proof.Machine.execDsopMin o s
  | .dsopMax o => Sys2Proof.Machine.execDsopMax o s
  | .dsopAnd o => Sys2Proof.Machine.execDsopAnd o s
  | .dsopOr o => Sys2Proof.Machine.execDsopOr o s
  | .dsopXor o => Sys2Proof.Machine.execDsopXor o s
  | .dsopFma o => Sys2Proof.Machine.execDsopFma o s
  | .dsredAdd o => Sys2Proof.Machine.execDsredAdd o s
  | .dsredMin o => Sys2Proof.Machine.execDsredMin o s
  | .dsredMax o => Sys2Proof.Machine.execDsredMax o s
  | .dsredAnd o => Sys2Proof.Machine.execDsredAnd o s
  | .dsredOr o => Sys2Proof.Machine.execDsredOr o s
  | .dsredXor o => Sys2Proof.Machine.execDsredXor o s
  | .dsredAddRet o => Sys2Proof.Machine.execDsredAddRet o s
  | .dsredMinRet o => Sys2Proof.Machine.execDsredMinRet o s
  | .dsredMaxRet o => Sys2Proof.Machine.execDsredMaxRet o s
  | .dsredAndRet o => Sys2Proof.Machine.execDsredAndRet o s
  | .dsredOrRet o => Sys2Proof.Machine.execDsredOrRet o s
  | .dsredXorRet o => Sys2Proof.Machine.execDsredXorRet o s
  | .mma o => Sys2Proof.Machine.execMma o s
  | .adrain o => Sys2Proof.Machine.execAdrain o s
  | .adrainByp o => Sys2Proof.Machine.execAdrainByp o s
  | .azero o => Sys2Proof.Machine.execAzero o s
  | .tld o => Sys2Proof.Machine.execTld o s
  | .tst o => Sys2Proof.Machine.execTst o s
  | .txp o => Sys2Proof.Machine.execTxp o s
  | .tperm o => Sys2Proof.Machine.execTperm o s
  | .trred o => Sys2Proof.Machine.execTrred o s
  | .illegalEncoding err => Sys2Proof.Machine.execIllegalEncoding err s
  | .lineFill u line x1 x2 => Sys2Proof.Machine.execLineFill u line x1 x2 s
  | .longLatencyReturn u idx ecc => Sys2Proof.Machine.execLongLatencyReturn u idx ecc s
  | .waitResume u slot fibre => Sys2Proof.Machine.execWaitResume u slot fibre s
  | .issueOpportunity u gather => Sys2Proof.Machine.execIssueOpportunity u gather s
  | .colwaitResume u slot => Sys2Proof.Machine.execColwaitResume u slot s
  | .drowsyEntry u slot => Sys2Proof.Machine.execDrowsyEntry u slot s
  | .storeApply die idx => Sys2Proof.Machine.execStoreApply die idx s
  | .leaseExpiry u line => Sys2Proof.Machine.execLeaseExpiry u line s
  | .scTicket idx => Sys2Proof.Machine.execScTicket idx s
  | .directoryRequest die line core kind => Sys2Proof.Machine.execDirectoryRequest die line core kind s
  | .invack die line core => Sys2Proof.Machine.execInvack die line core s
  | .ownerAck die line core => Sys2Proof.Machine.execOwnerAck die line core s
  | .putRequest die line core => Sys2Proof.Machine.execPutRequest die line core s
  | .invReceive die line core => Sys2Proof.Machine.execInvReceive die line core s
  | .fwdGets die line core => Sys2Proof.Machine.execFwdGets die line core s
  | .fwdGetx die line core => Sys2Proof.Machine.execFwdGetx die line core s
  | .grantOrData die line core => Sys2Proof.Machine.execGrantOrData die line core s
  | .putack die line core => Sys2Proof.Machine.execPutack die line core s
  | .dsmBankOperation die idx => Sys2Proof.Machine.execDsmBankOperation die idx s
  | .copyRegister u idx => Sys2Proof.Machine.execCopyRegister u idx s
  | .copyLaneComplete u idx => Sys2Proof.Machine.execCopyLaneComplete u idx s
  | .cbClaim u idx => Sys2Proof.Machine.execCbClaim u idx s
  | .cbSlotFilled u slot block => Sys2Proof.Machine.execCbSlotFilled u slot block s
  | .copySourceError u idx piece => Sys2Proof.Machine.execCopySourceError u idx piece s
  | .matrixEntryStart u => Sys2Proof.Machine.execMatrixEntryStart u s
  | .matrixEntryComplete u idx => Sys2Proof.Machine.execMatrixEntryComplete u idx s
  | .drainWriteComplete u idx => Sys2Proof.Machine.execDrainWriteComplete u idx s
  | .tldComplete u idx bad => Sys2Proof.Machine.execTldComplete u idx bad s
  | .tstComplete u idx => Sys2Proof.Machine.execTstComplete u idx s
  | .watchedStore vf slot value => Sys2Proof.Machine.execWatchedStore vf slot value s
  | .pendingLaunchEntry die => Sys2Proof.Machine.execPendingLaunchEntry die s
  | .tenqEntry die => Sys2Proof.Machine.execTenqEntry die s
  | .taskDispatch u => Sys2Proof.Machine.execTaskDispatch u s
  | .reservingTimeout task => Sys2Proof.Machine.execReservingTimeout task s
  | .reservationComplete task => Sys2Proof.Machine.execReservationComplete task s
  | .hintTimeout task => Sys2Proof.Machine.execHintTimeout task s
  | .deferredGroupStart u slot => Sys2Proof.Machine.execDeferredGroupStart u slot s
  | .groupEnd u slot => Sys2Proof.Machine.execGroupEnd u slot s
  | .taskDrainComplete task => Sys2Proof.Machine.execTaskDrainComplete task s
  | .launchComplete launch => Sys2Proof.Machine.execLaunchComplete launch s
  | .startBlockGo die sc => Sys2Proof.Machine.execStartBlockGo die sc s
  | .registerPortRead die => Sys2Proof.Machine.execRegisterPortRead die s
  | .registerPortWrite die => Sys2Proof.Machine.execRegisterPortWrite die s
  | .responseResume die tag => Sys2Proof.Machine.execResponseResume die tag s
  | .responseSkip die tag => Sys2Proof.Machine.execResponseSkip die tag s
  | .responseRedirect die tag target => Sys2Proof.Machine.execResponseRedirect die tag target s
  | .responseKill die tag => Sys2Proof.Machine.execResponseKill die tag s
  | .preqRequest die domain cores => Sys2Proof.Machine.execPreqRequest die domain cores s
  | .preqRelease die domain => Sys2Proof.Machine.execPreqRelease die domain s
  | .graceTimerExpiry die domain => Sys2Proof.Machine.execGraceTimerExpiry die domain s
  | .saveTimerExpiry die domain => Sys2Proof.Machine.execSaveTimerExpiry die domain s
  | .savedTaskRestore task => Sys2Proof.Machine.execSavedTaskRestore task s
  | .discardRestart task => Sys2Proof.Machine.execDiscardRestart task s
  | .vfReset vf => Sys2Proof.Machine.execVfReset vf s
  | .shootdownRetract die => Sys2Proof.Machine.execShootdownRetract die s
  | .shootdownCommit die => Sys2Proof.Machine.execShootdownCommit die s
  | .retractReceive die sd => Sys2Proof.Machine.execRetractReceive die sd s
  | .retractAck die sd => Sys2Proof.Machine.execRetractAck die sd s
  | .retractAckReceive die sd => Sys2Proof.Machine.execRetractAckReceive die sd s
  | .commitReceive die sd => Sys2Proof.Machine.execCommitReceive die sd s
  | .shootdownTimeout die sd => Sys2Proof.Machine.execShootdownTimeout die sd s
  | .satusDeliver idx => Sys2Proof.Machine.execSatusDeliver idx s
  | .walkComplete u pasid va domain => Sys2Proof.Machine.execWalkComplete u pasid va domain s
  | .hostWalkReply u pasid va domain entry => Sys2Proof.Machine.execHostWalkReply u pasid va domain entry s
  | .migrationCommit u slot => Sys2Proof.Machine.execMigrationCommit u slot s
  | .heartbeat die => Sys2Proof.Machine.execHeartbeat die s
  | .linkSilenceTimeout die nbr => Sys2Proof.Machine.execLinkSilenceTimeout die nbr s
  | .linkUncorrectableError die nbr => Sys2Proof.Machine.execLinkUncorrectableError die nbr s
  | .fatalErrorSignal die nbr => Sys2Proof.Machine.execFatalErrorSignal die nbr s
  | .suspicionReport die nbr => Sys2Proof.Machine.execSuspicionReport die nbr s
  | .masterSilenceTimeout => Sys2Proof.Machine.execMasterSilenceTimeout s
  | .diefail die failed => Sys2Proof.Machine.execDiefail die failed s
  | .masterReceive die newMaster => Sys2Proof.Machine.execMasterReceive die newMaster s
  | .islandReset die k => Sys2Proof.Machine.execIslandReset die k s
  | .islandPowerGate die k => Sys2Proof.Machine.execIslandPowerGate die k s
  | .islandPowerUp die k => Sys2Proof.Machine.execIslandPowerUp die k s
  | .clampDrainTimeout die k => Sys2Proof.Machine.execClampDrainTimeout die k s
  | .partitionSet die k part => Sys2Proof.Machine.execPartitionSet die k part s
  | .svccapWrite die value => Sys2Proof.Machine.execSvccapWrite die value s
  | .leasecfgWrite die value => Sys2Proof.Machine.execLeasecfgWrite die value s
  | .dsmOwnerWrite die seg value => Sys2Proof.Machine.execDsmOwnerWrite die seg value s
  | .slotMapWrite u slot value => Sys2Proof.Machine.execSlotMapWrite u slot value s
  | .courseTableWrite die course value => Sys2Proof.Machine.execCourseTableWrite die course value s
  | .markScrubPending die first count => Sys2Proof.Machine.execMarkScrubPending die first count s
  | .scrubStep die => Sys2Proof.Machine.execScrubStep die s
  | .patrolScrub die line => Sys2Proof.Machine.execPatrolScrub die line s
  | .softError err => Sys2Proof.Machine.execSoftError err s
  | .fabricWriteReceive pkt => Sys2Proof.Machine.execFabricWriteReceive pkt s
  | .ridgeReceive pkt => Sys2Proof.Machine.execRidgeReceive pkt s
  | .ridgeApply die course => Sys2Proof.Machine.execRidgeApply die course s
  | .atomicPacketReceive pkt => Sys2Proof.Machine.execAtomicPacketReceive pkt s
  | .atomicResponseReceive pkt => Sys2Proof.Machine.execAtomicResponseReceive pkt s
  | .loadPacketReceive pkt => Sys2Proof.Machine.execLoadPacketReceive pkt s
  | .resendRequestReceive pkt => Sys2Proof.Machine.execResendRequestReceive pkt s
  | .digestReceive u slot low broken mark => Sys2Proof.Machine.execDigestReceive u slot low broken mark s
  | .digestPeriod die => Sys2Proof.Machine.execDigestPeriod die s
  | .lostPacketTimeout die course => Sys2Proof.Machine.execLostPacketTimeout die course s
  | .confirmationTimeout u slot => Sys2Proof.Machine.execConfirmationTimeout u slot s
  | .atomicResendTimeout u slot tag => Sys2Proof.Machine.execAtomicResendTimeout u slot tag s
  | .courseAllocation pkt => Sys2Proof.Machine.execCourseAllocation pkt s
  | .courseClose pkt => Sys2Proof.Machine.execCourseClose pkt s
  | .dieStart die pass => Sys2Proof.Machine.execDieStart die pass s
  | .masterElection => Sys2Proof.Machine.execMasterElection s
  | .quoteRequest pf nonceAddr resultAddr nonce => Sys2Proof.Machine.execQuoteRequest pf nonceAddr resultAddr nonce s
  | .supplySag die => Sys2Proof.Machine.execSupplySag die s
  | .supplyRecovery die => Sys2Proof.Machine.execSupplyRecovery die s
  | .checkpointHold => Sys2Proof.Machine.execCheckpointHold s
  | .checkpointStopped => Sys2Proof.Machine.execCheckpointStopped s
  | .checkpointRelease => Sys2Proof.Machine.execCheckpointRelease s
  | .restoreCommand pf pkg diecaps image => Sys2Proof.Machine.execRestoreCommand pf pkg diecaps image s
  | .registerWrite die off value size => Sys2Proof.Machine.execRegisterWrite die off value size s
  | .leaseGrant die idx => Sys2Proof.Machine.execLeaseGrant die idx s
  | .homeStoreArrival die idx => Sys2Proof.Machine.execHomeStoreArrival die idx s
  | .linkCreditReturn u slot bytes cwnd => Sys2Proof.Machine.execLinkCreditReturn u slot bytes cwnd s
  | .hostMemoryAccess die off size write => Sys2Proof.Machine.execHostMemoryAccess die off size write s
  | .clockSlowing die k fstep => Sys2Proof.Machine.execClockSlowing die k fstep s
  | .islandResetEnd die k => Sys2Proof.Machine.execIslandResetEnd die k s

end Sys2Proof.Machine
end

