-- ==== Sys2Proof/Machine/Time.lean ====
section
/-! DEFINITION. Package time (R24). -/

namespace Sys2Proof.Machine

/-- The counters stand within 4 ns of each other (R24). -/
def inStep (l : List Nat) : Bool := l.all fun a => l.all fun b => a ≤ b + 4

/-- The time at which a request pending at a die is applied there: T, or the end of a replica's leases (R167, R181). -/
def dueAt (s : State) (d : Nat) (f : Flight) : Nat :=
  if paDie f.pa = d then f.t else sgetD (s.die d).horizon (lineIx f.pa) 0
/-- A die's counter may go on to a time: a home applies a pending request when its counter reaches T, and not later (R167). -/
def mayPass (s : State) (d t : Nat) : Bool :=
  s.flights.all fun f => !(f.arrived && f.applyDies.contains d && paPkg f.pa == s.pkg) || decide (t ≤ Nat.max (s.now d) (dueAt s d f))

/-- The passing of package time: die d's counter gains entry d of `ns`. A passage that would carry two counters of live dies
more than 4 ns apart, or one past the time of a request that is pending there, does not happen (R24, R167). -/
def elapse (ns : List Nat) (s : State) : State :=
  let live := (List.range 8).filter fun d => (s.die d).alive
  if inStep (live.map fun d => s.now d + ns.getD d 0) && live.all fun d => mayPass s d (s.now d + ns.getD d 0) then
    { s with dies := s.dies.map fun e => (e.1, { e.2 with time := e.2.time + ns.getD e.1 0 }) }
  else s

end Sys2Proof.Machine
end

