-- ==== Sys2Proof/Machine/Step.lean ====
section
/-! DEFINITION. One step of the package: the next act of the world, or else the execution that is being issued, or else the next
issue opportunity. -/

namespace Sys2Proof.Machine

/-- After an execution nothing is being issued. -/
def endIssue (r : Host.Outcome State Fault Refusal) : Host.Outcome State Fault Refusal :=
  match r with
  | .next s => .next { s with cur := none }
  | .fault f => .fault f
  | .refused x => .refused x

/-- The execution that is being issued: fetch, decode, then its meaning (R104, R118). -/
def stepIssue (s : State) : Host.Outcome State Fault Refusal :=
  match fetchSheaf s with
  | .gone => .next { s with cur := none }
  | .fault cause a => .next { s.faultSheaf cause 0 a with cur := none }
  | .wait w => .next { s.blockSheaf w with cur := none }
  | .miss u line => exec (.lineFill u line [] []) s
  | .line x k conv sup =>
    match decodeFor x k conv sup with
    | .ok i => endIssue (exec i (s.readied i))
    | .error e => endIssue (exec (.illegalEncoding e) s)

/-- The core unit after `u` that has a resident group; `u` itself when there is none. -/
def nextTurn (s : State) (u : Nat) : Nat :=
  let us := (s.cores.filter fun e => !e.2.slots.isEmpty).map (·.1)
  match us.find? fun v => decide (u < v) with
  | some v => v
  | none => us.headD u

/-- What an act from outside the package's own machinery does: the passing of time, and the acts of the host, the supervisor, other
packages and the physical world that the table's events leave out. An event is not among them. -/
def outside (s : State) : Input → State
  | .event _ | .issue => s
  | .elapse ns => elapse ns s
  | .registerHeader d dom pasid va trap => registerHeader s d dom pasid va trap
  | .evqWrite d v => if stepPassed s d 7 then s.modDie d fun x => { x with evq := v } else s
  | .windowStore vf => windowStore s vf
  | .windowLoad vf => windowLoad s vf
  | .stepClear d i => stepClear s d i
  | .flashImage d slot image => flashImage s d slot image
  | .stackError d line ok => strikeLine s d line ok
  | .rackWrite pa bytes => { s with rack := bytesSet s.rack pa bytes }
  | .courseRequest u dom pkg die => requestCourse s u dom pkg die
  | .slotDrain u n => drainSlot s u n
  | .badDigest d => badDigest s d
  | .linkState a b up => setLink s a b up
  | .dieFails d => s.modDie d fun x => { x with alive := false }
  | .retireChannel d stack ch => retireChannel s d stack ch
  | .supplyUp d => supplyUp s d

/-- The package's own turn: the execution that is being issued, or the next issue opportunity. -/
def stepOwn (s : State) : Host.Outcome State Fault Refusal :=
  match s.cur with
  | some _ => stepIssue s
  | none => exec (.issueOpportunity s.turn []) { s with turn := nextTurn s s.turn }

/-- One step: the next act of the schedule, in which the package's own turns stand among the events and the acts from outside; when
it is empty the package goes on alone. -/
def step (s : State) : Host.Outcome State Fault Refusal :=
  match s.schedule with
  | .event i :: t => if i.view.isNone then exec i { s with schedule := t } else .next { s with schedule := t }
  | .issue :: t => stepOwn { s with schedule := t }
  | i :: t => .next (outside { s with schedule := t } i)
  | [] => stepOwn s

/-- The header of the group that `withFetchWord` places: every class at its largest count. -/
def probeHeader : Header :=
  { kent := 0, kscr := 32768, kgrps := 1, kfibs := 1, kregs := 256, kuni := 64, ktiles := 16, kaccs := 8, kconv := 16,
    trapClass := false, kframe := 0, hints := [] }

/-- The page entry of `withFetchWord`: a leaf at physical address 0 with every access allowed. -/
def probeEntry : TlbEntry :=
  { pasid := 0, domain := 0, vpage := 0, big := false, entry := BitVec.ofNat 128 (2 * 2 ^ 62 + 7 * 2 ^ 59) }

/-- `s` with the instruction of `w` next to run: group slot 0 of core 0 holds one ready fibre at address 0, the fetch line of
address 0 is in the core's instruction cache and begins with the instruction's parcels, its page is in the translation cache,
and that fibre is being issued. The fibre is in supervisor mode only for a supervisor-only instruction. -/
def State.withFetchWord (s : State) (nbits w : Nat) : State :=
  let ps := tableParcels nbits w
  let sup := match decodeLine 16 ps 0 with
    | .ok i => supervisorOnly i
    | .error _ => false
  let g : Group := { hdr := probeHeader, fibres := [(0, { pc := 0, sup := sup })], vbase := 0, banks := [0] }
  { s.modCore 0 fun c => { c with slots := sset c.slots 0 g, icache := sset c.icache 0 ps, tlb := probeEntry :: c.tlb } with
    cur := some { u := 0, slot := 0, fibres := [0], pc := 0 }, schedule := [] }

end Sys2Proof.Machine
end

