-- ==== Sys2Proof/Safety.lean ====
section
/-! DEFINITION. What counts as a safe run, and the terms in which the statements speak of an execution: who takes part in it, and
the state in which it leaves its fibres. -/

namespace Sys2Proof

open Machine

/-- The data invariant: memory is in its canonical form. -/
def Inv (s : State) : Prop := Memory.wf s.mem = true

/-- `s` reaches `t` in `n` steps, each of which answers a next state. -/
def reaches : Nat → State → State → Prop
  | 0, s, t => s = t
  | n + 1, s, t => ∃ u, step s = .next u ∧ reaches n u t

/-- An execution that is being issued, in the context `c` (R35): its fibres are distinct, and no predicate that its guard reads is
pending (R54). -/
structure Issued (s : State) (g : Guard) (c : Ctx) : Prop where
  ctx : s.ctx = some c
  distinct : (c.lanes.map (·.id)).Nodup
  settled : ∀ ln ∈ c.lanes, ln.f.predPend.getLsbD g.p.toNat = false

/-- A lane of the execution whose guard holds (R106). -/
def Active (g : Guard) (c : Ctx) (ln : Lane) : Prop := ln ∈ c.lanes ∧ guardTrue g ln.f = true

/-- The state in which an execution of `len` parcels leaves the machine: every fibre of the execution stands at the next
instruction, the fibres whose guard holds are changed by `F` as well, and `us` changes the group's uniform registers. All else is
as before. -/
def lanesDone (s : State) (c : Ctx) (g : Guard) (len : Nat) (us : SMap Reg → SMap Reg) (F : Lane → Fibre → Fibre) : State :=
  s.modGroup c.u c.slot fun gr =>
    { gr with
      uregs := us gr.uregs
      fibres := gr.fibres.map fun e =>
        match c.lanes.find? (fun ln => ln.id == e.1) with
        | none => e
        | some ln =>
          (e.1, if guardTrue g ln.f then F ln { e.2 with pc := nextPc c.pc len } else { e.2 with pc := nextPc c.pc len }) }

/-- Registers written in order: each becomes full with its value (R54, R57). -/
def putRegs (m : SMap Reg) : List (Nat × Nat × Word) → SMap Reg
  | [] => m
  | (_, n, v) :: t => putRegs (sset m n { val := v, st := .full }) t

/-- What an effect makes of its own fibre: vector registers, predicates, sticky flags, and a transfer of control. -/
def effOn (e : Eff) (f : Fibre) : Fibre :=
  let f1 := e.preds.foldl (fun f p => f.setPred p.1 p.2) { f with regs := putRegs f.regs e.regs }
  { f1 with flags := f1.flags ||| e.flags, pc := match e.pc with
    | some p => alignPc p
    | none => f1.pc }

/-- The state after an execution in which lane `ln` has the effect `E ln`. With DU = 1 the first active lane's registers are the
group's uniform registers, written once (R111). -/
def effDone (s : State) (c : Ctx) (g : Guard) (len : Nat) (du : Bool) (E : Lane → Eff) : State :=
  if du then
    lanesDone s c g len
      (fun m => match c.lanes.find? (fun ln => guardTrue g ln.f) with
        | none => m
        | some ln => putRegs m (E ln).regs)
      fun ln => effOn { E ln with regs := [] }
  else lanesDone s c g len id fun ln => effOn (E ln)

/-- Every fibre of the execution has moved on, and nothing else has changed. -/
def moved (s : State) (c : Ctx) (g : Guard) (len : Nat) : State := lanesDone s c g len id fun _ f => f

/-- The state after an execution of `len` parcels that lane `first` ends with a fault (R7, R247): every active fibre stops FAULTED at
the instruction with the reported fault in FCAUSE, FADDR and FPC, the inactive fibres of the execution have moved on, and one
service record has been sent (R249). -/
def stoppedAt (s : State) (c : Ctx) (g : Guard) (len : Nat) (first : Lane) (cause sub addr : Nat) : State :=
  State.sendRecord
    (s.modGroup c.u c.slot fun gr =>
      { gr with
        fibres := gr.fibres.map fun e =>
          match c.lanes.find? (fun ln => ln.id == e.1) with
          | none => e
          | some ln =>
            (e.1, if guardTrue g ln.f then
                { e.2 with fcause := fcauseWord first.l sub cause, faddr := BitVec.ofNat 64 addr, fpc := c.pc, faulted := true,
                           wait := none, charged := false }
              else { e.2 with pc := nextPc c.pc len }) })
    (dieOf c.u)
    { tag := 0, fcause := fcauseWord first.l sub cause, who := whoWord c.u c.slot first.id, faddr := BitVec.ofNat 64 addr,
      fpc := c.pc, domain := if cause = Cause.machineCheck || isSupCore c.u then 0 else domainOf c.g first.f, u := c.u,
      slot := c.slot, fibres := (activeOf g c.lanes).map (·.id) }

/-- The active lanes with what each computed, in lane order. -/
def passedWith {α : Type} (g : Guard) (c : Ctx) (V : Lane → α) : List (Lane × α) :=
  (activeOf g c.lanes).map fun ln => (ln, V ln)

/-- The answer of an execution whose fibres have all moved on and whose active lanes then act on the machine one after another, in
lane order. -/
def ranInOrder {α : Type} (s : State) (c : Ctx) (g : Guard) (len : Nat) (V : Lane → α) (act : State → Lane → α → State) : Answer :=
  .next ((passedWith g c V).foldl (fun s x => act s x.1 x.2) (moved s c g len))

/-- The state after one lane's signing (R37 to R40, R247). A lane that must wait, or whose signing is refused, stands at the
instruction again. The refused signer alone faults. -/
def joined (c : Ctx) (s : State) (ln : Lane) (e : SignEnd) : State :=
  match e with
  | .done t => t
  | .block w => (s.modFibre c.u c.slot ln.id fun f => { f with pc := c.pc }).modFibre c.u c.slot ln.id fun f => { f with wait := some w }
  | .refuse cause sub addr =>
    (s.modFibre c.u c.slot ln.id fun f => { f with pc := c.pc }).takeFault c.u c.slot [ln.id] ln.id ln.l cause sub addr c.pc

/-- The lane is the first active one. -/
def FirstActive (g : Guard) (c : Ctx) (ln : Lane) : Prop :=
  ∃ l1 l2, c.lanes = l1 ++ ln :: l2 ∧ guardTrue g ln.f = true ∧ ∀ x ∈ l1, guardTrue g x.f = false

/-- The answer of an execution of format T or I that writes `v ln` to its destination in each active lane: one register, or a pair
for .i64; with DU = 1 the first active lane's value to the uniform register, once (R111, R322). -/
def wrote (s : State) (c : Ctx) (o : OpT) (v : Lane → DWord) : Answer :=
  .next (effDone s c o.g o.len o.du fun ln => { regs := destWrites (o.ty = 2) (clsOf o.du) o.d.toNat (v ln) })

/-- The answer of a floating-point execution: a code in one register, and the flags it raises in each active lane's fibre (R91). -/
def wroteFloat (s : State) (c : Ctx) (o : OpT) (r : Lane → Nat × BitVec 5) : Answer :=
  .next (effDone s c o.g o.len o.du fun ln =>
    { regs := [(clsOf o.du, o.d.toNat, BitVec.ofNat 32 (r ln).1)], flags := (r ln).2 })

/-- The answer of an execution that writes predicate `n` in each active lane. -/
def wrotePred (s : State) (c : Ctx) (g : Guard) (len n : Nat) (v : Lane → Bool) : Answer :=
  .next (effDone s c g len false fun ln => { preds := [(n, v ln)] })

/-- The state after long-latency producers (R55): each lane's destination is empty, and a return holds the value and the flags that
LONG_LATENCY_RETURN will write; FSTAT accesses wait for it (R92). -/
def owes (s : State) (c : Ctx) (cls d : Nat) (vs : List (Lane × Word × BitVec 5)) : State :=
  vs.foldl (fun s x => (s.setEmpty c.u c.slot x.1.id cls d).addReturn c.u
    { id := 0, slot := c.slot, fibre := x.1.id, dests := [(cls, d, x.2.1)], flags := x.2.2, holdsFlags := true }) s

/-- The same of an execution that writes one uniform register with DU = 1: the first active lane's value goes there, and the flags of
the others still land in their own fibres (R91, R92, R111). -/
def owesOnce (s : State) (c : Ctx) (cls d : Nat) : List (Lane × Word × BitVec 5) → State
  | [] => s
  | x :: t => t.foldl (fun s x => s.addReturn c.u
      { id := 0, slot := c.slot, fibre := x.1.id, dests := [], flags := x.2.2, holdsFlags := true }) (owes s c cls d [x])

/-- The lanes that a destination with or without DU is written for: with DU = 1 the first active lane alone (R111). -/
def writers {α : Type} (du : Bool) (l : List α) : List α := if du then l.take 1 else l

/-- In every active lane `k` registers from the destination on can be written: inside the window, and owed no earlier value
(R52, R56). -/
def DestsFree (c : Ctx) (o : OpT) (k : Nat) : Prop :=
  ∀ ln, Active o.g c ln → destsReady c ln.f (clsOf o.du) o.d.toNat k = .ok ()

/-- The destination of a typed entry, a pair for .i64, can be written. -/
def DestFree (c : Ctx) (o : OpT) : Prop := DestsFree c o (if o.ty = 2 then 2 else 1)

/-- Every active lane reads `a` from source A, a pair for .i64. -/
def ReadsA (c : Ctx) (o : OpT) (a : Lane → DWord) : Prop :=
  ∀ ln, Active o.g c ln → srcTyped c ln.f (o.ty = 2) o.ua o.a = .ok (a ln)

/-- Every active lane reads `b` from source B or the literal, a pair for .i64. -/
def ReadsB (c : Ctx) (o : OpT) (b : Lane → DWord) : Prop :=
  ∀ ln, Active o.g c ln → srcBTyped c ln.f (o.ty = 2) o = .ok (b ln)

/-- Every active lane reads `x` from source C, a pair for .i64. -/
def ReadsC (c : Ctx) (o : OpT) (x : Lane → DWord) : Prop :=
  ∀ ln, Active o.g c ln → srcTyped c ln.f (o.ty = 2) o.uc (srcC o) = .ok (x ln)

/-- Every active lane reads one 32-bit register from source A. -/
def ReadsA32 (c : Ctx) (o : OpT) (a : Lane → Word) : Prop := ∀ ln, Active o.g c ln → srcA c ln.f o = .ok (a ln)

/-- Every active lane reads one 32-bit register or the literal from source B. -/
def ReadsB32 (c : Ctx) (o : OpT) (b : Lane → Word) : Prop := ∀ ln, Active o.g c ln → srcB c ln.f o = .ok (b ln)

end Sys2Proof
end

