-- ==== Sys2Proof/Certificates/Slice0/Obligations.lean ====
section
/-! DEFINITION. The statements about the model, for the provers. Each docstring names the rule of the spec it formalises. -/

open Sys2Proof Sys2Proof.Machine

/-- R97, R98, R105, R109 to R118: decode after encode is the identity on well-formed instructions. -/
def Obligations.DecodeEncodeRoundTrip : Prop :=
  ∀ (i : Instr) (p0 p1 p2 : Word) (k : Nat), i.wf = true → encode i = some (p0, p1, p2) → k + parcelCount p0 ≤ 15 →
    decodeAt 16 k p0 p1 p2 = .ok i

/-- R97, R98, R105, R109 to R118: encode after decode gives the parcels that the instruction takes. -/
def Obligations.EncodeDecodeRoundTrip : Prop :=
  ∀ (i : Instr) (conv k : Nat) (p0 p1 p2 : Word), decodeAt conv k p0 p1 p2 = .ok i →
    k + parcelCount p0 ≤ 15 ∧
    ∃ q1 q2, encode i = some (p0, q1, q2) ∧ (2 ≤ parcelCount p0 → q1 = p1) ∧ (parcelCount p0 = 3 → q2 = p2)

/-- R62, R118, R119: the decode checks in their order, and the instructions that check 7 keeps for supervisor mode. -/
def Obligations.DecodeChecks : Prop :=
  (∀ (conv k : Nat) (p0 p1 p2 : Word),
    let len := (field 0 2 p0).toNat
    let opc := (field 2 9 p0).toNat
    (len = 3 → decodeAt conv k p0 p1 p2 = .error (.illegal 1 0 0)) ∧
    (len ≠ 3 → 15 < k + len + 1 → decodeAt conv k p0 p1 p2 = .error (.illegal 1 0 0)) ∧
    (len ≠ 3 → k + len + 1 ≤ 15 →
      (opcodeFormats opc = none → decodeAt conv k p0 p1 p2 = .error (.illegal 0 0 2)) ∧
      ∀ f, opcodeFormats opc = some f →
        (f.allows len = false → decodeAt conv k p0 p1 p2 = .error (.illegal 1 0 0)) ∧
        (f.allows len = true → ∀ i, instrOf opc (operandsOf f len p0 p1 p2) = some i →
          decodeAt conv k p0 p1 p2 = match illegalField conv i with
            | some e => .error e
            | none => .ok i))) ∧
  (∀ (x : Line) (k conv : Nat) (sup : Bool) (i : Instr), decodeLine conv x k = .ok i →
    decodeFor x k conv sup = if supervisorOnly i = true ∧ sup = false then .error .priv else .ok i) ∧
  ∀ i : Instr, supervisorOnly i = true ↔
    (∃ o, i = .eret o) ∨ (∃ o, i = .msend o ∨ i = .mrecv o) ∨
    (∃ o, i = .tinv o ∨ i = .lpin o ∨ i = .lunpin o ∨ i = .cflush o ∨ i = .cinv o) ∨
    (∃ o, i = .mfsr o ∧ ((0x010 ≤ o.csrn.toNat ∧ o.csrn.toNat ≤ 0x012) ∨ (0x080 ≤ o.csrn.toNat ∧ o.csrn.toNat ≤ 0x087) ∨
      o.csrn.toNat = 0x089 ∨ o.csrn.toNat = 0x090)) ∨
    ∃ o, i = .mtsr o ∧ ((0x010 ≤ o.csrn.toNat ∧ o.csrn.toNat ≤ 0x012) ∨ (0x040 ≤ o.csrn.toNat ∧ o.csrn.toNat ≤ 0x07F) ∨
      (0x080 ≤ o.csrn.toNat ∧ o.csrn.toNat ≤ 0x087) ∨ o.csrn.toNat = 0x089 ∨ o.csrn.toNat = 0x090)

/-- Encodings that the spec writes out, as it writes them. -/
def Obligations.DecodedWords : Prop :=
  let always : Guard := ⟨false, 7⟩
  decodeTableWord 64 0x088C01050184BA01 = some (.fadd
    { g := always, d := 9, a := ⟨false, 3⟩, b := ⟨true, 5⟩, c := 0, ty := 3, rnd := 2, sat := false, ua := false, ub := true,
      uc := false, du := false, rsv := 0, lit := none }) ∧
  decodeTableWord 96 0x000000000000B86E = some (.movi
    { g := always, d := 1, a := ⟨false, 0⟩, b := ⟨false, 0⟩, c := 0, ty := 0, rnd := 0, sat := false, ua := false, ub := false,
      uc := false, du := false, rsv := 0, lit := some 0 }) ∧
  decodeTableWord 96 0x00000003000000008080B902 = some (.add
    { g := always, d := 1, a := ⟨true, 1⟩, b := ⟨false, 0⟩, c := 0, ty := 0, rnd := 0, sat := false, ua := false, ub := false,
      uc := false, du := false, rsv := 0, lit := some 3 }) ∧
  decodeTableWord 64 0x0000010900023915 = some (.abs
    { g := always, d := 4, a := ⟨false, 0⟩, b := ⟨true, 9⟩, c := 0, ty := 0, rnd := 0, sat := false, ua := false, ub := false,
      uc := false, du := false, rsv := 0, lit := none }) ∧
  decodeTableWord 64 0x000001028080B969 = some (.cmpLt
    { g := always, d := 1, a := ⟨true, 1⟩, b := ⟨true, 2⟩, c := 0, ty := 0, rnd := 0, sat := false, ua := false, ub := false,
      uc := false, du := false, rsv := 0, lit := none }) ∧
  decodeTableWord 64 0x0854010785033B21 = some (.atomAdd
    { g := always, d := 6, a := ⟨true, 10⟩, b := ⟨true, 7⟩, ty := 0, raw := false, space := 0, scope := 4, ord := 2, size := 2,
      ua := false, ub := false, off := 2, off32 := none }) ∧
  decodeTableWord 64 0x0000008809903BC1 = some (.mma
    { g := always, cv := 0, t1 := 2, t2 := 3, ac := 1, rsv1 := 0, fa := 8, fb := 8, md := 0, b := ⟨false, 0⟩, ub := false,
      rsv2 := 0 }) ∧
  decodeTableWord 64 0x000000F300083855 = some (.rgn { g := always, base := 16, rsv := 0, mask := 0xF3 }) ∧
  decodeTableWord 96 0x0000000C003C06000004385A = some (.gcall
    { g := always, d := 8, a := ⟨false, 0⟩, b := ⟨false, 0⟩, c := 3, ty := 15, rnd := 0, sat := false, ua := false, ub := false,
      uc := false, du := false, rsv := 0, lit := some 12 }) ∧
  decodeTableWord 64 0x000000228200383D = some (.mtsr
    { g := always, d := 0, a := ⟨true, 4⟩, csrn := 0x22, du := false, ua := false, rsv := 0 }) ∧
  decodeTableWord 32 0x8845B864 = some (.plop { g := always, pd := 3, pa := 1, pb := 2, lut := 0x88 }) ∧
  decodeTableWord 96 0x00000004003C02000000384A = some (.signInit
    { g := always, d := 0, a := ⟨false, 0⟩, b := ⟨false, 0⟩, c := 1, ty := 15, rnd := 0, sat := false, ua := false, ub := false,
      uc := false, du := false, rsv := 0, lit := some 4 }) ∧
  decodeTableWord 64 0x001C1E0000003B0D = some (.fence
    { g := always, d := 0, a := ⟨false, 0⟩, b := ⟨false, 0⟩, ty := 15, raw := false, space := 0, scope := 4, ord := 3, size := 0,
      ua := false, ub := false, off := 0, off32 := none }) ∧
  decodeTableWord 32 0x00003820 = some (.eret { g := always, rsv := 0 }) ∧
  decodeTableWord 32 0x0003B80C = some (.syscall { g := always, d := 7, a := ⟨false, 0⟩ })

/-- Whose turn a step is: the package's own, with what the schedule still holds after it. -/
def OwnTurn (s s1 : State) : Prop := (s.schedule = [] ∧ s1 = s) ∨ ∃ t, s.schedule = .issue :: t ∧ s1 = { s with schedule := t }

/-- R97, R104, R118, R247, R321: what one step does. The schedule, and the order of the cores' turns, are the model's own (logs 6 and 85). -/
def Obligations.StepRunsDecoded : Prop :=
  (∀ (s s1 : State) (sh : Sheaf), OwnTurn s s1 → s1.cur = some sh →
    (∀ x k conv sup, fetchSheaf s1 = .line x k conv sup →
      (∀ i, decodeFor x k conv sup = .ok i → step s = match exec i (s1.readied i) with
        | .next t => .next { t with cur := none }
        | .fault f => .fault f
        | .refused r => .refused r) ∧
      ∀ e t, decodeFor x k conv sup = .error e → exec (.illegalEncoding e) s1 = .next t → step s = .next { t with cur := none }) ∧
    (∀ u line, fetchSheaf s1 = .miss u line → step s = exec (.lineFill u line [] []) s1) ∧
    (∀ cause a, fetchSheaf s1 = .fault cause a → step s = .next { s1.faultSheaf cause 0 a with cur := none }) ∧
    (∀ w, fetchSheaf s1 = .wait w → step s = .next { s1.blockSheaf w with cur := none })) ∧
  (∀ (s : State) (i : Instr) (t : List Input), s.schedule = .event i :: t → i.view = none →
    step s = exec i { s with schedule := t }) ∧
  (∀ (s : State) (i : Input) (t : List Input), s.schedule = i :: t → (∀ e, i ≠ .event e) → i ≠ .issue →
    step s = .next (outside { s with schedule := t } i)) ∧
  (∀ (s : State) (i : Instr), transferGuard i = none → { s.readied i with cores := s.cores } = s) ∧
  (∀ (s : State) (i : Instr), { s.readied i with cores := s.cores, dies := s.dies, freeCount := s.freeCount } = s ∧
    ∀ u k, ((s.readied i).group u k).map (fun g => { g with drowsy := [] }) = (s.group u k).map fun g => { g with drowsy := [] }) ∧
  ∀ s s1 : State, OwnTurn s s1 → s1.cur = none →
    step s = exec (.issueOpportunity s1.turn []) { s1 with turn := nextTurn s1 s1.turn }

/-- R1: every behaviour, misuse included, is stated: exec is total. It says nothing of what the next state holds. -/
def Obligations.EveryInstructionAnswers : Prop := ∀ (i : Instr) (s : State), ∃ t, exec i s = .next t

/-- R6, R99, R106: an execution with no active lane. -/
def Obligations.InactiveExecution : Prop :=
  ∀ (i : Instr) (opc : Nat) (ops : Operands) (s : State) (c : Ctx), i.view = some (opc, ops) → opc ≠ 0 →
    (opc < 0x0F0 ∨ isSupCore c.u = false) → Issued s ops.guard c → (∀ ln ∈ c.lanes, guardTrue ops.guard ln.f = false) →
    exec i s = .next (moved s c ops.guard (ops.len + 1))

/-- R6, R28, R54, R91, R99, R111: the frame of every instruction whose effect is on its own fibres. -/
def Obligations.EffectFrame : Prop :=
  ∀ (s : State) (c : Ctx) (g : Guard) (len : Nat) (du : Bool) (E : Lane → Eff), s.ctx = some c → (c.lanes.map (·.id)).Nodup →
    let t := effDone s c g len du E
    { t with cores := s.cores } = s ∧
    (∀ v, v ≠ c.u → t.core v = s.core v) ∧
    { t.core c.u with slots := (s.core c.u).slots } = s.core c.u ∧
    (∀ k, k ≠ c.slot → t.group c.u k = s.group c.u k) ∧
    ∃ gr, t.group c.u c.slot = some gr ∧ { gr with fibres := c.g.fibres, uregs := c.g.uregs } = c.g ∧
      (du = false → gr.uregs = c.g.uregs) ∧
      (∀ j, (∀ ln ∈ c.lanes, ln.id ≠ j) → sget gr.fibres j = sget c.g.fibres j) ∧
      (∀ ln ∈ c.lanes, guardTrue g ln.f = false → sget gr.fibres ln.id = some { ln.f with pc := nextPc c.pc len }) ∧
      ∀ ln ∈ c.lanes, guardTrue g ln.f = true → ∃ f, sget gr.fibres ln.id = some f ∧
        { f with pc := ln.f.pc, preds := ln.f.preds, flags := ln.f.flags, regs := ln.f.regs } = ln.f ∧
        f.pc = (match (E ln).pc with
          | some p => alignPc p
          | none => nextPc c.pc len) ∧
        f.flags = ln.f.flags ||| (E ln).flags ∧
        (∀ n, n < 8 → (∀ p ∈ (E ln).preds, p.1 ≠ n) → f.pred n = ln.f.pred n) ∧
        ∀ n, (∀ w ∈ (E ln).regs, w.2.1 ≠ n) → f.reg n = ln.f.reg n

/-- R6, R7, R247, R249: what no outcome of these instructions changes. -/
def Obligations.OutcomeFrame : Prop :=
  ∀ (i : Instr) (opc : Nat) (ops : Operands) (s t : State) (c : Ctx), i.view = some (opc, ops) →
    opc ≤ 0x007 ∨ opc = 0x00B ∨ opc = 0x00D ∨ (0x019 ≤ opc ∧ opc ≤ 0x01C) ∨ (0x040 ≤ opc ∧ opc ≤ 0x098) →
    s.ctx = some c → exec i s = .next t →
    t.mem = s.mem ∧ t.tasks = s.tasks ∧ t.flights = s.flights ∧ t.cur = s.cur ∧ t.pkg = s.pkg ∧
    (∀ d, d ≠ dieOf c.u → t.die d = s.die d) ∧
    (∀ v, v ≠ c.u → t.core v = s.core v) ∧
    (∀ k, k ≠ c.slot → t.group c.u k = s.group c.u k) ∧
    { t.core c.u with slots := (s.core c.u).slots, returns := (s.core c.u).returns } = s.core c.u

/-- R7, R247: no lane writes when one of them faults. -/
def Obligations.PreciseFault : Prop :=
  ∀ (s : State) (c : Ctx) (o : OpT) (l1 l2 : List Lane) (first : Lane) (cause sub addr : Nat),
    Issued s o.g c → c.lanes = l1 ++ first :: l2 → Active o.g c first →
    srcTyped c first.f (o.ty = 2) o.ua o.a = .error (.fault cause sub addr) →
    (∀ ln ∈ l1, guardTrue o.g ln.f = true → (∃ a, srcTyped c ln.f (o.ty = 2) o.ua o.a = .ok a) ∧
      (∃ b, srcBTyped c ln.f (o.ty = 2) o = .ok b) ∧
      destsReady c ln.f (clsOf o.du) o.d.toNat (if o.ty = 2 then 2 else 1) = .ok ()) →
    (∀ ln, Active o.g c ln → ∀ w, srcTyped c ln.f (o.ty = 2) o.ua o.a ≠ .error (.block w) ∧
      srcBTyped c ln.f (o.ty = 2) o ≠ .error (.block w) ∧
      destsReady c ln.f (clsOf o.du) o.d.toNat (if o.ty = 2 then 2 else 1) ≠ .error (.block w)) →
    exec (.add o) s = .next (stoppedAt s c o.g o.len first cause sub addr)

/-- R8, R47, R54: `WaitFull` on an empty register. FADDR names the register by the table of R248; R8 writes 0 (log 19, DEDUCED). -/
def Obligations.WaitingReader : Prop :=
  ∀ (s : State) (c : Ctx) (o : OpU) (ln : Lane) (v : Word), Issued s o.g c → c.lanes = [ln] → guardTrue o.g ln.f = true →
    inWindow c.g ln.f 0 o.a.r.toNat = true → ln.f.reg o.a.r.toNat = { val := v, st := .empty } →
    (o.a.w = true → exec (.mov o) s = .next (s.modFibre c.u c.slot ln.id fun f => { f with wait := some (.reg 0 o.a.r.toNat) })) ∧
    (o.a.w = false → exec (.mov o) s = .next (stoppedAt s c o.g 1 ln 0x09 0 o.a.r.toNat))

/-- R118 to R120, R247: the fault of a decode check. The guard ⟨false, 7⟩ is the one that every fibre meets. -/
def Obligations.IllegalEncodingStops : Prop :=
  ∀ (s : State) (c : Ctx) (first : Lane) (rest : List Lane) (len : Nat), s.ctx = some c → (c.lanes.map (·.id)).Nodup →
    c.lanes = first :: rest →
    (∀ code parcel bit, exec (.illegalEncoding (.illegal code parcel bit)) s =
      .next (stoppedAt s c ⟨false, 7⟩ len first 0x01 code (256 * parcel + bit))) ∧
    exec (.illegalEncoding .priv) s = .next (stoppedAt s c ⟨false, 7⟩ len first 0x02 0 0)

/-- R246, R249, R314: the words of a fault report and the sending of a record. -/
def Obligations.FaultReport : Prop :=
  (∀ lane sub cause : Nat, lane < 32 → sub < 256 → cause < 256 →
    let w := fcauseWord lane sub cause
    (w.extractLsb' 22 5).toNat = lane ∧ (w.extractLsb' 8 8).toNat = sub ∧ (w.extractLsb' 0 8).toNat = cause ∧
      w.extractLsb' 16 6 = 0 ∧ w.extractLsb' 27 5 = 0) ∧
  (∀ u slot fibre : Nat, slot < 32 → fibre < 1024 →
    let w := whoWord u slot fibre
    (u % 64 < 32 → (w.extractLsb' 0 5).toNat = u % 64 ∧ w.getLsbD 31 = false) ∧
    (32 ≤ u % 64 → u % 64 < 36 → (w.extractLsb' 0 5).toNat = u % 64 - 32 ∧ w.getLsbD 31 = true) ∧
    (u % 64 < 36 → (w.extractLsb' 5 5).toNat = slot ∧ (w.extractLsb' 16 10).toNat = fibre ∧ w.extractLsb' 10 6 = 0 ∧
      w.extractLsb' 26 5 = 0)) ∧
  ∀ (s : State) (d : Nat) (r : Record),
    let t := s.sendRecord d r
    let host := s.svcmode.getLsbD 1 && r.fcause.toNat % 256 == 0x04
    (t.die d).records = (s.die d).records ++ [{ r with tag := (s.die d).nextTag, taken := host, takenAt := (s.die d).time }] ∧
    (t.die d).nextTag = ((s.die d).nextTag + 1) % 2 ^ 32 ∧
    { t.die d with records := (s.die d).records, nextTag := (s.die d).nextTag, service := (s.die d).service,
                   serviceFrom := (s.die d).serviceFrom, serviceRank := (s.die d).serviceRank } = s.die d ∧
    (uncharged r = true ∨ (∃ x ∈ (s.die d).records, uncharged x = false ∧ x.domain = r.domain) → (t.die d).service = (s.die d).service ∧
      (t.die d).serviceFrom = (s.die d).serviceFrom ∧ (t.die d).serviceRank = (s.die d).serviceRank) ∧
    (∀ e, e ≠ d → t.die e = s.die e) ∧ t.mem = s.mem ∧ t.cores = s.cores ∧ t.tasks = s.tasks ∧ t.flights = s.flights ∧
    (host = false ∨ stepPassed s d 7 = false → t.hostEvents = s.hostEvents ∧ t.hostWrites = s.hostWrites ∧ t.msix = s.msix) ∧
    (host = true → stepPassed s d 7 = true → t.hostEvents = s.hostEvents ++
      [{ pf := d, code := 0x104, domain := r.domain, die := d, time := (s.die d).time, seq := sgetD s.hostSeq d 0 }] ∧
      t.hostWrites.length = s.hostWrites.length + 3 ∧
      ((t.hostWrites.drop (s.hostWrites.length + 1)).map (·.2.2)).flatten =
        ((recordWords { r with tag := (s.die d).nextTag }).take 8).flatMap fun w => leBytes 4 w.toNat)

/-- The invariant holds at reset. -/
def Obligations.ResetMemoryForm : Prop := Inv State.reset ∧ State.reset.mem = []

/-- R3, R138: memory is one byte for each address; the model's canonical form of it is kept by every step. -/
def Obligations.StepKeepsMemoryForm : Prop := ∀ s t : State, Inv s → step s = .next t → Inv t

/-- R3, R155, R156: little-endian bytes; the laws of memory, and of a write at its home. -/
def Obligations.MemoryBytes : Prop :=
  (∀ (m : List Host.Cell) (a : Nat) (bs : List Byte), Memory.wf m = true →
    memRead (memWrite m a bs) a bs.length = bs ∧
    ∀ x, x < a ∨ a + bs.length ≤ x → memGet (memWrite m a bs) x = memGet m x) ∧
  (∀ n x : Nat, ofLe (leBytes n x) = x % 2 ^ (8 * n) ∧ (leBytes n x).length = n) ∧
  (∀ n x k : Nat, k < n → (leBytes n x)[k]? = some (BitVec.ofNat 8 (x / 256 ^ k))) ∧
  (∀ (s : State) (pa : Nat) (bs : List Byte) (x : Nat), x < pa ∨ pa + bs.length ≤ x →
    memGet (homeWrite s pa bs).mem x = memGet s.mem x) ∧
  ∀ (s : State) (pa : Nat) (bs : List Byte), plainPa pa = true → Memory.wf s.mem = true → let t := homeWrite s pa bs
    memRead t.mem pa bs.length = bs ∧
    { t with mem := s.mem, dies := s.dies } = s ∧
    (∀ d, d ≠ paDie pa → t.die d = s.die d) ∧
    { t.die (paDie pa) with scrub := (s.die (paDie pa)).scrub, flips := (s.die (paDie pa)).flips, corrected := (s.die (paDie pa)).corrected, poison := (s.die (paDie pa)).poison } = s.die (paDie pa) ∧
    lineIx pa ∉ (t.die (paDie pa)).flips

/-- R24, R58, R64, R170, R185, R250, R275, R297: the state after reset. That time and the error counters are 0 and every die is alive the
spec does not state: log 3, DESIGN CHOICE. -/
def Obligations.ResetState : Prop :=
  let s := State.reset
  s.cores = [] ∧ s.tasks = [] ∧ s.launches = [] ∧ s.flights = [] ∧ s.fabricOut = [] ∧ s.hostEvents = [] ∧ s.hostWrites = [] ∧
  s.svcmode = 0 ∧ s.cur = none ∧ s.schedule = [] ∧
  (∀ d, d < 8 → (s.die d).num 0x6000000040 4 = 400 ∧ (s.die d).num 0x6000500200 4 = 1000 ∧ (s.die d).num 0x600080001C 4 = 100 ∧
    (s.die d).word 0x6000800040 = 0 ∧ (s.die d).errors = 0 ∧ (s.die d).softErrors = 0 ∧ (s.die d).fabErrors = 0 ∧
    (s.die d).time = 0 ∧ (s.die d).records = [] ∧ (s.die d).alive = true) ∧
  (∀ u, (s.core u).slots = [] ∧ (s.core u).dbgstat = 0) ∧
  (∀ (f : Fibre) (n : Nat), f.regs = [] → f.reg n = { val := 0, st := .full }) ∧
  (∀ (g : Machine.Group) (n : Nat), g.tcs = [] → g.tc n = 0x3F803F8000000000) ∧
  ∀ (g : Machine.Group) (n : Nat), g.convs = [] → sgetD g.convs n {} = { e := 1, signers := [], key := [] }

/-- R8, R52, R54, R57, R58, R248: what reading one vector or uniform source register answers. FADDR of REG_NOT_READY is the register by
R248's table, where R8 writes 0: log 19, DEDUCED. -/
def Obligations.SourceRegisterStates : Prop :=
  ∀ (c : Ctx) (f : Fibre) (cls n : Nat) (w : Bool),
    (inWindow c.g f cls n = false → srcReg c f cls n w = .error (.fault 0x08 0 (256 * cls + n))) ∧
    (inWindow c.g f cls n = true →
      (∀ v, regGet c.g f cls n = { val := v, st := .full } → srcReg c f cls n w = .ok v) ∧
      (∀ v, regGet c.g f cls n = { val := v, st := .empty } →
        srcReg c f cls n w = if w then .error (.block (.reg cls n)) else .error (.fault 0x09 0 (256 * cls + n))) ∧
      (∀ v k, regGet c.g f cls n = { val := v, st := .poisoned k } →
        srcReg c f cls n w = .error (.fault 0x0A 0 (65536 * k + (256 * cls + n)))) ∧
      (cls = 0 → sget f.regs n = none → srcReg c f cls n w = .ok 0) ∧
      (cls = 1 → sget c.g.uregs n = none → srcReg c f cls n w = .ok 0))

/-- R322: `intResult` clamps when SAT = 1 and wraps to w bits, and `intVal` reads the pattern back as a typed integer. -/
def Obligations.IntegerResultExact : Prop :=
  ∀ (ty : BitVec 4) (sat : Bool) (x : Int), ty = 0 ∨ ty = 1 ∨ ty = 2 →
    (intLo ty ≤ intVal ty (intResult ty sat x) ∧ intVal ty (intResult ty sat x) ≤ intHi ty) ∧
    ((2 ^ intWidth ty : Int) ∣ intVal ty (intResult ty false x) - x) ∧
    (intLo ty ≤ x → x ≤ intHi ty → intVal ty (intResult ty sat x) = x) ∧
    (x < intLo ty → intVal ty (intResult ty true x) = intLo ty) ∧
    (intHi ty < x → intVal ty (intResult ty true x) = intHi ty)

/-- R322, R323, R324, R326, R367, R386: the entries whose result is computed on exact integers. -/
def Obligations.IntegerArithmetic : Prop :=
  (∀ (s : State) (c : Ctx) (o : OpT) (b : Lane → DWord), Issued s o.g c → DestFree c o → ReadsB c o b →
    let done := fun r : Int → Int => wrote s c o fun ln => intResult o.ty o.sat (r (intVal o.ty (b ln)))
    exec (.abs o) s = done (fun x => |x|) ∧ exec (.neg o) s = done (fun x => -x)) ∧
  (∀ (s : State) (c : Ctx) (o : OpT) (a b : Lane → DWord), Issued s o.g c → DestFree c o → ReadsA c o a → ReadsB c o b →
    let done := fun r : Int → Int → Int => wrote s c o fun ln => intResult o.ty o.sat (r (intVal o.ty (a ln)) (intVal o.ty (b ln)))
    exec (.add o) s = done (fun x y => x + y) ∧
    exec (.sub o) s = done (fun x y => x - y) ∧
    exec (.mul o) s = done (fun x y => x * y) ∧
    exec (.mulhi o) s = done (fun x y => x * y / 2 ^ intWidth o.ty) ∧
    exec (.min o) s = done min ∧
    exec (.max o) s = done max ∧
    exec (.bfx o) s = wrote s c o fun ln =>
      let pos := (b ln).toNat % 256
      let len := (b ln).toNat / 256 % 256
      let f := intVal o.ty (a ln) / 2 ^ pos % 2 ^ len
      intResult o.ty false (if o.ty ≠ 1 ∧ 0 < len ∧ 2 ^ (len - 1) ≤ f then f - 2 ^ len else f)) ∧
  (∀ (s : State) (c : Ctx) (o : OpT) (a b x : Lane → DWord), Issued s o.g c → DestFree c o → ReadsA c o a → ReadsB c o b →
    ReadsC c o x →
    exec (.mad o) s = (wrote s c o fun ln =>
      intResult o.ty o.sat (intVal o.ty (a ln) * intVal o.ty (x ln) + intVal o.ty (b ln))) ∧
    exec (.idp4 o) s = (wrote s c o fun ln =>
      intResult o.ty o.sat ((byteVal (o.ty ≠ 1) (a ln) 0 * byteVal (o.ty ≠ 1) (x ln) 0 +
        byteVal (o.ty ≠ 1) (a ln) 1 * byteVal (o.ty ≠ 1) (x ln) 1 + byteVal (o.ty ≠ 1) (a ln) 2 * byteVal (o.ty ≠ 1) (x ln) 2 +
        byteVal (o.ty ≠ 1) (a ln) 3 * byteVal (o.ty ≠ 1) (x ln) 3) + intVal o.ty (b ln)))) ∧
  (∀ (s : State) (c : Ctx) (o : OpT) (a : Lane → DWord) (b : Lane → Word), Issued s o.g c → DestFree c o → ReadsA c o a →
    ReadsB32 c o b →
    exec (.lea o) s = wrote s c o fun ln => intResult o.ty false (intVal o.ty (a ln) + (b ln).toInt * 2 ^ (o.c.toNat % 8))) ∧
  (∀ ty : BitVec 4, ty = 0 ∨ ty = 2 →
    intVal ty (intResult ty false |intLo ty|) = intLo ty ∧ intVal ty (intResult ty true |intLo ty|) = intHi ty) ∧
  (∀ x : Int, intResult 0 false x = intResult 1 false x) ∧
  intLo 0 = -2147483648 ∧ intHi 0 = 2147483647 ∧ intLo 1 = 0 ∧ intHi 1 = 4294967295 ∧
  decodeTableWord 96 0x00000003000000008080B902 = some (.add
    { g := ⟨false, 7⟩, d := 1, a := ⟨true, 1⟩, b := ⟨false, 0⟩, c := 0, ty := 0, rnd := 0, sat := false, ua := false,
      ub := false, uc := false, du := false, rsv := 0, lit := some 3 }) ∧
  decodeTableWord 64 0x0000010900023915 = some (.abs
    { g := ⟨false, 7⟩, d := 4, a := ⟨false, 0⟩, b := ⟨true, 9⟩, c := 0, ty := 0, rnd := 0, sat := false, ua := false,
      ub := false, uc := false, du := false, rsv := 0, lit := none })

/-- R325, R326, R386, R387: the entries whose result is a pattern. -/
def Obligations.BitwiseAndShifts : Prop :=
  (∀ (s : State) (c : Ctx) (o : OpT) (a b : Lane → DWord), Issued s o.g c → DestFree c o → ReadsA c o a → ReadsB c o b →
    exec (.and o) s = wrote s c o (fun ln => a ln &&& b ln) ∧
    exec (.or o) s = wrote s c o (fun ln => a ln ||| b ln) ∧
    exec (.xor o) s = wrote s c o (fun ln => a ln ^^^ b ln)) ∧
  (∀ (s : State) (o : OpT), o.ty = 0 → exec (.and { o with ty := 1 }) s = exec (.and o) s) ∧
  (∀ (s : State) (c : Ctx) (o : OpT) (a : Lane → DWord) (n : Lane → Word), Issued s o.g c → DestFree c o → ReadsA c o a →
    ReadsB32 c o n →
    exec (.shl o) s = wrote s c o (fun ln => intWrap o.ty (intVal o.ty (a ln) * 2 ^ (n ln).toNat)) ∧
    exec (.shr o) s = wrote s c o (fun ln => intWrap o.ty (intVal o.ty (a ln) % 2 ^ intWidth o.ty / 2 ^ (n ln).toNat)) ∧
    exec (.shra o) s = wrote s c o (fun ln => intWrap o.ty (intVal o.ty (a ln) / 2 ^ (n ln).toNat)) ∧
    ∃ v : Lane → DWord, exec (.rot o) s = wrote s c o v ∧
      ∀ ln i, i < intWidth o.ty → (v ln).getLsbD ((i + (n ln).toNat) % intWidth o.ty) = (a ln).getLsbD i) ∧
  (∀ (s : State) (c : Ctx) (o : OpT) (a b x : Lane → DWord), Issued s o.g c → DestFree c o → ReadsA c o a → ReadsB c o b →
    ReadsC c o x →
    ∃ v : Lane → DWord, exec (.bfi o) s = wrote s c o v ∧
      ∀ ln i, i < intWidth o.ty →
        let pos := (b ln).toNat % 256
        let len := (b ln).toNat / 256 % 256
        (v ln).getLsbD i = if pos ≤ i ∧ i < pos + len then (a ln).getLsbD (i - pos) else (x ln).getLsbD i)

/-- R338, R382, R388: the entries of format U on one vector register. -/
def Obligations.UnaryEntries : Prop :=
  (∀ (s : State) (c : Ctx) (o : OpU) (a : Lane → Word), Issued s o.g c →
    (∀ ln, Active o.g c ln → srcField c ln.f false o.a = .ok (a ln) ∧ destReady c ln.f 0 o.d.toNat = .ok ()) →
    let done := fun r : Word → Word =>
      (.next (effDone s c o.g 1 false fun ln => { regs := [(0, o.d.toNat, r (a ln))] }) : Answer)
    exec (.mov o) s = done (fun x => x) ∧
    exec (.not o) s = done (fun x => ~~~x) ∧
    exec (.popc o) s = done (fun x => BitVec.ofNat 32 ((List.range 32).countP fun i => x.getLsbD i)) ∧
    (∃ r : Word → Word, exec (.clz o) s = done r ∧ ∀ x, (r x).toNat ≤ 32 ∧
      (∀ i, i < 32 → 32 - (r x).toNat ≤ i → x.getLsbD i = false) ∧ ((r x).toNat < 32 → x.getLsbD (31 - (r x).toNat) = true)) ∧
    ∃ r : Word → Word, exec (.brev o) s = done r ∧ ∀ x i, i < 32 → (r x).getLsbD i = x.getLsbD (31 - i)) ∧
  decodeTableWord 32 0x81813930 = some (.not { g := ⟨false, 7⟩, d := 2, a := ⟨true, 3⟩ }) ∧
  decodeTableWord 32 0x81813954 = some (.popc { g := ⟨false, 7⟩, d := 2, a := ⟨true, 3⟩ }) ∧
  decodeTableWord 32 0x8181394C = some (.brev { g := ⟨false, 7⟩, d := 2, a := ⟨true, 3⟩ }) ∧
  decodeTableWord 32 0x81813950 = some (.clz { g := ⟨false, 7⟩, d := 2, a := ⟨true, 3⟩ }) ∧
  decodeTableWord 32 0x84813868 = some (.mov { g := ⟨false, 7⟩, d := 2, a := ⟨true, 9⟩ })

/-- R28, R382, R383, R389, R393, R404: the moves, the selection, predicate logic and NOP. -/
def Obligations.MoviSelPlop : Prop :=
  (∀ (s : State) (c : Ctx) (o : OpT) (l : Word), Issued s o.g c → DestFree c o → o.lit = some l →
    exec (.movi o) s = wrote s c o fun _ =>
      if o.ty = 2 then l.signExtend 64 else if o.ty = 4 ∨ o.ty = 5 then (l.extractLsb' 0 16).setWidth 64 else l.setWidth 64) ∧
  (∀ (s : State) (c : Ctx) (o : OpT) (a b : Lane → DWord), Issued s o.g c → DestFree c o → ReadsA c o a → ReadsB c o b →
    (∀ ln, Active o.g c ln → predReady ln.f (o.c.toNat % 8) = .ok ()) →
    exec (.sel o) s = wrote s c o fun ln => if ln.f.pred (o.c.toNat % 8) ≠ o.c.getLsbD 3 then a ln else b ln) ∧
  (∀ (s : State) (c : Ctx) (o : OpP), Issued s o.g c →
    (∀ ln, Active o.g c ln → predReady ln.f o.pa.toNat = .ok () ∧ predReady ln.f o.pb.toNat = .ok () ∧
      predReady ln.f o.pd.toNat = .ok ()) →
    exec (.plop o) s = wrotePred s c o.g 1 o.pd.toNat fun ln =>
      o.lut.getLsbD (4 * (ln.f.pred o.pd.toNat).toNat + 2 * (ln.f.pred o.pb.toNat).toNat + (ln.f.pred o.pa.toNat).toNat)) ∧
  (∀ (f : Fibre) (b : Bool), f.pred 7 = true ∧ f.setPred 7 b = f) ∧
  (∀ (f : Fibre) (n k : Nat) (b : Bool), n < 7 → k < 8 → (f.setPred n b).pred k = if k = n then b else f.pred k) ∧
  (∀ (s : State) (c : Ctx) (o : OpN), s.ctx = some c → (c.lanes.map (·.id)).Nodup →
    exec (.nop o) s = .next (moved s c o.g 1)) ∧
  (∀ (conv : Nat) (o : OpT), illegalField conv (.sel o) = none → o.c.toNat < 16 ∧ (o.ty = 15 ∨ o.ty = 2) ∧ o.du = false) ∧
  (∀ (conv : Nat) (o : OpT), illegalField conv (.sel { o with du := false }) = none →
    illegalField conv (.sel { o with du := true }) = some (.illegal 11 1 29)) ∧
  decodeTableWord 64 0x003C05078302B871 = some (.sel
    { g := ⟨false, 7⟩, d := 5, a := ⟨true, 6⟩, b := ⟨true, 7⟩, c := 2, ty := 15, rnd := 0, sat := false, ua := false,
      ub := false, uc := false, du := false, rsv := 0, lit := none }) ∧
  decodeTableWord 32 0x8845B864 = some (.plop { g := ⟨false, 7⟩, pd := 3, pa := 1, pb := 2, lut := 0x88 })

/-- R327: the integer comparisons. -/
def Obligations.IntegerCompare : Prop :=
  (∀ (s : State) (c : Ctx) (o : OpT) (a b : Lane → DWord), Issued s o.g c → ReadsA c o a → ReadsB c o b →
    (∀ ln, Active o.g c ln → predReady ln.f (o.d.toNat % 8) = .ok ()) →
    let done := fun r : Int → Int → Prop => fun [DecidableRel r] =>
      wrotePred s c o.g o.len (o.d.toNat % 8) fun ln => decide (r (intVal o.ty (a ln)) (intVal o.ty (b ln)))
    exec (.cmpEq o) s = done (fun x y => x = y) ∧
    exec (.cmpNe o) s = done (fun x y => x ≠ y) ∧
    exec (.cmpLt o) s = done (fun x y => x < y) ∧
    exec (.cmpLe o) s = done (fun x y => x ≤ y) ∧
    exec (.cmpGt o) s = done (fun x y => y < x) ∧
    exec (.cmpGe o) s = done (fun x y => y ≤ x)) ∧
  (∀ x : DWord, intVal 0 x = (x.setWidth 32).toInt ∧ intVal 1 x = (x.setWidth 32).toNat ∧ intVal 2 x = x.toInt) ∧
  (∀ (f : Fibre) (b : Bool), f.setPred 7 b = f) ∧
  (∀ i ∈ [Instr.cmpEq, .cmpNe, .cmpLt, .cmpLe, .cmpGt, .cmpGe], ∀ (conv : Nat) (o : OpT),
    (8 ≤ o.d.toNat → illegalField conv (i o) = some (.illegal 2 0 15)) ∧
    (illegalField conv (i { o with du := false }) = none → illegalField conv (i { o with du := true }) = some (.illegal 11 1 29))) ∧
  decodeTableWord 64 0x000001028080B969 = some (.cmpLt
    { g := ⟨false, 7⟩, d := 1, a := ⟨true, 1⟩, b := ⟨true, 2⟩, c := 0, ty := 0, rnd := 0, sat := false, ua := false,
      ub := false, uc := false, du := false, rsv := 0, lit := none })

namespace Sys2Proof

/-- The rational number that a sign, a magnitude and a binary exponent stand for. -/
def ratOf (neg : Bool) (m : Nat) (e : Int) : ℚ := (if neg then -1 else 1) * (m : ℚ) * 2 ^ e
/-- A value is finite, has this sign and is this rational number. -/
def IsRat (v : Val) (neg : Bool) (x : ℚ) : Prop := ∃ m e, v = .fin neg m e ∧ ratOf neg m e = x

/-- A row of the table of R72 with what R86 and R88 add to it: mantissa and exponent width, bias, the codes of the largest finite magnitude
and of an overflow that is not rounded toward zero, and whether the codes of the top exponent are infinities and NaNs (`ieee`). -/
structure FormatRow where
  fmt : Fmt
  mb : Nat
  eb : Nat
  bias : Nat
  top : Nat
  ofl : Nat
  ieee : Bool

/-- R72, R86: the floating-point formats. -/
def formatRows : List FormatRow :=
  [⟨fmtF32, 23, 8, 127, 0x7F7FFFFF, 0x7F800000, true⟩, ⟨fmtF16, 10, 5, 15, 0x7BFF, 0x7C00, true⟩,
   ⟨fmtBF16, 7, 8, 127, 0x7F7F, 0x7F80, true⟩, ⟨fmtE5M2, 2, 5, 15, 0x7B, 0x7C, true⟩, ⟨fmtE4M3, 3, 4, 7, 0x7E, 0x7F, false⟩,
   ⟨fmtE3M2, 2, 3, 3, 0x1F, 0x1F, false⟩, ⟨fmtE2M3, 3, 2, 1, 0x1F, 0x1F, false⟩, ⟨fmtE2M1, 1, 2, 1, 0x7, 0x7, false⟩]

end Sys2Proof

/-- R84, R85: rounding a magnitude to units of 2^q. -/
def Obligations.RoundingToUnits : Prop :=
  (rndOf 0 = .rne ∧ rndOf 1 = .rna ∧ rndOf 2 = .rz ∧ rndOf 3 = .rdn ∧ rndOf 4 = .rup) ∧
  ∀ (mode : Rnd) (neg : Bool) (m : Nat) (e q : Int),
    let r := roundUnits mode neg m e q
    let x := ratOf false m e
    let y := ratOf false r.1 q
    let u : ℚ := 2 ^ q
    |y - x| < u ∧ (r.2 = true ↔ y ≠ x) ∧
    match mode with
    | .rne => |y - x| ≤ u / 2 ∧ (|y - x| = u / 2 → r.1 % 2 = 0)
    | .rna => |y - x| ≤ u / 2 ∧ (|y - x| = u / 2 → x < y)
    | .rz => y ≤ x
    | .rdn => if neg then x ≤ y else y ≤ x
    | .rup => if neg then y ≤ x else x ≤ y

/-- R72, R77, R78, R84 to R88, R354, R356: the values of codes, `RoundTo`, and exact results before it. -/
def Obligations.ExactArithmetic : Prop :=
  (∀ p ∈ formatRows, ∀ (neg : Bool) (e m : Nat), e < 2 ^ p.eb → m < 2 ^ p.mb →
    let code := (if neg then 2 ^ (p.mb + p.eb) else 0) + e * 2 ^ p.mb + m
    if p.ieee = true ∧ e = 2 ^ p.eb - 1 then value p.fmt code = if m = 0 then .inf neg else .nan (decide (m < 2 ^ (p.mb - 1)))
    else if p.fmt = fmtE4M3 ∧ e = 15 ∧ m = 7 then value p.fmt code = .nan false
    else IsRat (value p.fmt code) neg ((if neg then -1 else 1) *
      if e = 0 then (m : ℚ) / 2 ^ p.mb * 2 ^ (1 - (p.bias : Int)) else (1 + (m : ℚ) / 2 ^ p.mb) * 2 ^ ((e : Int) - p.bias))) ∧
  (∀ c : Nat, c < 255 → IsRat (value fmtE3M5 c) false
    (if c < 32 then (c : ℚ) / 128 else 2 ^ ((c / 32 : Nat) - 3 : Int) * (1 + ((c % 32 : Nat) : ℚ) / 32))) ∧
  (∀ (f : Fmt) (code : Nat), (scaledValue f code 0xFF).1.isNan = true ∧
    ((value f code).isInf = true → (scaledValue f code 0).1.isNan = true ∧ (scaledValue f code 0).2 = true)) ∧
  (∀ p ∈ formatRows, ∀ (mode : Rnd) (sat neg : Bool) (m : Nat) (e : Int), 0 < m →
    let q := max (e + (m.log2 : Int) - p.mb) (1 - (p.bias : Int) - p.mb)
    let x := ratOf false m e
    let y := ratOf false (roundUnits mode neg m e q).1 q
    let r := roundFin p.fmt neg m e mode sat
    ∀ big : ℚ, IsRat (value p.fmt p.top) false big →
      (big < y → r.2 = 20 ∧ r.1 = (if neg then 2 ^ (p.mb + p.eb) else 0) +
        if sat = true ∨ mode = .rz ∨ (mode = .rdn ∧ neg = false) ∨ (mode = .rup ∧ neg = true) then p.top else p.ofl) ∧
      (y ≤ big → IsRat (value p.fmt r.1) neg ((if neg then -1 else 1) * y) ∧
        r.2 = if y = x then 0 else if y < 2 ^ (1 - (p.bias : Int)) then 24 else 16)) ∧
  (∀ p ∈ formatRows, ∀ (mode : Rnd) (sat neg q : Bool),
    roundFin p.fmt neg 0 0 mode sat = ((if neg then 2 ^ (p.mb + p.eb) else 0), 0) ∧
    (roundVal p.fmt (.inf neg) mode sat).2 = 4 ∧
    roundVal p.fmt (.nan q) mode sat = if p.fmt = fmtE4M3 then (0x7F, 0) else if p.ieee then (canonNan p.fmt, 0) else (0, 1)) ∧
  [fmtF32, fmtF16, fmtBF16, fmtE5M2, fmtE4M3].map canonNan = [0x7FC00000, 0x7E00, 0x7FC0, 0x7E, 0x7F] ∧
  (∀ n1 m1 e1 n2 m2 e2,
    let r := addFin n1 m1 e1 n2 m2 e2
    ratOf r.1 r.2.1 r.2.2 = ratOf n1 m1 e1 + ratOf n2 m2 e2 ∧
    ∀ f mode sat, ratOf n1 m1 e1 + ratOf n2 m2 e2 ≠ 0 →
      addRound f (.fin n1 m1 e1) (.fin n2 m2 e2) mode sat = roundFin f r.1 r.2.1 r.2.2 mode sat) ∧
  (∀ n1 m1 e1 n2 m2 e2, ∃ n m e, Val.mul (.fin n1 m1 e1) (.fin n2 m2 e2) = .fin n m e ∧ n = (n1 != n2) ∧
    ratOf n m e = ratOf n1 m1 e1 * ratOf n2 m2 e2 ∧
    ∀ f mode sat, mulRound f (.fin n1 m1 e1) (.fin n2 m2 e2) mode sat = roundFin f n m e mode sat) ∧
  (∀ n1 m1 e1 n2 m2 e2,
    (Val.lt (.fin n1 m1 e1) (.fin n2 m2 e2) = true ↔ ratOf n1 m1 e1 < ratOf n2 m2 e2))

/-- R354 to R358: the arithmetic entries. -/
def Obligations.FloatArithmetic : Prop :=
  (∀ (s : State) (c : Ctx) (o : OpT) (a b : Lane → Word), Issued s o.g c → DestsFree c o 1 → ReadsA32 c o a → ReadsB32 c o b →
    let f := vecFmt o.ty
    let rnd := rndOf o.rnd.toNat
    let done := fun r : Val → Val → Nat × BitVec 5 => wroteFloat s c o fun ln =>
      flushOut f ln.f.ftz (r (inVal o.ty ln.f (a ln)) (inVal o.ty ln.f (b ln)))
    let pick := fun isMin : Bool => wroteFloat s c o fun ln =>
      let x := flushIn f ln.f.ftz (operandCode o.ty (a ln))
      let y := flushIn f ln.f.ftz (operandCode o.ty (b ln))
      (minMax f isMin x y, if (value f x).isSnan || (value f y).isSnan then 1 else 0)
    exec (.fadd o) s = done (fun x y => addRound f x y rnd o.sat) ∧
    exec (.fsub o) s = done (fun x y => addRound f x y.negate rnd o.sat) ∧
    exec (.fmul o) s = done (fun x y => mulRound f x y rnd o.sat) ∧
    exec (.fmin o) s = pick true ∧
    exec (.fmax o) s = pick false) ∧
  (∀ (s : State) (c : Ctx) (o : OpT) (a b z : Lane → Word), Issued s o.g c → DestsFree c o 1 → ReadsA32 c o a → ReadsB32 c o b →
    (∀ ln, Active o.g c ln → srcField c ln.f o.uc (srcC o) = .ok (z ln)) →
    exec (.ffma o) s = wroteFloat s c o fun ln =>
      flushOut (vecFmt o.ty) ln.f.ftz (fmaRound (vecFmt o.ty) (inVal o.ty ln.f (a ln)) (inVal o.ty ln.f (z ln))
        (inVal o.ty ln.f (b ln)) (rndOf o.rnd.toNat) o.sat)) ∧
  -- R357: the invalid operations come before the NaN test
  (∀ (f : Fmt) (n : Bool) (mode : Rnd) (sat : Bool), addRound f (.inf n) (.inf !n) mode sat = (canonNan f, 1)) ∧
  (∀ (f : Fmt) (n k : Bool) (e : Int) (y : Val) (mode : Rnd) (sat : Bool),
    fmaRound f (.fin n 0 e) (.inf k) y mode sat = (canonNan f, 1) ∧ mulRound f (.inf k) (.fin n 0 e) mode sat = (canonNan f, 1)) ∧
  -- R357: a sum of two zeros of one sign keeps it; any other exact-zero sum is +0, or −0 under .rdn
  (∀ (f : Fmt) (n : Bool) (e d : Int) (mode : Rnd) (sat : Bool),
    addRound f (.fin n 0 e) (.fin n 0 d) mode sat = (signBit f n, 0)) ∧
  (∀ (f : Fmt) (n : Bool) (m : Nat) (e : Int) (mode : Rnd) (sat : Bool), 0 < m →
    addRound f (.fin n m e) (.fin (!n) m e) mode sat = (signBit f (mode == .rdn), 0)) ∧
  -- R358: minima and maxima of NaNs
  (∀ (f : Fmt) (isMin : Bool) (a b : Nat), (value f a).isNan = true →
    minMax f isMin a b = if (value f b).isNan then canonNan f else b) ∧
  minMax fmtF32 true 0x80000000 0 = 0x80000000 ∧ minMax fmtF32 false 0x80000000 0 = 0

/-- R359: the floating-point comparisons. -/
def Obligations.FloatCompare : Prop :=
  (∀ (s : State) (c : Ctx) (o : OpT) (a b : Lane → Word), Issued s o.g c → ReadsA32 c o a → ReadsB32 c o b →
    (∀ ln, Active o.g c ln → predReady ln.f (o.d.toNat % 8) = .ok ()) →
    let done := fun (r : Val → Val → Bool) (onNan anyNan : Bool) =>
      (.next (effDone s c o.g o.len false fun ln =>
        let x := inVal o.ty ln.f (a ln)
        let y := inVal o.ty ln.f (b ln)
        { preds := [(o.d.toNat % 8, if x.isNan || y.isNan then onNan else r x y)],
          flags := if x.isSnan || y.isSnan || (anyNan && (x.isNan || y.isNan)) then 1 else 0 }) : Answer)
    exec (.fcmpEq o) s = done (fun x y => !x.lt y && !y.lt x) false false ∧
    exec (.fcmpNe o) s = done (fun x y => x.lt y || y.lt x) true false ∧
    exec (.fcmpLt o) s = done (fun x y => x.lt y) false true ∧
    exec (.fcmpLe o) s = done (fun x y => !y.lt x) false true ∧
    exec (.fcmpGt o) s = done (fun x y => y.lt x) false true ∧
    exec (.fcmpGe o) s = done (fun x y => !x.lt y) false true ∧
    exec (.fcmpUn o) s = done (fun _ _ => false) true false ∧
    exec (.fcmpOrd o) s = done (fun _ _ => true) false false) ∧
  (∀ (n1 n2 : Bool) (e1 e2 : Int), Val.lt (.fin n1 0 e1) (.fin n2 0 e2) = false) ∧
  (∀ (f : Fibre) (b : Bool), f.setPred 7 b = f) ∧
  (∀ e ∈ [(Instr.fcmpEq, 0x088), (.fcmpNe, 0x089), (.fcmpLt, 0x08A), (.fcmpLe, 0x08B), (.fcmpGt, 0x08C), (.fcmpGe, 0x08D), (.fcmpUn, 0x08E),
      (.fcmpOrd, 0x08F)], ∀ (conv : Nat) (o : OpT),
    ((encode (e.1 o)).map fun p => p.1.extractLsb' 2 9) = some (BitVec.ofNat 9 e.2) ∧
    (illegalField conv (e.1 o) = none → (o.ty = 3 ∨ o.ty = 4 ∨ o.ty = 5) ∧ o.rnd = 0 ∧ o.sat = false) ∧
    (8 ≤ o.d.toNat → illegalField conv (e.1 o) = some (.illegal 2 0 15)) ∧
    (illegalField conv (e.1 { o with du := false }) = none → illegalField conv (e.1 { o with du := true }) = some (.illegal 11 1 29))) ∧
  decodeTableWord 64 0x000C010481813A29 = some (.fcmpLt
    { g := ⟨false, 7⟩, d := 2, a := ⟨true, 3⟩, b := ⟨true, 4⟩, c := 0, ty := 3, rnd := 0, sat := false, ua := false,
      ub := false, uc := false, du := false, rsv := 0, lit := none })

/-- R89, R360, R361, R365, R390, R391, R392: conversions. -/
def Obligations.Conversions : Prop :=
  (∀ (s : State) (c : Ctx) (o : OpT) (x : Lane → DWord), Issued s o.g c → DestFree c o →
    (∀ ln, Active o.g c ln → srcBTyped c ln.f (decide (fcvtSrc o = 2)) o = .ok (x ln)) →
    exec (.fcvt o) s = .next (effDone s c o.g o.len o.du fun ln =>
      { regs := destWrites (o.ty = 2) (clsOf o.du) o.d.toNat (convert o ln.f.ftz (x ln)).1, flags := (convert o ln.f.ftz (x ln)).2 })) ∧
  (∀ (s : State) (c : Ctx) (o : OpT) (b : Lane → Word), Issued s o.g c → DestsFree c o 1 → ReadsB32 c o b →
    exec (.frnd o) s = wroteFloat s c o fun ln =>
      roundIntegral (vecFmt o.ty) (rndOf o.rnd.toNat) (flushIn (vecFmt o.ty) ln.f.ftz (operandCode o.ty (b ln)))) ∧
  (∀ (s : State) (c : Ctx) (o : OpT) (xs : Lane → List Word) (old : Lane → Word), Issued s o.g c → DestsFree c o 1 →
    (∀ ln, Active o.g c ln → srcRegs c ln.f (clsOf o.ua) o.a.r.toNat o.a.w (packN o.ty) = .ok (xs ln) ∧
      (o.ty = 10 → srcReg c ln.f (clsOf o.du) o.d.toNat true = .ok (old ln))) →
    exec (.pack o) s = .next (effDone s c o.g o.len o.du fun ln =>
      let es := (xs ln).map (packElem o (packFtz o ln.f))
      let packed := ofLe (packCodes (packedBits o.ty) (es.map (·.1)) 4) * 2 ^ packShift o
      let keep := if o.ty = 10 then (if packShift o = 16 then (old ln).toNat % 65536 else (old ln).toNat / 65536 * 65536) else 0
      { regs := [(clsOf o.du, o.d.toNat, BitVec.ofNat 32 (packed + keep))], flags := (es.map (·.2)).foldl (· ||| ·) 0 })) ∧
  (∀ (s : State) (c : Ctx) (o : OpT) (b : Lane → Word), Issued s o.g c → DestsFree c o (packN o.ty) → ReadsB32 c o b →
    exec (.unpack o) s = .next (effDone s c o.g o.len o.du fun ln =>
      let es := (unpackCodes (packedBits o.ty) (packN o.ty) (leBytes 4 ((b ln).toNat / 2 ^ packShift o))).map
        (unpackElem o (packFtz o ln.f))
      { regs := regWrites (clsOf o.du) o.d.toNat (es.map (·.1)), flags := (es.map (·.2)).foldl (· ||| ·) 0 })) ∧
  -- R361: the other conversions
  (∀ (o : OpT) (ftz : Bool) (x : DWord), isFloatTy (fcvtSrc o) = true → isFloatTy o.ty = true →
    let code := flushIn (vecFmt (fcvtSrc o)) ftz (operandCode (fcvtSrc o) (x.extractLsb' 0 32))
    let f := vecFmt o.ty
    let is := fun r : Nat × BitVec 5 => convert o ftz x = (BitVec.ofNat 64 (flushOut f ftz r).1, (flushOut f ftz r).2)
    (∀ q, value (vecFmt (fcvtSrc o)) code = .nan q → is (canonNan f, if q then 1 else 0)) ∧
    (∀ n, value (vecFmt (fcvtSrc o)) code = .inf n → is (infCode f n, 0)) ∧
    ∀ n m e, value (vecFmt (fcvtSrc o)) code = .fin n m e → is (roundFin f n m e (rndOf o.rnd.toNat) o.sat)) ∧
  (∀ (o : OpT) (ftz : Bool) (x : DWord), isFloatTy (fcvtSrc o) = false → let n := intVal (fcvtSrc o) x
    (isFloatTy o.ty = true → let r := roundFin (vecFmt o.ty) (decide (n < 0)) n.natAbs 0 (rndOf o.rnd.toNat) o.sat
      convert o ftz x = (BitVec.ofNat 64 r.1, r.2)) ∧
    (isFloatTy o.ty = false → convert o ftz x = (intResult o.ty o.sat n, 0))) ∧
  (∀ (o : OpT) (ftz : Bool) (x : DWord), isFloatTy (fcvtSrc o) = true → isFloatTy o.ty = false →
    convert o ftz x = floatToInt o.ty (rndOf o.rnd.toNat) o.sat
      (value (vecFmt (fcvtSrc o)) (operandCode (fcvtSrc o) (x.extractLsb' 0 32)))) ∧
  -- R365: the integral value in the operand's own format
  (∀ f ∈ [fmtF32, fmtBF16, fmtF16], ∀ (mode : Rnd) (code : Nat),
    (∀ q, value f code = .nan q → roundIntegral f mode code = (canonNan f, if q then 1 else 0)) ∧
    (∀ n, value f code = .inf n → roundIntegral f mode code = (infCode f n, 0)) ∧
    ∀ n m e, value f code = .fin n m e →
      IsRat (value f (roundIntegral f mode code).1) n (ratOf n (roundUnits mode n m e 0).1 0) ∧
      (roundIntegral f mode code).2 = if (roundUnits mode n m e 0).2 then 16 else 0) ∧
  -- R391, R392: one element of PACK and of UNPACK
  (∀ (o : OpT) (f : Fmt), typeFmt o.ty.toNat = some f → 4 ≤ o.ty.toNat →
    (∀ (ftz : Bool) (x : Word), let v := value fmtF32 (flushIn fmtF32 ftz x.toNat)
      (∀ q, v = .nan q → packElem o ftz x = if f.nan = none then (0, 1) else (canonNan f, if q then 1 else 0)) ∧
      (∀ n, v = .inf n → packElem o ftz x = if f.inf = none then
        (overflowCode f n (rndOf o.rnd.toNat) o.sat, 4)
        else (infCode f n, 0)) ∧
      ∀ n m e, v = .fin n m e → packElem o ftz x = flushOut f ftz (roundFin f n m e (rndOf o.rnd.toNat) o.sat)) ∧
    ∀ (ftz : Bool) (code : Nat), code < 2 ^ packedBits o.ty → let v := value f (flushIn f ftz code)
      let r := unpackElem o ftz code
      (∀ q, v = .nan q → r = (0x7FC00000, if q then 1 else 0)) ∧ (∀ n, v = .inf n → r = (if n then 0xFF800000 else 0x7F800000, 0)) ∧
      ∀ n m e, v = .fin n m e → IsRat (value fmtF32 r.1.toNat) n (ratOf n m e) ∧ r.2 = 0) ∧
  -- R89: floating to integer
  (∀ (ty : BitVec 4) (mode : Rnd) (sat q : Bool), floatToInt ty mode sat (.nan q) = (0, 1)) ∧
  (∀ (ty : BitVec 4) (mode : Rnd) (sat n : Bool) (m : Nat) (e : Int),
    let y := (toIntegral mode n m e).1
    (floatToInt ty mode sat (.fin n m e)).1 = intWrap ty (intClamp ty y) ∧
    ((floatToInt ty mode sat (.fin n m e)).2 = if intClamp ty y = y then (if (toIntegral mode n m e).2 then 16 else 0)
      else if sat then 16 else 1))

/-- R55, R344, R352, R375, R394: the special-function producers. Where the manual only bounds a result it is the unit's own value
within the bound (a free value of Config, assumption log 9). -/
def Obligations.SpecialFunctions : Prop :=
  (∀ (s : State) (c : Ctx) (o : OpT) (b : Lane → Word), Issued s o.g c → DestsFree c o 1 → ReadsB32 c o b →
    let done := fun r : Bool → Word → Word × BitVec 5 =>
      (.next ((if o.du then owesOnce else owes) (moved s c o.g o.len) c (clsOf o.du) o.d.toNat
        (passedWith o.g c fun ln => r ln.f.ftz (BitVec.ofNat 32 (flushIn fmtF32 ln.f.ftz (b ln).toNat)))) : Answer)
    exec (.rcp o) s = done (fun _ => rcpOf) ∧ exec (.rsq o) s = done (fun _ => rsqOf) ∧ exec (.sqrt o) s = done (fun _ => sqrtOf) ∧
    exec (.ex2 o) s = done ex2Ftz ∧ exec (.lg2 o) s = done (fun _ => lg2Of) ∧ exec (.sin o) s = done (fun _ => trigOf true 5) ∧
    exec (.cos o) s = done (fun _ => trigOf false 6)) ∧
  (∀ (ftz : Bool) (x : Word), ex2Ftz ftz x = if ftz = true ∧ 0 < (ex2Of x).1.toNat % 2 ^ 31 ∧ (ex2Of x).1.toNat % 2 ^ 31 < 2 ^ 23
    then ((ex2Of x).1 &&& 0x80000000, (ex2Of x).2 ||| 24) else ex2Of x) ∧
  (∀ x : Word, (value fmtF32 x.toNat).isNan = true →
    let inv : BitVec 5 := if (value fmtF32 x.toNat).isSnan then 1 else 0
    rcpOf x = (0x7FC00000, inv) ∧ rsqOf x = (0x7FC00000, inv) ∧ sqrtOf x = (0x7FC00000, inv) ∧ ex2Of x = (0x7FC00000, inv) ∧
    lg2Of x = (0x7FC00000, inv) ∧ trigOf true 5 x = (0x7FC00000, inv) ∧ trigOf false 6 x = (0x7FC00000, inv)) ∧
  rcpOf 0x80000000 = (0xFF800000, 2) ∧ rcpOf 0x7F800000 = (0, 0) ∧ rsqOf 0x80000000 = (0xFF800000, 2) ∧
  rsqOf 0xFF800000 = (0x7FC00000, 1) ∧ sqrtOf 0x80000000 = (0x80000000, 0) ∧ trigOf true 5 0x80000000 = (0x80000000, 0) ∧
  trigOf false 6 0x7F800000 = (0x7FC00000, 1) ∧ ex2Of 0xFF800000 = (0, 0) ∧ lg2Of 0 = (0xFF800000, 2)

/-- R98, R101, R321: which parcels a transfer of control reaches. -/
def Obligations.TransferTargets : Prop :=
  (∀ (c : Ctx) (f : Fibre) (va : Nat),
    (∀ p, fetchPage c.s c.u c.g f va = .ok p →
      let x := coreLine c.s c.u p.pa
      let k := va / 4 % 16
      (fetchBroken c.s c.u p.pa = true → transferCheck c f va = .ok ()) ∧
      (va % 4 = 0 ∧ k < 15 ∧ k ∈ lineStarts x ∧ (lineParcel x 15).getLsbD k = true → transferCheck c f va = .ok ()) ∧
      (fetchBroken c.s c.u p.pa = false → ¬ (va % 4 = 0 ∧ k < 15 ∧ k ∈ lineStarts x ∧ (lineParcel x 15).getLsbD k = true) →
        transferCheck c f va = .error (.fault 0x03 0 va))) ∧
    (∀ cause sub addr, fetchPage c.s c.u c.g f va = .error (.fault cause sub addr) → transferCheck c f va = .ok ()) ∧
    ∀ w, fetchPage c.s c.u c.g f va = .error (.block w) → transferCheck c f va = .error (.block w)) ∧
  ∀ x : Line, 0 ∈ lineStarts x ∧ (∀ k ∈ lineStarts x, k < 15) ∧
    (∀ k ∈ lineStarts x, k + parcelCount (lineParcel x k) < 15 → k + parcelCount (lineParcel x k) ∈ lineStarts x) ∧
    ∀ k ∈ lineStarts x, k ≠ 0 → ∃ j ∈ lineStarts x, j + parcelCount (lineParcel x j) = k

/-- R99, R113, R335, R337, R339, R340, R399: the transfers of control. -/
def Obligations.Branches : Prop :=
  (∀ (s : State) (c : Ctx) (o : OpJ), Issued s o.g c →
    let target : DWord := c.pc + BitVec.ofInt 64 (4 * o.disp.toInt)
    (∀ ln, Active o.g c ln → transferCheck c ln.f target.toNat = .ok ()) →
      exec (.bra o) s = .next (effDone s c o.g 2 false fun _ => { pc := some target }) ∧
      ((∀ ln, Active o.g c ln → 2 ≤ vecCount c.g ln.f ∧ destsReady c ln.f 0 0 2 = .ok ()) →
        exec (.call o) s = .next (effDone s c o.g 2 false fun _ =>
          { regs := [(0, 0, (nextPc c.pc 2).extractLsb' 0 32), (0, 1, (nextPc c.pc 2).extractLsb' 32 32)], pc := some target }))) ∧
  (∀ (s : State) (c : Ctx) (o : OpU) (t : Lane → DWord), Issued s o.g c →
    (∀ ln, Active o.g c ln → srcPair c ln.f false o.a = .ok (t ln) ∧ transferCheck c ln.f (t ln).toNat = .ok ()) →
    exec (.brx o) s = .next (effDone s c o.g 1 false fun ln => { pc := some (t ln) })) ∧
  (∀ (s : State) (c : Ctx) (o : OpN) (t : Lane → DWord), Issued s o.g c →
    (∀ ln, Active o.g c ln → srcPairReg c ln.f 0 0 true = .ok (t ln) ∧ transferCheck c ln.f (t ln).toNat = .ok ()) →
    exec (.ret o) s = .next (effDone s c o.g 1 false fun ln => { pc := some (t ln) })) ∧
  (∀ (s : State) (c : Ctx) (o : OpJ) (thr : Lane → Word), Issued s o.g c →
    let n := o.d.toNat % 64
    let target : DWord := c.pc + BitVec.ofInt 64 (4 * o.disp.toInt)
    let allow := ((colWord s c.u n).extractLsb' 0 28).toNat
    (∀ ln, Active o.g c ln → slotCheck s c.u (domainOf c.g ln.f) n = .ok () ∧ srcField c ln.f false o.a = .ok (thr ln) ∧
      (allow < (thr ln).toNat → transferCheck c ln.f target.toNat = .ok ())) →
    exec (.bcol o) s = .next (effDone s c o.g 2 false fun ln =>
      { pc := if allow < (thr ln).toNat then some target else none })) ∧
  (∀ (s : State) (c : Ctx) (o : OpN) (first : Lane), Issued s o.g c → FirstActive o.g c first →
    (∀ ln, Active o.g c ln → vecCount c.g ln.f < 2 ∧ ln.f.reg 0 = { val := 0, st := .full }) →
    exec (.ret o) s = .next (stoppedAt s c o.g 1 first 0x08 0 (if vecCount c.g first.f = 0 then 0 else 1))) ∧
  ∀ (s : State) (c : Ctx) (o : OpJ) (first : Lane), Issued s o.g c → FirstActive o.g c first →
    (∀ ln, Active o.g c ln → vecCount c.g ln.f < 2) → exec (.call o) s = .next (stoppedAt s c o.g 2 first 0x08 0 1)

/-- R247, R336, R343, R351, R389, R413: traps, the return from supervisor mode, YIELD and COLRD. -/
def Obligations.TrapsAndReturns : Prop :=
  (∀ (s : State) (c : Ctx) (o : OpN) (first : Lane), Issued s o.g c → FirstActive o.g c first →
    exec (.bkpt o) s = .next (stoppedAt s c o.g 1 first 0x1A 0 0)) ∧
  (∀ (s : State) (c : Ctx) (o : OpU) (first : Lane), Issued s o.g c → FirstActive o.g c first →
    exec (.trap o) s = .next (stoppedAt s c o.g 1 first 0x1B 0 o.d.toNat) ∧
    exec (.syscall o) s = .next (stoppedAt s c o.g 1 first 0x1C 0 o.d.toNat)) ∧
  (∀ (s : State) (c : Ctx) (o : OpN), Issued s o.g c →
    exec (.yield o) s = .next (lanesDone s c o.g 1 id fun _ f => { f with yieldTo := (s.core c.u).opp + 64 }) ∧
    ((∀ ln, Active o.g c ln → ln.f.saving = false ∧ transferCheck c ln.f ln.f.fpc.toNat = .ok ()) →
      exec (.eret o) s = .next (lanesDone s c o.g 1 id fun ln f => { f with pc := alignPc ln.f.fpc, sup := false })) ∧
    ((∃ ln, Active o.g c ln ∧ ln.f.saving = true) →
      (∀ ln, Active o.g c ln → ln.f.saving = false → transferCheck c ln.f ln.f.fpc.toNat = .ok ()) →
      exec (.eret o) s = .next (settleMigr (settleBarriers (lanesDone s c o.g 1 id fun ln f =>
        if ln.f.saving then { f with stopped := true } else { f with pc := alignPc ln.f.fpc, sup := false }) c.u c.slot) c.u c.slot))) ∧
  (∀ opp k : Nat, k < opp → (ranksBehind opp (k + 65) = true ↔ ∃ i, i < 16 ∧ opp = k + 4 * (i + 1))) ∧
  (∀ (s : State) (c : Ctx) (o : OpT) (n : Lane → Word), Issued s o.g c → DestsFree c o 1 → ReadsB32 c o n →
    (∀ ln, Active o.g c ln → (n ln).toNat ≤ 63 ∧ slotCheck s c.u (domainOf c.g ln.f) (n ln).toNat = .ok ()) →
    exec (.colrd o) s = .next (effDone s c o.g o.len o.du fun ln =>
      { regs := [(clsOf o.du, o.d.toNat, colWord s c.u (n ln).toNat)] })) ∧
  ∀ (s : State) (c : Ctx) (o : OpT) (n : Lane → Word) (first : Lane), Issued s o.g c → DestsFree c o 1 → ReadsB32 c o n →
    FirstActive o.g c first → (∀ ln, Active o.g c ln → 63 < (n ln).toNat) →
    exec (.colrd o) s = .next (stoppedAt s c o.g o.len first 0x08 0 (8 * 256 + (n first).toNat % 256))

/-- R37 to R40, R189, R405: signing a convergence register, and the three forms of SIGN. -/
def Obligations.Signing : Prop :=
  (∀ (s : State) (c : Ctx) (o : OpT) (waits : Bool), Issued s o.g c → (∀ ln, Active o.g c ln → ln.f.gate = none) →
    exec (if waits then .signWait o else .signArv o) s = ranInOrder s c o.g o.len (fun _ => ()) fun s ln _ =>
      joined c s ln (signLane c s ln.id
        { cv := o.c.toNat % 16, key := [0x013], signer := { fibre := ln.id, x := 0, y := 0, p := false, d := 0 }, waits := waits }
        (fun _ => none) fun s ms => .done (wakeSigned s c.u c.slot (o.c.toNat % 16) (ms.map (·.fibre))))) ∧
  (∀ (s : State) (c : Ctx) (o : OpT) (n : Lane → Word), Issued s o.g c → (∀ ln, Active o.g c ln → ln.f.gate = none) →
    ReadsB32 c o n →
    exec (.signInit o) s = ranInOrder s c o.g o.len n fun s ln n =>
      match s.group c.u c.slot with
      | none => s
      | some g =>
        joined c s ln
          (if n.toNat = 0 ∨ 1024 < n.toNat ∨ g.hdr.kfibs < n.toNat then .refuse 0x11 0 (o.c.toNat % 16)
          else if (g.conv (o.c.toNat % 16)).signers ≠ [] then .refuse 0x10 0 (o.c.toNat % 16)
          else .done (s.modGroup c.u c.slot fun g => { g with convs := sset g.convs (o.c.toNat % 16) { e := n.toNat } }))) ∧
  ∀ (c : Ctx) (s : State) (id : Nat) (r : SignReq) (complete : State → List Signer → SignEnd) (g : Machine.Group) (f : Fibre),
    s.group c.u c.slot = some g → sget g.fibres id = some f → r.signer.fibre = id →
    let k := g.conv r.cv
    let res := signLane c s id r (fun _ => none) complete
    (f.signs.getLsbD r.cv = true → res = .block (.sign r.cv)) ∧
    (f.signs.getLsbD r.cv = false →
      (r.cross = true → 32 < k.e → res = .refuse 0x0E 0 r.cv) ∧
      (¬ (r.cross = true ∧ 32 < k.e) →
        (k.signers ≠ [] → k.key ≠ r.key → res = .refuse 0x0F 0 r.cv) ∧
        (k.signers = [] ∨ k.key = r.key →
          (k.signers.length + 1 < k.e → ∃ t g2 f2, res = .done t ∧ t.group c.u c.slot = some g2 ∧ sget g2.fibres id = some f2 ∧
            g2.conv r.cv = { k with signers := insertSigner r.signer k.signers, key := r.key } ∧
            f2.signs = f.signs ||| (1#16 <<< r.cv) ∧ f2.pc = f.pc ∧ f2.preds = f.preds ∧
            f2.wait = (if r.waits then some (.signed r.cv) else f.wait) ∧
            (f.gate = none → ∀ n, f2.reg n = if n ∈ r.dests then { f.reg n with st := .empty } else f.reg n) ∧
            (∀ p, p < 8 → f2.predPend.getLsbD p = (f.predPend.getLsbD p || decide (p ∈ r.preds))) ∧
            ∀ j, j ≠ id → sget g2.fibres j = sget g.fibres j) ∧
          (k.e ≤ k.signers.length + 1 → ∃ t g2, res = complete t (insertSigner r.signer k.signers) ∧
            t.group c.u c.slot = some g2 ∧ g2.conv r.cv = { k with signers := [], key := [] } ∧
            (∀ m ∈ insertSigner r.signer k.signers, ∀ f2, sget g2.fibres m.fibre = some f2 → f2.signs.getLsbD r.cv = false) ∧
            ∀ j, j ≠ id → (∀ m ∈ k.signers, m.fibre ≠ j) → sget g2.fibres j = sget g.fibres j))))

/-- R396 to R398: the cross-lane entries. `sum` is what ⊕ over values gives, with the flags of its additions. -/
def Obligations.CrossLane : Prop :=
  let signs := fun (s : State) (c : Ctx) (o : OpT) (opc : Nat) (wide : Bool) (V : Lane → DWord × Word × Bool)
      (finish : State → List Signer → State) =>
    ranInOrder s c o.g o.len V fun s ln v => joined c s ln (signLane c s ln.id
      { cv := o.c.toNat % 16, key := [opc, o.ty.toNat] ++ uniKey o, cross := true,
        signer := { fibre := ln.id, x := v.1, y := v.2.1, p := v.2.2, d := o.d.toNat },
        dests := if wide then [o.d.toNat, o.d.toNat + 1] else [o.d.toNat] }
      (fun _ => none) fun s ms => .done (finish s ms))
  let ready := fun (c : Ctx) (o : OpT) (k : Nat) => ∀ ln, Active o.g c ln → ln.f.gate = none ∧
    ln.f.signs.getLsbD (o.c.toNat % 16) = false ∧ destsReady c ln.f 0 o.d.toNat k = .ok ()
  (∀ (s : State) (c : Ctx) (o : OpT) (x y : Lane → Word), Issued s o.g c → ready c o 1 → ReadsA32 c o x → ReadsB32 c o y →
    let shfl := fun (opc : Nat) (pick : Int → Int → Int) => signs s c o opc false (fun ln => ((x ln).setWidth 64, y ln, false))
      fun s ms => ms.zipIdx.foldl (fun s m =>
        let j := pick m.2 m.1.y.toNat
        giveRegs s c.u c.slot m.1 [(m.1.d, (if 0 ≤ j then (ms[j.toNat]?.map (·.x)).getD m.1.x else m.1.x).setWidth 32)]) s
    exec (.shflIdx o) s = shfl 0x0A0 (fun _ y => y) ∧
    exec (.shflUp o) s = shfl 0x0A1 (fun k y => k - y) ∧
    exec (.shflDown o) s = shfl 0x0A2 (fun k y => k + y) ∧
    exec (.shflXor o) s = shfl 0x0A3 (fun k y => (k.toNat ^^^ y.toNat : Nat))) ∧
  (∀ (s : State) (c : Ctx) (o : OpT), Issued s o.g c → ready c o 1 →
    (∀ ln, Active o.g c ln → ln.f.predPend.getLsbD (o.c.toNat / 16 % 8) = false) →
    exec (.voteBallot o) s = signs s c o 0x0A6 false (fun ln => (0, 0, ln.f.pred (o.c.toNat / 16 % 8) != o.c.getLsbD 7))
      fun s ms => ms.foldl (fun s m => giveRegs s c.u c.slot m
        [(m.d, BitVec.ofNat 32 ((ms.zipIdx.map fun x => if x.1.p then 2 ^ x.2 else 0).foldl (· + ·) 0))]) s) ∧
  (∀ (s : State) (c : Ctx) (o : OpT) (all : Bool), Issued s o.g c →
    (∀ ln, Active o.g c ln → ln.f.gate = none ∧ ln.f.signs.getLsbD (o.c.toNat % 16) = false ∧
      ln.f.predPend.getLsbD (o.c.toNat / 16 % 8) = false ∧ ln.f.predPend.getLsbD (o.d.toNat % 8) = false) →
    exec (if all then .voteAll o else .voteAny o) s =
      ranInOrder s c o.g o.len (fun ln => ln.f.pred (o.c.toNat / 16 % 8) != o.c.getLsbD 7) fun s ln p =>
        joined c s ln (signLane c s ln.id
          { cv := o.c.toNat % 16, key := [if all then 0x0A5 else 0x0A4, o.ty.toNat] ++ uniKey o, cross := true,
            signer := { fibre := ln.id, x := 0, y := 0, p := p, d := o.d.toNat },
            preds := if o.d.toNat % 8 = 7 then [] else [o.d.toNat % 8] }
          (fun _ => none) fun s ms => .done (ms.foldl (fun s m =>
            givePred s c.u c.slot m.fibre (m.d % 8) (if all then ms.all (·.p) else ms.any (·.p))) s))) ∧
  (∀ (s : State) (c : Ctx) (o : OpT) (a : Lane → DWord), Issued s o.g c → ready c o (if o.ty = 2 then 2 else 1) → ReadsA c o a →
    let redux := fun op => signs s c o (0x0A8 + op) (o.ty = 2) (fun ln => (a ln, 0, false)) fun s ms =>
      let r := reduxAll op o.ty s.freeCount (ms.map (·.x))
      giveResults o { s with freeCount := s.freeCount + 32 } c.u c.slot ms (ms.map fun _ => r)
    let scan := fun op => signs s c o (0x0B0 + op) (o.ty = 2) (fun ln => (a ln, if o.c.getLsbD 4 then 1 else 0, false)) fun s ms =>
      giveResults o { s with freeCount := s.freeCount + 1024 } c.u c.slot ms (ms.zipIdx.map fun m =>
        let n := if m.1.y = 1 then m.2 else m.2 + 1
        if n = 0 then (scanIdentity op o.ty, 0) else reduxAll op o.ty (s.freeCount + 32 * m.2) ((ms.map (·.x)).take n))
    exec (.reduxAdd o) s = redux 0 ∧ exec (.reduxMin o) s = redux 1 ∧ exec (.reduxMax o) s = redux 2 ∧
    exec (.reduxAnd o) s = redux 3 ∧ exec (.reduxOr o) s = redux 4 ∧ exec (.reduxXor o) s = redux 5 ∧
    exec (.scanAdd o) s = scan 0 ∧ exec (.scanMin o) s = scan 1 ∧ exec (.scanMax o) s = scan 2 ∧
    exec (.scanAnd o) s = scan 3 ∧ exec (.scanOr o) s = scan 4 ∧ exec (.scanXor o) s = scan 5) ∧
  (∀ (ty : BitVec 4) (k : Nat) (xs : List DWord), xs ≠ [] → ty = 0 ∨ ty = 1 ∨ ty = 2 →
    (∀ x ∈ xs, x.toNat < 2 ^ intWidth ty) →
    let r := fun op => (reduxAll op ty k xs).1
    (2 ^ intWidth ty : Int) ∣ intVal ty (r 0) - (xs.map (intVal ty)).sum ∧
    intVal ty (r 1) ∈ xs.map (intVal ty) ∧ (∀ x ∈ xs, intVal ty (r 1) ≤ intVal ty x) ∧
    intVal ty (r 2) ∈ xs.map (intVal ty) ∧ (∀ x ∈ xs, intVal ty x ≤ intVal ty (r 2)) ∧
    ∀ i, i < intWidth ty →
      ((r 3).getLsbD i = xs.all fun x => x.getLsbD i) ∧ ((r 4).getLsbD i = xs.any fun x => x.getLsbD i) ∧
      ((r 5).getLsbD i = decide ((xs.countP fun x => x.getLsbD i) % 2 = 1))) ∧
  (scanIdentity 0 0 = 0 ∧ scanIdentity 4 0 = 0 ∧ scanIdentity 5 0 = 0 ∧ scanIdentity 3 0 = 0xFFFFFFFF ∧
    scanIdentity 3 2 = 0xFFFFFFFFFFFFFFFF ∧ scanIdentity 1 1 = 0xFFFFFFFF ∧ scanIdentity 1 0 = 0x7FFFFFFF ∧
    scanIdentity 1 2 = 0x7FFFFFFFFFFFFFFF ∧ scanIdentity 1 3 = 0x7F800000 ∧ scanIdentity 2 1 = 0 ∧
    scanIdentity 2 0 = 0x80000000 ∧ scanIdentity 2 2 = 0x8000000000000000 ∧ scanIdentity 2 3 = 0xFF800000)

/-- R30 to R34, R44, R333, R334, R353, R363, R406: barriers, EXIT and SPAWN. The mode and gate of a spawned fibre, and CONV_SHORT where U is
short already, are the model's choices (logs 91 and 93); a barrier of a gang meets at its resident fibres (log 51). -/
def Obligations.BarriersAndFibres : Prop :=
  (∀ (s : State) (c : Ctx) (o : OpN) (gang : Bool), Issued s o.g c → (∃ ln, Active o.g c ln) →
    (∀ ln, Active o.g c ln → releaseCheck c ln (if gang then 4 else 2) = .ok () ∧ allReturned s c.u c.slot ln.id = true) →
    exec (if gang then .barGang o else .barGrp o) s = .next (settleBarriers
      (lanesDone s c o.g 1 id fun _ f => { f with wait := some (.barrier gang), pc := c.pc }) c.u c.slot)) ∧
  (∀ (s : State) (u slot : Nat) (g : Machine.Group), s.group u slot = some g → let ps := gangPlaces s u slot g
    (u, slot) ∈ ps → ps.Nodup →
    let here := fun (h : Machine.Group) => ∃ p ∈ ps, s.group p.1 p.2 = some h
    ((∃ e ∈ liveFibres g, True) → (∀ e ∈ liveFibres g, e.2.wait = some (.barrier false)) →
      settleBarriers s u slot = leaveBarrier s false (u, slot)) ∧
    ((∃ h, here h ∧ ∃ e ∈ liveFibres h, True) → (∀ h, here h → ∀ e ∈ liveFibres h, e.2.wait = some (.barrier true)) →
      let t := settleBarriers s u slot
      (∀ p ∈ ps, t.group p.1 p.2 = (leaveBarrier s true p).group p.1 p.2 ∧ (t.core p.1).lcopies = []) ∧
      (∀ v k, (v, k) ∉ ps → t.group v k = s.group v k) ∧ t.mem = s.mem ∧ t.dies = s.dies ∧ t.tasks = s.tasks ∧ t.flights = s.flights) ∧
    ((∃ e ∈ liveFibres g, e.2.wait ≠ some (.barrier false)) →
      (∃ h, here h ∧ ∃ e ∈ liveFibres h, e.2.wait ≠ some (.barrier true)) → settleBarriers s u slot = s)) ∧
  (∀ (s : State) (gang : Bool) (u slot : Nat) (g : Machine.Group), s.group u slot = some g →
    let freed := fun (e : Nat × Fibre) =>
      if e.2.wait = some (.barrier gang) then
        (e.1, { e.2 with wait := none, readyAt := (s.core u).opp, pc := nextPc e.2.pc 1 }) else e
    (leaveBarrier s gang (u, slot)).group u slot = some { g with fibres := g.fibres.map freed }) ∧
  (∀ (s : State) (c : Ctx) (o : OpN) (page : Lane → Option Page), Issued s o.g c → (∃ ln, Active o.g c ln) →
    convShort c.g ((activeOf o.g c.lanes).map (·.id)) = none →
    (∀ ln, Active o.g c ln → (c.g.hdr.kframe = 0 → page ln = none) ∧
      (c.g.hdr.kframe ≠ 0 → ∃ p, page ln = some p ∧ holdCheck c ln = .ok () ∧ frameCheck c ln.f ln.id 64 = .ok p ∧
        frameSlot c p = none)) →
    exec (.exit o) s = .next (settleMigr (settleBarriers ((passedWith o.g c page).foldl (fun s x => endFibre s c.u c.slot x.1.id)
      (writeFrames c (moved s c o.g 1) ((passedWith o.g c page).filterMap fun x => x.2.map fun p =>
        { fibre := x.1.id, page := p, pieces := [(18, [2])] }))) c.u c.slot) c.u c.slot)) ∧
  (∀ (g : Machine.Group) (ids : List Nat),
    convShort g ids = none ↔ ∀ e ∈ g.convs, e.2.signers ≠ [] →
      e.2.e - e.2.signers.length ≤ ((liveFibres g).filter fun f => !f.2.signs.getLsbD e.1 && !ids.contains f.1).length) ∧
  (∀ (s : State) (u slot id : Nat) (g : Machine.Group), s.group u slot = some g →
    ∃ g2, (endFibre s u slot id).group u slot = some g2 ∧ sget g2.fibres id = none ∧
      (∀ j, j ≠ id → sget g2.fibres j = sget g.fibres j) ∧
      (g2.st = if g2.fibres = [] then .ending else g.st) ∧
      (endFibre s u slot id).mem = s.mem) ∧
  ∀ (s : State) (c : Ctx) (o : OpJ) (v : Lane → Word) (slotOf : Lane → Option (Nat × Option Page)), Issued s o.g c →
    let target : DWord := c.pc + BitVec.ofInt 64 (4 * o.disp.toInt)
    (∀ ln, Active o.g c ln → srcField c ln.f false o.a = .ok (v ln) ∧ destReady c ln.f 0 o.d.toNat = .ok () ∧
      targetCheck c ln.f target.toNat = .ok () ∧
      match (freeSlots s c.u c.slot c.g)[((activeOf o.g c.lanes).takeWhile fun x => x.id != ln.id).length]? with
      | none => slotOf ln = none
      | some id =>
        (c.g.hdr.kframe = 0 → slotOf ln = some (id, none)) ∧
        (c.g.hdr.kframe ≠ 0 → ∃ p, holdCheck c ln = .ok () ∧ frameCheck c ln.f id (Nat.min c.g.hdr.kframe 128) = .ok p ∧ frameSlot c p = none ∧
          slotOf ln = some (id, some p))) →
    exec (.spawn o) s = .next ((passedWith o.g c fun ln => (v ln, slotOf ln)).foldl (fun s x =>
      match x.2.2 with
      | none => s.writeReg c.u c.slot x.1.id 0 o.d.toNat 0xFFFFFFFF
      | some (id, _) => (spawnFibre c s id target x.2.1).writeReg c.u c.slot x.1.id 0 o.d.toNat (BitVec.ofNat 32 id))
      (writeFrames c (moved s c o.g 2) (spawnFrames c target (passedWith o.g c fun ln => (v ln, slotOf ln))))) ∧
    ∀ (t : State) (id : Nat) (w : Word) (g : Machine.Group), t.group c.u c.slot = some g →
      ((spawnFibre c t id target w).fibre c.u c.slot id).map
        (fun f => (f.pc, f.preds, f.flags, f.wct, f.signs, f.regs, f.sup, f.wait, f.faulted)) =
        some (alignPc target, 0x80, 0, 0, 0, [(0, { val := w, st := .full })], isSupCore c.u, none, false) ∧
      ∀ j, j ≠ id → (spawnFibre c t id target w).fibre c.u c.slot j = t.fibre c.u c.slot j

/-- R252 to R258, R280, R380, R400: restart regions, call gates and migration. -/
def Obligations.RegionsGatesMigration : Prop :=
  (∀ (s : State) (c : Ctx) (o : OpG) (vs : Lane → List Word) (page : Lane → Page), Issued s o.g c → 128 ≤ c.g.hdr.kframe →
    (∀ ln, Active o.g c ln → readLiveIns c ln.f (((List.range 32).filter fun i => o.mask.getLsbD i).map (o.base.toNat + ·)) =
      .ok (vs ln) ∧ ln.f.gate = none ∧ ln.f.predPend = 0 ∧ holdCheck c ln = .ok () ∧ frameCheck c ln.f ln.id 128 = .ok (page ln) ∧
      frameSlot c (page ln) = none) →
    exec (.rgn o) s = .next (writeFrames c (moved s c o.g 2) ((activeOf o.g c.lanes).map fun ln =>
      { fibre := ln.id, page := page ln
        pieces := [(0, leBytes 8 (nextPc c.pc 2).toNat ++ leBytes 4 (fstatWord ln.f).toNat ++ leBytes 4 o.mask.toNat ++
          leBytes 1 o.base.toNat ++ leBytes 1 (ln.f.preds ||| 0x80).toNat ++ leBytes 1 1), (64, frameVals (vs ln))] }))) ∧
  (∀ (s : State) (c : Ctx) (o : OpT) (x : Lane → GateCall), let s0 := noteGates o s
    Issued s0 o.g c → (∀ ln, Active o.g c ln → gcallCheck o c ln = .ok (x ln)) →
    exec (.gcall o) s = ranInOrder s0 c o.g o.len x fun s ln x => joined c s ln (enterGate o c s ln x)) ∧
  (∀ (s : State) (o : OpT), { noteGates o s with dies := s.dies, freeCount := s.freeCount } = s) ∧
  (∀ (o : OpT) (c : Ctx) (s : State) (ln : Lane) (x : GateCall) (set base : Nat) (p : Dpart) (f : Fibre),
    dpartOf s c.u x.tdom = some (set, p) → s.fibre c.u c.slot ln.id = some f →
    (findRun (vecHeld (s.core c.u)) p.vbase p.vgran (x.gregs / 8) = none →
      enterGate o c s ln x = .block (.gateWindow x.tdom)) ∧
    (findRun (vecHeld (s.core c.u)) p.vbase p.vgran (x.gregs / 8) = some base → ∃ t f2, enterGate o c s ln x = .done t ∧
      t.fibre c.u c.slot ln.id = some f2 ∧ f2.pc = alignPc x.entry ∧ f2.windowBase = 8 * base ∧
      (∀ n, f2.reg n = match x.args[n]? with
        | some a => { val := a, st := .full }
        | none => { val := 0, st := .full }) ∧
      (∃ k, f2.gate = some k ∧ k.ret = nextPc c.pc o.len ∧ k.callPc = c.pc ∧ k.vd = o.d.toNat ∧ k.nres = x.nres ∧ k.tdom = x.tdom ∧
        k.gregs = x.gregs ∧ k.callerRegs = f.regs ∧ k.callerBase = f.windowBase ∧ k.callerPreds = f.preds ∧ k.callerFlags = f.flags ∧
        k.callerFtz = f.ftz) ∧
      f2.preds = 0x80 ∧ f2.flags = 0 ∧ f2.ftz = false ∧ f2.wct = f.wct)) ∧
  (∀ (s : State) (c : Ctx) (o : OpN) (k : Lane → Gate) (vs : Lane → List Word), Issued s o.g c →
    (∀ ln, Active o.g c ln → ln.f.gate = some (k ln) ∧ srcRegs c ln.f 0 0 true (k ln).nres = .ok (vs ln) ∧
      (k ln).vd + (k ln).nres ≤ granules8 c.g.hdr.kregs ∧
      (∀ i, i < (k ln).nres → (ln.f.ownReg ((k ln).vd + i)).pending = false) ∧
      (∀ r ∈ (s.core c.u).returns, ¬ (r.slot = c.slot ∧ r.fibre = ln.id)) ∧
      transferCheck c { ln.f with gate := none, regs := (k ln).callerRegs, windowBase := (k ln).callerBase, pc := (k ln).ret,
                                  preds := (k ln).callerPreds, predPend := (k ln).callerPend, flags := (k ln).callerFlags,
                                  ftz := (k ln).callerFtz } (k ln).ret.toNat = .ok ()) →
    exec (.gret o) s = .next ((activeOf o.g c.lanes).foldl (fun s ln => s.forgetWindow c.u c.slot ln.id) (lanesDone s c o.g 1 id fun ln f =>
      { f with
        gate := none, windowBase := (k ln).callerBase, pc := (k ln).ret, preds := (k ln).callerPreds
        predPend := (k ln).callerPend, flags := (k ln).callerFlags, ftz := (k ln).callerFtz
        regs := (vs ln).zipIdx.foldl (fun m v => sset m ((k ln).vd + v.2) { val := v.1, st := .full }) (k ln).callerRegs }))) ∧
  (∀ (s : State) (c : Ctx) (o : OpN) (first : Lane), Issued s o.g c → FirstActive o.g c first →
    (∀ ln, Active o.g c ln → ln.f.gate = none) → exec (.gret o) s = .next (stoppedAt s c o.g 1 first 0x17 3 0)) ∧
  (∀ (s : State) (c : Ctx) (o : OpM) (a : Lane → Nat) (home : Lane → Nat), Issued s o.g c → isSupCore c.u = false →
    (∃ ln, Active o.g c ln) →
    (∀ ln, Active o.g c ln → ln.f.gate = none ∧ addr64 c ln.f o 1 = .ok (a ln) ∧
      ∃ p, translate s c.u (whoOf s c.u c.g ln.f) (a ln) .load 1 true = .ok p ∧
        home ln = if paPkg p.pa = s.pkg then paDie p.pa else 8) →
    exec (.migr o) s = .next (settleMigr (lanesDone s c o.g o.len id fun ln f =>
      { f with wait := some (.migrate (BitVec.ofNat 64 (a ln)) (home ln) (nextPc c.pc o.len) ln.l), pc := c.pc }) c.u c.slot)) ∧
  ∀ (s : State) (u slot h : Nat) (t : List Nat) (g : Machine.Group), s.group u slot = some g → g.canIssue = true →
    migrArrived g = true → migrHomes g = h :: t →
    ((∃ j ∈ t, j ≠ h) → settleMigr s u slot = migrFault s u slot 0x18) ∧
    ((∀ j ∈ t, j = h) →
      ((dieLost s (dieOf u)).testBit h = true → settleMigr s u slot = migrFault s u slot 0x16) ∧
      ((dieLost s (dieOf u)).testBit h = false →
        (h = dieOf u → settleMigr s u slot = s.modGroup u slot (migrRelease (s.core u).opp)) ∧
        (h ≠ dieOf u → landingOn s g h = none → settleMigr s u slot = migrFault s u slot 0x18) ∧
        (∀ p, h ≠ dieOf u → landingOn s g h = some p → landingTaken s g h = true →
          settleMigr s u slot = migrFault s u slot 0x18) ∧
        (∀ p, h ≠ dieOf u → landingOn s g h = some p → landingTaken s g h = false →
          settleMigr s u slot = s.modGroup u slot fun g => { g with st := .migrating h })))

/-- R370 to R373, R57, R78, R155, R160, R209: LD, its checks, its effect in each place, its block scale, and its frame. -/
def Obligations.Loads : Prop :=
  (∀ (s : State) (c : Ctx) (o : OpM) (v : Lane → LdLane), Issued s o.g c → (∃ ln, Active o.g c ln) →
    (∀ ln, Active o.g c ln → ldCheck o c ln = .ok (v ln)) →
    exec (.ld o) s = .next ((passedWith o.g c v).foldl (ldLane o c) (moved s c o.g o.len))) ∧
  (∀ (o : OpM) (c : Ctx) (ln : Lane), acquiring c.s c.u c.slot ln.id = true → ldCheck o c ln = .error (.block (.acquire 0))) ∧
  (∀ (o : OpM) (c : Ctx) (ln : Lane) (ea : Nat), o.space = 1 → acquiring c.s c.u c.slot ln.id = false →
    addrOf c ln.f o (shapeOf o).span = .ok ea → destsReady c ln.f 0 o.d.toNat (shapeOf o).n = .ok () →
    (misaligned (shapeOf o).fp6 ea (shapeOf o).span = true → ldCheck o c ln = .error (.fault 0x04 0 ea)) ∧
    (misaligned (shapeOf o).fp6 ea (shapeOf o).span = false →
      (32768 * (spBanks c.g ln.f).length < ea + (shapeOf o).span →
        ldCheck o c ln = .error (.fault 0x08 0 (256 * 4 + spBank c.g ln.f ea))) ∧
      (ea + (shapeOf o).span ≤ 32768 * (spBanks c.g ln.f).length →
        ldCheck o c ln = if lockHit c.s c.u (domainOf c.g ln.f) c.slot 1 ea (shapeOf o).span then .error (.fault 0x0B 0 ea)
          else .ok { t := .sp ea, scale := none }))) ∧
  (∀ (o : OpM) (c : Ctx) (ln : Lane) (ea : Nat) (x : LdLane), o.space = 0 → acquiring c.s c.u c.slot ln.id = false →
    addrOf c ln.f o (shapeOf o).span = .ok ea → destsReady c ln.f 0 o.d.toNat (shapeOf o).n = .ok () →
    ldGlobal c ln.f (shapeOf o) ea = .ok x → let dom := domainOf c.g ln.f
    (lockHit c.s c.u dom c.slot 0 ea (shapeOf o).span = true → ldCheck o c ln = .error (.fault 0x0B 0 ea)) ∧
    (∀ a t, lockHit c.s c.u dom c.slot 0 ea (shapeOf o).span = false → x.scale = some (a, t) →
      lockHit c.s c.u dom c.slot 0 a 1 = true → ldCheck o c ln = .error (.fault 0x0B 0 ea)) ∧
    (lockHit c.s c.u dom c.slot 0 ea (shapeOf o).span = false →
      (∀ a t, x.scale = some (a, t) → lockHit c.s c.u dom c.slot 0 a 1 = false) →
      (x.t.foreign c.s = true → foreignBusy c.s c.u c.slot ln.id (x.t.pa c.s) = true →
        ldCheck o c ln = .error (.block (.sameLine (x.t.pa c.s)))) ∧
      ((∀ t, t = x.t ∨ (∃ a, x.scale = some (a, t)) →
        t.foreign c.s = false ∨ foreignBusy c.s c.u c.slot ln.id (t.pa c.s) = false) → ldCheck o c ln = .ok x))) ∧
  (∀ (o : OpM) (c : Ctx) (s : State) (x : Lane × LdLane) (g : Machine.Group) (f : Fibre),
    s.group c.u c.slot = some g → sget g.fibres x.1.id = some f → (∀ r ∈ (s.core c.u).returns, r.id ≠ s.nextId) →
    let t := ldLane o c s x
    let sh := shapeOf o
    let pa := x.2.t.pa s
    let ret : Return := { id := s.nextId, slot := c.slot, fibre := x.1.id, holdsFlags := sh.decode != 0, acq := o.ord == 1, data := true,
                          st := .ready, flags := 0, dests := (List.range sh.n).map fun i => (0, o.d.toNat + i, 0) }
    let flight := fun (id pa size decode : Nat) (kind : FlightKind) (page : Option (Nat × Nat × Nat)) => ({
      id := id, u := c.u, slot := c.slot, kind := kind, pa := pa, since := s.now (dieOf c.u), domain := dsDomain c x.1.f
      cls := fibreClass s c.u c.slot x.1.id
      parts := [{ fibre := x.1.id, addr := pa, size := size, ret := some s.nextId, decode := decode, page := page }] } : Flight)
    let fl := fun (kind : FlightKind) => flight (s.nextId + 1) pa sh.span sh.decode kind (x.2.t.via c x.1.f)
    let away := fun (kind : FlightKind) => t.flights = s.flights ++ [fl kind] ∧
      (t.core c.u).returns = (s.core c.u).returns ++ [{ ret with st := .away (s.nextId + 1) }]
    let filled := fun (bytes : List Byte) => t.flights = s.flights ∧
      (t.core c.u).returns = (s.core c.u).returns ++ [{ ret with after := latest s }.filled sh.decode bytes]
    (∃ g2 f2, t.group c.u c.slot = some g2 ∧ sget g2.fibres x.1.id = some f2 ∧ (∀ j, j ≠ x.1.id → sget g2.fibres j = sget g.fibres j) ∧
      (∀ r, f2.reg r = if o.d.toNat ≤ r ∧ r < o.d.toNat + sh.n then { f.reg r with st := .empty } else f.reg r) ∧
      { f2 with regs := f.regs } = f ∧ { g2 with fibres := g.fibres } = g) ∧
    t.mem = s.mem ∧
    (x.2.scale = none →
      (∀ off, x.2.t = .sp off → filled (bytesGet g.scratch off sh.span)) ∧
      (∀ die off k, x.2.t = .ds die off k → away (.dsm 0 0)) ∧
      (∀ p k, x.2.t = .g p k → paPkg p.pa ≠ s.pkg → away (.load true) ∧
        ((s.die (dieOf c.u)).fabricUp = true → t.fabricOut = s.fabricOut ++
          [{ packetFrom s c.u (k.getD 0) (keyOf s c.u (domainOf c.g x.1.f)) 5 with
             epoch := 0, addr := p.pa, size := sh.span, atag := s.nextId + 1 }])) ∧
      (∀ p k, x.2.t = .g p k → paPkg p.pa = s.pkg → paDie p.pa = dieOf c.u → away (.load (o.ord == 1 && decide (4 ≤ o.scope.toNat))) ∧
        (plainPa p.pa = true → isSupCore c.u = false → l1State s c.u p.pa = .i → sget (s.core c.u).l1Req (lineIx p.pa) = none →
          sget (t.core c.u).l1Req (lineIx p.pa) = some .gets ∧
          (t.die (dieOf c.u)).msgs = (s.die (dieOf c.u)).msgs ++ [(coreIx c.u, lineIx p.pa, .req .gets)])) ∧
      (∀ p k, x.2.t = .g p k → paPkg p.pa = s.pkg → paDie p.pa ≠ dieOf c.u →
        (o.ord = 1 → 4 ≤ o.scope.toNat → validCopy t c.u p.pa = none ∧ away (.load true)) ∧
        (¬ (o.ord = 1 ∧ 4 ≤ o.scope.toNat) →
          (validCopy s c.u p.pa = none → away (.load false)) ∧
          (∀ bytes, validCopy s c.u p.pa = some bytes → p.pa % 128 + sh.span ≤ 128 →
            (olderSame s (fl (.load false)) = false → filled (bytes.take sh.span)) ∧
            (olderSame s (fl (.load false)) = true → away (.load false)))))) ∧
    (∀ a q k p k2, x.2.scale = some (a, .g q k) → x.2.t = .g p k2 → paPkg q.pa = s.pkg → paDie q.pa ≠ dieOf c.u → paPkg p.pa = s.pkg →
      paDie p.pa ≠ dieOf c.u → ¬ (o.ord = 1 ∧ 4 ≤ o.scope.toNat) → validCopy s c.u q.pa = none → validCopy s c.u p.pa = none →
      t.flights = s.flights ++ [
        flight (s.nextId + 1) q.pa 1 (33 + sh.decode) (.load false) (Target.via c x.1.f (.g q k)),
        flight (s.nextId + 2) p.pa sh.span sh.decode (.load false) (x.2.t.via c x.1.f)] ∧
      (t.core c.u).returns = (s.core c.u).returns ++ [{ ret with scaleFlight := some (s.nextId + 1), st := .away (s.nextId + 2) }])) ∧
  (∀ (bytes : List Byte) (n scale : Nat), (partWords 0 n scale bytes) =
    ((List.range n).map fun i => BitVec.ofNat 32 (ofLe ((bytes.drop (4 * i)).take 4)), 0)) ∧
  (∀ (s : State) (u : Nat) (l1 l2 : List Return) (r : Return) (p : Part) (bytes : List Byte) (cause : Nat), p.ret = some r.id →
    (∀ x ∈ l1 ++ l2, x.id ≠ r.id) → (s.core u).returns = l1 ++ r :: l2 →
    let becomes := fun (t : State) (y : Return) => (t.core u).returns = l1 ++ y :: l2
    becomes (failReturn s u cause p) { r with st := .failed cause } ∧
    (r.st = .failed cause → becomes (fillLoad s u p bytes) { r with after := latest s }) ∧
    (∀ n m, r.st = .away n →
      (p.decode < 33 → r.scaleFlight = some m → becomes (fillLoad s u p bytes) { r with raw := some bytes, st := .away m, after := latest s }) ∧
      (p.decode < 33 → r.scaleFlight = none → becomes (fillLoad s u p bytes) ({ r with after := latest s }.filled p.decode bytes)) ∧
      (33 ≤ p.decode → r.raw = none → becomes (fillLoad s u p bytes) { r with scale := ofLe bytes, scaleFlight := none, after := latest s }) ∧
      (∀ b, 33 ≤ p.decode → r.raw = some b → becomes (fillLoad s u p bytes)
        ({ r with scale := ofLe bytes, scaleFlight := none, after := latest s }.filled (p.decode - 33) b)))) ∧
  (∀ (s : State) (f : Flight), (∃ l ∈ f.lines, isPoisoned s (128 * l) = true) →
    readFlight s f = failFlight (dropFlight s f.id) 0x1D f) ∧
  (∀ (s t : State) (o : OpM), exec (.ld o) s = .next t → t.mem = s.mem)

/-- R290, R403, R408 to R412: ST and STM, charging and releases, their effect in each space, and their frame on memory. -/
def Obligations.Stores : Prop :=
  (∀ (s : State) (c : Ctx) (o : OpM) (v : Lane → StLane) (stm : Bool), Issued s o.g c → (∃ ln, Active o.g c ln) →
    (∀ ln, Active o.g c ln → stCheck o stm c ln = .ok (v ln)) →
    let t := moved s c o.g o.len
    exec (if stm then .stm o else .st o) s = .next (chargeThenHold c t (passedWith o.g c v) (storeNeeds t)
      (fun l => writesOf t c.u (storePackets t l))
      (fun ln => if o.ord = 2 ∧ released c.s c.u c.slot ln.id ln.f.wct o.scope.toNat = false then some (.release o.scope.toNat) else none)
      fun s l => if stm then
          (groupBy (fun x => lineOf (x.2.t.pa s)) (l.filter fun x => !x.2.t.reps.isEmpty)).foldl (fun s e => stmLine c s e.2)
            (storeAll c s (l.filter fun x => x.2.t.reps.isEmpty))
        else storeAll c s l)) ∧
  (∀ (α : Type) (c : Ctx) (s : State) (l : List (Lane × α)) (needs writes : List (Lane × α) → SMap Nat) (hold : Lane → Option Wait)
      (go : State → List (Lane × α) → State),
    let fresh := needs (l.filter fun x => !x.1.f.charged)
    let ask := (needs l).map fun e => (e.1, sgetD fresh e.1 0)
    let res := chargeThenHold c s l needs writes hold go
    (∀ n need, shortSlot s c.u ask (writes l) = some (n, need) → res = colwait c s (l.map (·.1.id)) n need) ∧
    (shortSlot s c.u ask (writes l) = none →
      (∀ x ∈ l, x.1.f.charged = false) → l ≠ [] → (∀ x ∈ l, hold x.1 = none) → res = go (chargeSlots s c.u ask) l) ∧
    (shortSlot s c.u ask (writes l) = none →
      let held := l.foldl (fun s x => match hold x.1 with
        | some w => (s.modFibre c.u c.slot x.1.id fun f => { f with pc := c.pc }).modFibre c.u c.slot x.1.id fun f => { f with wait := some w, charged := true }
        | none => if x.1.f.charged then s.modFibre c.u c.slot x.1.id fun f => { f with charged := false } else s) (chargeSlots s c.u ask)
      ((∀ x ∈ l, hold x.1 ≠ none) → res = held) ∧
      ((∃ x ∈ l, hold x.1 = none) → res = go held (l.filter fun x => (hold x.1).isNone)))) ∧
  (∀ (s : State) (c : Ctx) (ids : List Nat) (n need : Nat) (g : Machine.Group), s.group c.u c.slot = some g →
    (colwait c s ids n need).mem = s.mem ∧ ∃ g2, (colwait c s ids n need).group c.u c.slot = some g2 ∧
      (∃ saving, g2.st = .colwait n need (s.now (dieOf c.u)) (slotDomain s c.u n) saving ∧
        (saving = true ↔ g.st = .saving ∨ ∃ n k t d, g.st = .colwait n k t d true)) ∧
      ∀ i, sget g2.fibres i = (sget g.fibres i).map fun f => if i ∈ ids then { f with pc := c.pc } else f) ∧
  (∀ (c : Ctx) (s : State) (g : Machine.Group) (x : Lane × StLane) (off : Nat), s.group c.u c.slot = some g → x.2.t = .sp off →
    ∃ g2, (storeAll c s [x]).group c.u c.slot = some g2 ∧ { g2 with scratch := g.scratch } = g ∧
      (storeAll c s [x]).mem = s.mem ∧ (storeAll c s [x]).flights = s.flights ∧
      ∀ a, sgetD g2.scratch a 0 = if off ≤ a then x.2.bytes.getD (a - off) (sgetD g.scratch a 0) else sgetD g.scratch a 0) ∧
  (∀ (c : Ctx) (s : State) (x : Lane × StLane) (die off : Nat) (k : Option Nat), x.2.t = .ds die off k →
    storeAll c s [x] = addFlight s { id := 0, u := c.u, slot := c.slot, kind := .dsm 1 0, pa := dsmPa s die off, domain := dsDomain c x.1.f,
                                     parts := [{ fibre := x.1.id, addr := dsmPa s die off, size := x.2.bytes.length, data := x.2.bytes }] }) ∧
  (∀ (c : Ctx) (s : State) (x : Lane × StLane) (p : Page) (k : Option Nat), x.2.t = .g p k → paPkg p.pa = s.pkg →
    p.pa % 128 + x.2.bytes.length ≤ 128 →
    let f : Flight := { id := 0, u := c.u, slot := c.slot, kind := .store, pa := 128 * (p.pa / 128),
                        parts := [{ fibre := x.1.id, addr := p.pa, size := x.2.bytes.length, data := x.2.bytes, page := x.2.t.via c x.1.f }] }
    storeAll c s [x] = launchFlight s f ∧
    (paDie p.pa ≠ dieOf c.u → storeAll c s [x] = dropCopy (addFlight s f) c.u p.pa)) ∧
  (∀ (c : Ctx) (s : State) (x : Lane × StLane) (l : List (Lane × StLane)),
    stmLine c s (x :: l) = addFlight (dropCopy s c.u (x.2.t.pa s))
      { id := 0, u := c.u, slot := c.slot, kind := .stm (paDie (x.2.t.pa s) :: x.2.t.reps), pa := x.2.t.pa s / 128 * 128,
        parts := (x :: l).map fun y =>
          { fibre := y.1.id, addr := y.2.t.pa s, size := y.2.bytes.length, data := y.2.bytes, page := y.2.t.via c y.1.f } }) ∧
  (∀ (c : Ctx) (s : State) (x : Lane × StLane) (p : Page) (k : Nat), x.2.t = .g p (some k) → paPkg p.pa ≠ s.pkg →
    p.pa % 128 + x.2.bytes.length ≤ 128 → x.2.bytes ≠ [] → slotWcnt s c.u k ≠ 16777215 → (s.die (dieOf c.u)).fabricUp = true →
    let t := storeAll c s [x]
    t.fabricOut = s.fabricOut ++ [{ packetFrom s c.u k (keyOf c.s c.u (domainOf c.g x.1.f)) 0 with
      epoch := slotEpoch s c.u k, addr := 128 * (p.pa / 128), data := x.2.bytes.zipIdx.map fun b => (p.pa % 128 + b.2, b.1)
      gen := (((slotSt s c.u k).buf.find? fun b => b.epoch == slotEpoch s c.u k).map (·.gen)).getD 0 }] ∧
    t.mem = s.mem ∧ t.flights = s.flights) ∧
  (∀ (s t : State) (c : Ctx) (o : OpM) (v : Lane → StLane) (stm : Bool), Issued s o.g c →
    (∀ ln, Active o.g c ln → stCheck o stm c ln = .ok (v ln)) →
    exec (if stm then .stm o else .st o) s = .next t →
    ∀ a, (∀ x ∈ passedWith o.g c v, ∀ p k, x.2.t = .g p k → a < p.pa ∨ p.pa + x.2.bytes.length ≤ a) →
      memGet t.mem a = memGet s.mem a)

/-- R165, R167, R409, R410: applying a store at a die, and the store that is performed at once. -/
def Obligations.PerformingStores : Prop :=
  (∀ (s : State) (d : Nat) (f : Flight) (a : Nat), f.kind = .store →
    (∀ p ∈ f.parts, a < p.addr ∨ p.addr + p.data.length ≤ a) → memGet (applyFlight s d f).mem a = memGet s.mem a) ∧
  (∀ (s : State) (d : Nat) (f : Flight) (l : List Part) (p : Part) (i : Nat) (b : Byte), Memory.wf s.mem = true →
    f.kind = .store → f.parts = l ++ [p] →
    inDsmWindow p.addr = false → plainPa p.addr = true → p.data[i]? = some b → memGet (applyFlight s d f).mem (p.addr + i) = b) ∧
  (∀ (s : State) (pa : Nat) (bytes : List Byte), inDsmWindow pa = false → plainPa pa = true →
    ivMem ((homeWrite s pa bytes).die (paDie pa)).scrub (lineIx pa) = false) ∧
  (∀ (s : State) (f : Flight), isSupCore f.u = false → ownDie s f.u f.pa = true → plainPa f.pa = true →
    let f1 := f.issued s
    let d := dieOf f.u
    (localReady (addFlight s f) f1 = true → (∀ x ∈ s.flights, x.id ≠ s.nextId) → f.kind = .store → f.arrived = false →
      l1State (launchFlight s f) f.u f.pa = .m ∧
      (completionTime s d f.pa ≤ s.now d → pendingAt s d (lineIx f.pa) = [] →
        (launchFlight s f).flights = s.flights ∧ (launchFlight s f).mem = (applyFlight s d f).mem) ∧
      (s.now d < completionTime s d f.pa ∨ pendingAt s d (lineIx f.pa) ≠ [] →
        (launchFlight s f).flights = s.flights ++ [{ f1 with arrived := true, t := completionTime s d f.pa }] ∧
        (launchFlight s f).mem = s.mem)) ∧
    (localReady (addFlight s f) f1 = false →
      (launchFlight s f).flights = s.flights ++ [f1] ∧ (launchFlight s f).mem = s.mem))

/-- R301, R329 to R331, R395: the atomics, their arithmetic, a lane in scratchpad, and the requests and packets of the others. -/
def Obligations.Atomics : Prop :=
  (∀ (s : State) (c : Ctx) (o : OpM) (v : Lane → AtLane) (i : Instr) (op : Nat) (ret : Bool),
    (i, op, ret) ∈ [(Instr.atomAdd o, 0, true), (.atomMin o, 1, true), (.atomMax o, 2, true), (.atomAnd o, 3, true),
      (.atomOr o, 4, true), (.atomXor o, 5, true), (.atomExch o, 6, true), (.atomCas o, 7, true), (.redAdd o, 0, false),
      (.redMin o, 1, false), (.redMax o, 2, false), (.redAnd o, 3, false), (.redOr o, 4, false), (.redXor o, 5, false)] →
    Issued s o.g c → (∃ ln, Active o.g c ln) → (∀ ln, Active o.g c ln → atCheck o op ret c ln = .ok (v ln)) →
    let t := moved s c o.g o.len
    exec i s = .next (chargeThenHold c t (passedWith o.g c v) (atNeeds o op ret t) (fun _ => [])
      (fun ln =>
        if (o.ord = 2 ∨ o.ord = 3) ∧ released c.s c.u c.slot ln.id ln.f.wct o.scope.toNat = false then some (.release o.scope.toNat)
        else if o.ord = 3 ∧ ticketWait c.s c.u c.slot ln.id = true then some .ticket else none)
      fun s l => (groupBy (fun x => x.2.t.pa s) l).foldl (fun s e => atLocation o op ret c s e.2) s)) ∧
  (∀ (o : OpM) (op : Nat) (ret : Bool) (c : Ctx) (s : State) (x : Lane × AtLane) (l : List (Lane × AtLane)) (off : Nat),
    x.2.t = .sp off → atLocation o op ret c s (x :: l) = (x :: l).foldl (fun s y => atScratch o op ret c s y off) s) ∧
  (∀ (o : OpM) (op : Nat) (ret : Bool) (c : Ctx) (s : State) (x : Lane × AtLane) (off : Nat) (g : Machine.Group) (f : Fibre),
    s.group c.u c.slot = some g → sget g.fibres x.1.id = some f →
    let n := atomSize o
    let old := ofLe (bytesGet g.scratch off n)
    let t := atScratch o op ret c s x off
    ∃ g2 f2, t.group c.u c.slot = some g2 ∧ sget g2.fibres x.1.id = some f2 ∧ t.mem = s.mem ∧ t.flights = s.flights ∧
      (∀ j, j ≠ x.1.id → sget g2.fibres j = sget g.fibres j) ∧ { f2 with regs := f.regs } = f ∧
      (∀ a, sgetD g2.scratch a 0 = if off ≤ a ∧ a < off + n then
        BitVec.ofNat 8 (atomicNew op o.ty.toNat n old x.2.b.toNat x.2.cmp.toNat / 256 ^ (a - off)) else sgetD g.scratch a 0) ∧
      (ret = false → f2 = f ∧ (t.core c.u).returns = (s.core c.u).returns) ∧
      (ret = true → (∀ r, f2.reg r = if o.d.toNat ≤ r ∧ r < o.d.toNat + n / 4 then { f.reg r with st := .empty } else f.reg r) ∧
        (t.core c.u).returns = (s.core c.u).returns ++
        [{ id := s.nextId, slot := c.slot, fibre := x.1.id, holdsFlags := false, acq := o.ord == 1 || o.ord == 3, data := true, st := .ready,
           flags := 0, dests := (List.range (n / 4)).map fun i => (0, o.d.toNat + i, BitVec.ofNat 32 (old / 2 ^ (32 * i))) }])) ∧
  (∀ (o : OpM) (op : Nat) (c : Ctx) (s : State) (x : Lane × AtLane) (l : List (Lane × AtLane)) (p : Page) (k : Option Nat),
    x.2.t = .g p k →
    let n := atomSize o
    let f : Flight := { id := 0, u := c.u, slot := c.slot, kind := .atomic op o.ty.toNat (o.ord == 3), pa := p.pa / 128 * 128,
                        parts := (x :: l).map fun y =>
                          { fibre := y.1.id, addr := y.2.t.pa s, size := n, data := leBytes n y.2.b.toNat, cmp := y.2.cmp, page := y.2.t.via c y.1.f } }
    (paPkg p.pa = s.pkg → atLocation o op false c s (x :: l) =
      if o.ord = 3 then addFlight (dropCopy s c.u p.pa) f else launchFlight s f) ∧
    (paPkg p.pa ≠ s.pkg → op < 6 →
      let all := (x :: l).map fun y => y.2.b.toNat
      let m := atomicPacket s c.u (k.getD 0) (keyOf c.s c.u (domainOf c.g x.1.f)) (8 + op) o.ty.toNat n p.pa
        (leBytes n ((all.drop 1).foldl (fun a b => atomicNew op o.ty.toNat n a b 0) (all.headD 0)))
      atLocation o op false c s (x :: l) =
        if o.ord = 3 then addFlight s { f with packet := some (k.getD 0, m) } else sendAtomic (addFlight s f) c.u (k.getD 0) m s.nextId)) ∧
  (∀ (o : OpM) (op : Nat) (c : Ctx) (s : State) (x : Lane × AtLane) (p : Page) (k : Option Nat) (g : Machine.Group) (f : Fibre),
    s.group c.u c.slot = some g → sget g.fibres x.1.id = some f → x.2.t = .g p k → let n := atomSize o
    ∃ w g2 f2, w.group c.u c.slot = some g2 ∧ sget g2.fibres x.1.id = some f2 ∧ { f2 with regs := f.regs } = f ∧
      (∀ r, f2.reg r = if o.d.toNat ≤ r ∧ r < o.d.toNat + n / 4 then { f.reg r with st := .empty } else f.reg r) ∧
      (∀ j, j ≠ x.1.id → sget g2.fibres j = sget g.fibres j) ∧ { g2 with fibres := g.fibres } = g ∧
      (w.core c.u).returns = (s.core c.u).returns ++ [{ id := s.nextId, slot := c.slot, fibre := x.1.id, acq := o.ord == 1 || o.ord == 3, data := true, st := .away (s.nextId + 1), dests := (List.range (n / 4)).map fun i => (0, o.d.toNat + i, 0) }] ∧
      w.mem = s.mem ∧ w.flights = s.flights ∧ w.nextId = s.nextId + 1 ∧
      let part : Part := { fibre := x.1.id, addr := p.pa, size := n, data := leBytes n x.2.b.toNat, cmp := x.2.cmp, ret := some s.nextId, page := x.2.t.via c x.1.f }
      let fl : Flight :=
        { id := 0, u := c.u, slot := c.slot, kind := .atomic op o.ty.toNat (o.ord == 3), pa := p.pa / 128 * 128, parts := [part] }
      (paPkg p.pa = s.pkg → atLocation o op true c s [x] = if o.ord = 3 then addFlight (dropCopy w c.u p.pa) fl else launchFlight w fl) ∧
      (paPkg p.pa ≠ s.pkg →
        let m := atomicPacket s c.u (k.getD 0) (keyOf c.s c.u (domainOf c.g x.1.f)) op o.ty.toNat n p.pa
          (leBytes n x.2.b.toNat ++ if op = 7 then leBytes n x.2.cmp.toNat else [])
        atLocation o op true c s [x] =
          if o.ord = 3 then addFlight w { fl with packet := some (k.getD 0, m) }
          else sendAtomic (addFlight w fl) c.u (k.getD 0) m w.nextId)) ∧
  (∀ (ty n old b cmp : Nat), (ty, n) ∈ [(0, 4), (1, 4), (2, 8)] → old < 2 ^ (8 * n) → b < 2 ^ (8 * n) →
    let r := fun op => atomicNew op ty n old b cmp
    let v := fun x => (BitVec.ofNat (8 * n) x).toInt
    r 0 = (old + b) % 2 ^ (8 * n) ∧ r 3 = (old &&& b) ∧ r 4 = (old ||| b) ∧ r 5 = (old ^^^ b) ∧ r 6 = b ∧
    r 7 = (if old = cmp then b else old) ∧
    (ty = 1 → r 1 = Nat.min old b ∧ r 2 = Nat.max old b) ∧
    (ty ≠ 1 → v (r 1) = min (v old) (v b) ∧ v (r 2) = max (v old) (v b))) ∧
  ∀ (old b cmp : Nat), old < 2 ^ 32 → b < 2 ^ 32 → let x := BitVec.ofNat 32 old; let y := BitVec.ofNat 32 b
    atomicNew 0 3 4 old b cmp = (f32Add x y).toNat ∧ atomicNew 1 3 4 old b cmp = (f32Min x y).toNat ∧
    atomicNew 2 3 4 old b cmp = (f32Max x y).toNat ∧ atomicNew 6 3 4 old b cmp = b ∧
    atomicNew 7 3 4 old b cmp = (if old = cmp then b else old)

/-- R163, R348 to R350, R362 to R364: bank operations and FENCE. -/
def Obligations.BankOperationsAndFence : Prop :=
  (∀ (s : State) (c : Ctx) (o : OpM) (v : Lane → DsLane) (i : Instr) (op : Nat) (ret : Bool),
    (i, op, ret) ∈ [(Instr.dsopAdd o, 2, false), (.dsopMin o, 3, false), (.dsopMax o, 4, false), (.dsopAnd o, 5, false),
      (.dsopOr o, 6, false), (.dsopXor o, 7, false), (.dsopFma o, 8, false), (.dsredAdd o, 2, false), (.dsredMin o, 3, false),
      (.dsredMax o, 4, false), (.dsredAnd o, 5, false), (.dsredOr o, 6, false), (.dsredXor o, 7, false), (.dsredAddRet o, 2, true),
      (.dsredMinRet o, 3, true), (.dsredMaxRet o, 4, true), (.dsredAndRet o, 5, true), (.dsredOrRet o, 6, true),
      (.dsredXorRet o, 7, true)] →
    Issued s o.g c → (∃ ln, Active o.g c ln) → (∀ ln, Active o.g c ln → dsCheck o op ret c ln = .ok (v ln)) →
    let t := moved s c o.g o.len
    exec i s = .next (chargeThenHold c t (passedWith o.g c v)
      (fun l => needsOf (packetsOf (l.filterMap fun x => x.2.t.slot.map fun k => (k, x.2.t.pa t, 2 ^ o.size.toNat)))) (fun _ => [])
      (fun ln => if o.ord = 2 ∧ released c.s c.u c.slot ln.id ln.f.wct o.scope.toNat = false then some (.release o.scope.toNat) else none)
      fun s l => (groupBy (fun x => x.2.t.pa s / 64) l).foldl (fun s e => dsRow o op ret c s e.2) s)) ∧
  (∀ (o : OpM) (op : Nat) (c : Ctx) (s : State) (x : Lane × DsLane) (l : List (Lane × DsLane)),
    dsRow o op false c s (x :: l) = addFlight s
      { id := 0, u := c.u, slot := c.slot, kind := .dsm op o.ty.toNat, pa := x.2.t.pa s / 64 * 64, acq := o.ord == 1, domain := dsDomain c x.1.f,
        parts := (x :: l).map fun y =>
          { fibre := y.1.id, addr := y.2.t.pa s, size := 2 ^ o.size.toNat, data := y.2.bytes } }) ∧
  (∀ (o : OpM) (op : Nat) (c : Ctx) (s : State) (x : Lane × DsLane) (g : Machine.Group) (f : Fibre),
    s.group c.u c.slot = some g → sget g.fibres x.1.id = some f → let n := 2 ^ o.size.toNat
    ∃ w g2 f2, w.group c.u c.slot = some g2 ∧ sget g2.fibres x.1.id = some f2 ∧ { f2 with regs := f.regs } = f ∧
      (∀ r, f2.reg r = if o.d.toNat ≤ r ∧ r < o.d.toNat + n / 4 then { f.reg r with st := .empty } else f.reg r) ∧
      (∀ j, j ≠ x.1.id → sget g2.fibres j = sget g.fibres j) ∧ { g2 with fibres := g.fibres } = g ∧
      (w.core c.u).returns = (s.core c.u).returns ++ [{ id := s.nextId, slot := c.slot, fibre := x.1.id, acq := o.ord == 1, data := true, st := .away (s.nextId + 1), dests := (List.range (n / 4)).map fun i => (0, o.d.toNat + i, 0) }] ∧
      w.mem = s.mem ∧ w.flights = s.flights ∧ w.nextId = s.nextId + 1 ∧
      dsRow o op true c s [x] = addFlight w
        { id := 0, u := c.u, slot := c.slot, kind := .dsm op o.ty.toNat, pa := x.2.t.pa s / 64 * 64, acq := false, domain := dsDomain c x.1.f,
          parts := [{ fibre := x.1.id, addr := x.2.t.pa s, size := n, data := x.2.bytes, ret := some s.nextId }] }) ∧
  (∀ (s : State) (c : Ctx) (o : OpM), Issued s o.g c → (∃ ln, Active o.g c ln) →
    (∀ ln, Active o.g c ln → (o.ord = 2 ∨ o.ord = 3 → released c.s c.u c.slot ln.id ln.f.wct o.scope.toNat = true) ∧
      (o.ord = 1 ∨ o.ord = 3 → allReturned c.s c.u c.slot ln.id = true)) →
    let t := moved s c o.g o.len
    exec (.fence o) s = .next (if (o.ord = 1 ∨ o.ord = 3) ∧ 4 ≤ o.scope.toNat then t.modCore c.u fun x => { x with lcopies := [] } else t)) ∧
  (∀ (s : State) (u slot id : Nat), allReturned s u slot id = true ↔
    (∀ r ∈ (s.core u).returns, r.slot = slot → r.fibre = id → r.data = false) ∧
    ∀ x ∈ s.flights, x.acq = true → x.isOf u slot id = false) ∧
  (∀ (s : State) (c : Ctx) (o : OpM) (f : Fibre) (ln : Lane), Issued s o.g c → c.lanes = [ln] → guardTrue o.g ln.f = true →
    s.fibre c.u c.slot ln.id = some f →
    (o.ord = 2 ∨ o.ord = 3 → released c.s c.u c.slot ln.id ln.f.wct o.scope.toNat = false →
      exec (.fence o) s = .next (s.modFibre c.u c.slot ln.id fun f => { f with wait := some (.release o.scope.toNat) })) ∧
    (o.ord = 1 ∨ (o.ord = 3 ∧ released c.s c.u c.slot ln.id ln.f.wct o.scope.toNat = true) →
      allReturned c.s c.u c.slot ln.id = false →
      exec (.fence o) s = .next (s.modFibre c.u c.slot ln.id fun f => { f with wait := some (.acquire o.scope.toNat) })))

/-- R62 to R66, R185, R240, R241, R288, R378, R379: the control and status registers. -/
def Obligations.ControlRegisters : Prop :=
  (∀ (s : State) (c : Ctx) (o : OpS), Issued s o.g c → (∃ ln, Active o.g c ln) →
    let n := o.csrn.toNat
    (∀ ln, Active o.g c ln → destsReady c ln.f (clsOf o.du) o.d.toNat (if csr64 n then 2 else 1) = .ok () ∧ csrCheck c ln n = .ok () ∧
      (0x040 ≤ n → n ≤ 0x07F → slotCheck s c.u (domainOf c.g ln.f) (n - 0x040) = .ok ())) →
    let ws := fun ln : Lane => destWrites (csr64 n) (clsOf o.du) o.d.toNat (csrValue s c.u ln.id c.g ln.f n)
    (csrLate n = false → exec (.mfsr o) s = .next (effDone s c o.g 2 o.du fun ln => { regs := ws ln })) ∧
    (csrLate n = true → (n = 0x131 → matrixEntries s c.u c.slot = []) → exec (.mfsr o) s = .next
      ((writers o.du (passedWith o.g c ws)).foldl (fun t x => t.applyEff c x.1 { late := x.2 }) (moved s c o.g 2))) ∧
    (n = 0x131 → matrixEntries s c.u c.slot ≠ [] → (∀ ln, Active o.g c ln → ln.f.gate = none) → exec (.mfsr o) s = .next
      ((writers o.du (passedWith o.g c ws)).foldl
        (fun t x => oweReturn c x.1 t x.2 false false (.matrix (matrixEntries s c.u c.slot))) (moved s c o.g 2)))) ∧
  (∀ (s : State) (u id : Nat) (g : Machine.Group) (f : Fibre), isSupCore u = false → f.gate = none →
    csrValue s u id g f 0x001 = BitVec.ofNat 64 id ∧ csrValue s u id g f 0x002 = BitVec.ofNat 64 g.grpIx ∧
    csrValue s u id g f 0x003 = BitVec.ofNat 64 g.gangId ∧ csrValue s u id g f 0x004 = BitVec.ofNat 64 f.wct ∧
    csrValue s u id g f 0x005 = BitVec.ofNat 64 (s.now (dieOf u)) ∧
    csrValue s u id g f 0x007 = BitVec.ofNat 64 ((g.set * 256 + g.domain) % 2 ^ 32) ∧
    csrValue s u id g f 0x010 = f.fcause.setWidth 64 ∧ csrValue s u id g f 0x011 = f.faddr ∧ csrValue s u id g f 0x012 = f.fpc ∧
    (∀ k, k < 16 → csrValue s u id g f (0x020 + k) = g.tc k) ∧
    (∀ k, k < 64 → csrValue s u id g f (0x040 + k) = (colWord s u k).setWidth 64) ∧
    (∀ k, k < 8 → csrValue s u id g f (0x080 + k) = (sgetD (s.core u).dparts k {}).reg) ∧
    csrValue s u id g f 0x089 = s.svcmode.setWidth 64 ∧ csrValue s u id g f 0x090 = (s.core u).dbgstat.setWidth 64 ∧
    csrValue s u id g f 0x130 = f.signs.setWidth 64 ∧
    (∀ i, i < 5 → (csrValue s u id g f 0x000).getLsbD i = f.flags.getLsbD i) ∧
    (csrValue s u id g f 0x000).getLsbD 8 = f.ftz ∧ (csrValue s u id g f 0x000).getLsbD 16 = f.sup) ∧
  (∀ (s : State) (c : Ctx) (o : OpS) (v : Lane → DWord), Issued s o.g c →
    let n := o.csrn.toNat
    (∀ ln, Active o.g c ln → srcTyped c ln.f (csr64 n) o.ua o.a = .ok (v ln) ∧ csrCheck c ln n = .ok () ∧
      csrHold s c.u c.slot ln.id n = none ∧ (isSupCore c.u = false → 0x080 ≤ n → n ≤ 0x087 →
        dpartRefused (dpartBefore o c ln (n - 0x080)) (n - 0x080) (dpartFrom s c.u (n - 0x080) (v ln)) = false)) →
    exec (.mtsr o) s = ranInOrder s c o.g 2 v fun s ln v => csrWrite s c.u c.slot ln.id n v) ∧
  (∀ (s : State) (u slot id : Nat) (v : DWord) (f : Fibre) (g : Machine.Group), s.group u slot = some g → sget g.fibres id = some f →
    (csrWrite s u slot id 0x000 v).fibre u slot id = some { f with flags := v.extractLsb' 0 5, ftz := v.getLsbD 8 } ∧
    (csrWrite s u slot id 0x010 v).fibre u slot id = some { f with fcause := (v &&& 0x07C0FFFF).setWidth 32 } ∧
    (csrWrite s u slot id 0x011 v).fibre u slot id = some { f with faddr := v } ∧
    (csrWrite s u slot id 0x012 v).fibre u slot id = some { f with fpc := v } ∧
    (∀ k, k < 16 → ∃ g2, (csrWrite s u slot id (0x020 + k) v).group u slot = some g2 ∧ { g2 with tcs := g.tcs } = g ∧
      ∀ j, g2.tc j = if j = k then v &&& 0xFFFFFFFF01FFFFCF else g.tc j) ∧
    (∀ k, k < 64 → (slotSt (csrWrite s u slot id (0x040 + k) v) u k).ceiling = Nat.max 5120 (v.toNat % 2 ^ 28)) ∧
    (∀ k, k < 8 → sgetD ((csrWrite s u slot id (0x080 + k) v).core u).dparts k {} =
      { reg := v, ext := BitVec.ofNat 256 ((s.die (dieOf u)).num (0x6000400000 + 256 * coreIx u + 32 * k) 32) }) ∧
    (csrWrite s u slot id 0x089 v).svcmode = v.setWidth 5 ∧
    ((csrWrite s u slot id 0x090 v).core u).dbgstat = (s.core u).dbgstat &&& ~~~(v.setWidth 2)) ∧
  ∀ (s : State) (c : Ctx) (o : OpS) (ln : Lane) (v : DWord), Issued s o.g c → c.lanes = [ln] → guardTrue o.g ln.f = true →
    isSupCore c.u = false → 0x080 ≤ o.csrn.toNat → o.csrn.toNat ≤ 0x087 → srcTyped c ln.f true o.ua o.a = .ok v →
    dpartRefused (s.core c.u) (o.csrn.toNat - 0x080) (dpartFrom s c.u (o.csrn.toNat - 0x080) v) = true →
    exec (.mtsr o) s = .next (stoppedAt s c o.g 2 ln 0x08 0 (256 * 11 + (o.csrn.toNat - 0x080)))

/-- R226, R235, R346, R414 to R417: dependence counters, tasks and work items. -/
def Obligations.CountersAndTasks : Prop :=
  (∀ (s : State) (c : Ctx) (o : OpT) (id v : Lane → Word), Issued s o.g c →
    (∀ ln, Active o.g c ln → srcA c ln.f o = .ok (id ln) ∧ counterCheck c ln.f (id ln).toNat = .ok ()) →
    ((∀ ln, Active o.g c ln → srcB c ln.f o = .ok (v ln)) →
      exec (.dcinit o) s = ranInOrder s c o.g o.len (fun ln => ((id ln).toNat, (v ln).toNat % 2 ^ 24)) (fun s _ x =>
        let t := setCounter s (dieOf c.u) x.1
          { (counterOf s (dieOf c.u) x.1) with count := x.2, underBit := false, overBit := false, recWct := 0, recDies := 0 }
        if x.2 = 0 then counterZero t (dieOf c.u) x.1 else t) ∧
      ((∀ ln, Active o.g c ln → releaseCheck c ln 4 = .ok ()) →
        exec (.dcadd o) s = ranInOrder s c o.g o.len (fun ln => ((id ln).toNat, (v ln).toInt)) fun s _ x =>
          counterAdd s (dieOf c.u) x.1 x.2)) ∧
    ((∃ ln, Active o.g c ln) → (∀ ln, Active o.g c ln → (counterOf s (dieOf c.u) (id ln).toNat).count = 0) →
      exec (.dcwait o) s = .next ((moved s c o.g o.len).modCore c.u fun x => { x with lcopies := [] })) ∧
    (∀ ln f, c.lanes = [ln] → guardTrue o.g ln.f = true → s.fibre c.u c.slot ln.id = some f →
      (counterOf s (dieOf c.u) (id ln).toNat).count ≠ 0 → exec (.dcwait o) s = .next (s.modFibre c.u c.slot ln.id fun f =>
        { f with wait := some (.counter (id ln).toNat (nextPc c.pc o.len)) }))) ∧
  (∀ (s : State) (d id : Nat) (delta : Int),
    let k := counterOf s d id
    let r := counterOf (counterAdd s d id delta) d id
    ((k.count : Int) + delta < 0 → r.count = 0 ∧ r.underBit = true) ∧
    (16777215 < (k.count : Int) + delta → r.count = 16777215 ∧ r.overBit = true) ∧
    (0 ≤ (k.count : Int) + delta → (k.count : Int) + delta ≤ 16777215 →
      (r.count : Int) = k.count + delta ∧ r.underBit = k.underBit ∧ r.overBit = k.overBit) ∧
    (k.count ≠ 0 → r.count ≠ 0 → (counterAdd s d id delta).tasks = s.tasks) ∧
    r.recWct = k.recWct ∧ r.recDies = k.recDies ∧
    ∀ j, j ≠ id → counterOf (counterAdd s d id delta) d j = counterOf s d j) ∧
  (∀ (s : State) (d id t : Nat) (k : Task), (counterOf s d id).parked = [t] → sget s.tasks t = some k →
    (counterOf (counterZero s d id) d id).parked = [] ∧
    sget (counterZero s d id).tasks t = some { k with
      st := .ready, readyAt := s.now d, seq := s.nextId, failedAt := none, hintAt := none,
                                               startWct := (counterOf s d id).recWct, startMask := (counterOf s d id).recDies }) ∧
  (∀ (s : State) (c : Ctx) (o : OpT) (x : Lane → TenqLane), Issued s o.g c → (∃ ln, Active o.g c ln) →
    (∀ ln, Active o.g c ln → tenqCheck o c ln = .ok (x ln)) →
    let l := passedWith o.g c x
    let t := l.foldl (noteDesc c) (moved s c o.g o.len)
    { t with dies := s.dies, freeCount := s.freeCount } = moved s c o.g o.len ∧
    exec (.tenq o) s = .next (chargeThenHold c t l (fun _ => []) (fun _ => [])
      (fun ln => if released c.s c.u c.slot ln.id ln.f.wct 4 = true then none else some (.release 4))
      fun s l => (byFibre l).foldl (handTask c (nextPc c.pc o.len)) s) ∧
    ((∀ ln, Active o.g c ln → ln.f.charged = false ∧ released c.s c.u c.slot ln.id ln.f.wct 4 = true) →
      exec (.tenq o) s = .next ((byFibre l).foldl (handTask c (nextPc c.pc o.len)) t))) ∧
  (∀ (s : State) (c : Ctx) (next : DWord) (ln : Lane) (y : TenqLane), y.kind = 1 → noCounter y.waitc = true →
    dieFull s (queueDie y.queue) = false → waitingTasks s (queueDie y.queue) true = [] →
    waitingTasks s (queueDie y.queue) false = [] → (∀ e ∈ s.tasks, e.1 < s.nextTask) →
    sget (handTask c next s (ln, y)).tasks s.nextTask = some
      { st := .ready, khdr := y.khdr, arg := y.arg, waitc := y.waitc, donec := y.donec, queue := y.queue, prio := y.prio,
        kind := 1, domain := c.g.domain, launch := launchOf s c.g, pasid := c.g.pasid, hdr := y.hdr,
        readyAt := s.now (queueDie y.queue), seq := s.nextId + 1 }) ∧
  (∀ (s : State) (c : Ctx) (o : OpT) (q : Lane → Nat), Issued s o.g c → (∃ ln, Active o.g c ln) →
    (∀ ln, Active o.g c ln → tdeqCheck o c ln = .ok (q ln)) →
    exec (.tdeq o) s = .next ((byFibre (passedWith o.g c q)).foldl (takeItem o c) (moved s c o.g o.len))) ∧
  (∀ (s : State) (c : Ctx) (o : OpT) (ln : Lane) (q : Nat),
    let items := (readyTasks s 1).filter fun e => e.2.queue == q && e.2.domain == c.g.domain
    (items = [] → takeItem o c s (ln, q) = oweReturn c ln s (regWrites 0 o.d.toNat [0, 0, 0, 1]) false false .ready) ∧
    (∀ t k, bestTask taskBefore items = some (t, k) → takeItem o c s (ln, q) =
      acquirePkg (oweReturn c ln (modTask s t fun k => { k with st := .taken })
        (regWrites 0 o.d.toNat [k.arg.extractLsb' 0 32, k.arg.extractLsb' 32 32, k.donec, 0]) false true .ready) c.u)) ∧
  (∀ (s : State) (c : Ctx) (o : OpN), Issued s o.g c → (∃ ln, Active o.g c ln) →
    (∀ ln, Active o.g c ln → ln.f.gate = none ∧ releaseCheck c ln 4 = .ok ()) →
    exec (.tdone o) s = .next (firstTdone (moved s c o.g 1) c.u c.slot)) ∧
  ∀ (s : State) (u slot t : Nat) (g : Machine.Group) (k : Task), s.group u slot = some g → g.task = some t → sget s.tasks t = some k →
    (k.tdone = true → firstTdone s u slot = s) ∧
    (k.tdone = false → (sget (firstTdone s u slot).tasks t).map (fun k => (k.st, k.tdone)) = some (.draining, true))

/-- R206 to R214, R294, R341, R345, R401, R402: copies, circular buffers and ridges. -/
def Obligations.CopiesAndRidges : Prop :=
  (∀ (s : State) (c : Ctx) (o : OpM) (v : Lane → CpLane), Issued s o.g c → (∃ ln, Active o.g c ln) →
    let l := passedWith o.g c v
    let t := moved s c o.g o.len
    let n := 2 ^ o.size.toNat
    ((∀ ln, Active o.g c ln → cpyCheck o c ln = .ok (v ln)) → exec (.cpy o) s = .next
      (let lanes : List CopyLane := l.map fun x =>
         { fibre := x.1.id, src := x.2.src, dst := x.2.dst, ctr := x.2.ctr,
           srcPa := if o.space = 0 then 0 else x.2.srcT.pa t,
           dstPa := if o.space = 1 then 0 else (x.2.dstT.map (·.pa t)).getD 0,
           srcSlot := x.2.srcT.slot,
           dstSlot := x.2.dstT.bind (·.slot),
           key := keyFor c [x.1] }
       startCopy c t o.len { id := 0, slot := c.slot, domain := (l.head?.map fun x => domainOf c.g x.1.f).getD 0, n := n,
                             space := o.space.toNat, lanes := lanes, locks := copyLockSet o.space.toNat n lanes })) ∧
    ((∀ ln, Active o.g c ln → cpyCbCheck o c ln = .ok (v ln)) → exec (.cpyCb o) s = .next
      (let lanes : List CopyLane := l.map fun x =>
         { fibre := x.1.id, src := x.2.src, dst := 0, ctr := x.2.ctr, srcPa := x.2.srcT.pa t,
           srcSlot := x.2.srcT.slot, key := keyFor c [x.1] }
       startCopy c t o.len { id := 0, slot := c.slot, domain := c.g.domain, n := n, space := 3, lanes := lanes,
                             locks := [(0, false, linesOf (lanes.map fun l => (l.src, n)))] }))) ∧
  (∀ (c : Ctx) (s : State) (len : Nat) (x : Copy),
    let t := { s with nextId := s.nextId + 1 }
    let y := { x with id := s.nextId, next := nextPc c.pc len }
    let needs := needsOf (copyPackets x.n x.lanes)
    let short := shortSlot t c.u needs (writesOf t c.u (copyPackets x.n x.lanes))
    (lockShort t c.u x.domain x.locks (dsmLines x) = false →
      (short = none → startCopy c s len x = registerCopy (chargeSlots t c.u needs) c.u y) ∧
      ∀ k need, short = some (k, need) → startCopy c s len x = colwait c t (x.lanes.map (·.fibre)) k need) ∧
    (lockShort t c.u x.domain x.locks (dsmLines x) = true →
      ((startCopy c s len x).core c.u).copies = (s.core c.u).copies ++ [{ y with registered := false }] ∧
      ((startCopy c s len x).core c.u).locks = (s.core c.u).locks ∧
      ∀ l ∈ x.lanes, ∀ f, (startCopy c s len x).fibre c.u c.slot l.fibre = some f → f.wait = some .copyRoom ∧ f.pc = c.pc)) ∧
  (∀ (s : State) (u : Nat) (x : Copy), (∀ l ∈ x.lanes, l.dstSlot = none ∨ paPkg l.dstPa = s.pkg) →
    ((registerCopy s u x).core u).copies = (s.core u).copies ++ [{ x with registered := true }] ∧
    ((registerCopy s u x).core u).locks = (s.core u).locks ++
      lockRecords x.id x.domain x.slot 64 (x.locks.filter fun e => !e.2.2.isEmpty) ∧
    (registerCopy s u x).mem = s.mem) ∧
  (∀ (s : State) (u k : Nat) (x : Copy) (l : CopyLane), x.lanes = [l] → l.dstSlot = some k → paPkg l.dstPa ≠ s.pkg →
    0 < x.n → l.dstPa % 128 + x.n ≤ 128 → k < 64 → slotWcnt s u k < 16777215 → let t := registerCopy s u x
    slotWcnt t u k = slotWcnt s u k + 1 ∧ slotEpoch t u k = slotEpoch s u k ∧ t.mem = s.mem ∧
    (t.core u).copies = (s.core u).copies ++ [{ x with registered := true, lanes := [{ l with epoch := some (slotEpoch s u k) }] }]) ∧
  (∀ (s : State) (c : Ctx) (o : OpT) (b : Lane → Word), Issued s o.g c →
    (∀ ln, Active o.g c ln → srcB c ln.f o = .ok (b ln) ∧ cbCheck c ln.f (b ln).toNat = .ok ()) →
    ((∀ ln, Active o.g c ln → destReady c ln.f 0 o.d.toNat = .ok ()) →
      exec (.cbacq o) s = ranInOrder s c o.g o.len (fun ln => (b ln).toNat) fun s ln a =>
        match s.group c.u c.slot with
        | none => s
        | some g =>
          let k := cbBlock g a
          let t := s.emptyRegs c.u c.slot ln.id [(0, o.d.toNat, 0)]
          if k.filled = 0 || !(cbWaiters s c.u c.slot a).isEmpty then
            ({ t with nextId := s.nextId + 1 }.modFibre c.u c.slot ln.id fun f => { f with pc := c.pc }).modFibre c.u c.slot ln.id
              fun f => { f with wait := some (.buffer a o.d.toNat (nextPc c.pc o.len) s.nextId) }
          else (acquirePkg (cbSet (cbSet t c.u c.slot a 14 (k.filled - 1)) c.u c.slot a 18 ((k.tail + 1) % k.nslot)) c.u).addReturn c.u
            { id := 0, slot := c.slot, fibre := ln.id, acq := true
              dests := stillOwed t c.u c.slot ln.id [(0, o.d.toNat, BitVec.ofNat 32 (k.base + k.tail * k.slotSz))] }) ∧
    ((∀ ln, Active o.g c ln → releaseCheck c ln 2 = .ok () ∧
        ((activeOf o.g c.lanes).filter fun x => decide (srcB c x.f o = .ok (b ln))).length ≤
          cbAcquired s c.u c.slot (b ln).toNat (cbBlock c.g (b ln).toNat)) →
      exec (.cbrel o) s = ranInOrder s c o.g o.len (fun ln => (b ln).toNat) fun s _ a =>
        match s.group c.u c.slot with
        | none => s
        | some g => cbSet s c.u c.slot a 12 ((cbBlock g a).free + 1))) ∧
  (∀ (s : State) (u slot a v : Nat) (g : Machine.Group), s.group u slot = some g → v < 65536 →
    ∃ g2, (cbSet s u slot a 12 v).group u slot = some g2 ∧ { g2 with scratch := g.scratch } = g ∧
      cbBlock g2 a = { cbBlock g a with free := v } ∧
      ∀ j, j < a + 12 ∨ a + 14 ≤ j → sgetD g2.scratch j 0 = sgetD g.scratch j 0) ∧
  (∀ (s : State) (c : Ctx) (o : OpM) (v : Lane → RidgeLane), Issued s o.g c → (∃ ln, Active o.g c ln) →
    (∀ ln, Active o.g c ln → ridgeCheck o c ln = .ok (v ln)) →
    let l := passedWith o.g c v
    let t := moved s c o.g o.len
    let hold := fun ln => if released c.s c.u c.slot ln.id ln.f.wct 4 = false then some (Wait.release 4)
      else ((l.map (·.2.slot)).find? fun n => atomicOn c.s c.u c.slot ln.id n).map .atomics
    let send := fun (s : State) (l : List (Lane × RidgeLane)) => (byFibre l).foldl (fun s x =>
      sendRidge s c.u x.2.slot (keyOf c.s c.u (domainOf c.g x.1.f)) (some (x.2.pa, x.2.data))) s
    exec (.ridge o) s = .next (chargeThenHold c t l (fun l => l.foldl (fun m x => sset m x.2.slot 64) []) (fun _ => []) hold send) ∧
    ((∀ ln, Active o.g c ln → ln.f.charged = false) →
      (∀ n need, shortSlot t c.u (freshNeeds (fun l => l.foldl (fun m x => sset m x.2.slot 64) []) l) = some (n, need) →
        exec (.ridge o) s = .next (colwait c t (l.map (·.1.id)) n need)) ∧
      (shortSlot t c.u (freshNeeds (fun l => l.foldl (fun m x => sset m x.2.slot 64) []) l) = none →
        (∀ ln, Active o.g c ln → hold ln = none) → exec (.ridge o) s = .next
          (send (chargeSlots t c.u (freshNeeds (fun l => l.foldl (fun m x => sset m x.2.slot 64) []) l)) l)))) ∧
  ∀ (s : State) (u n key pa : Nat) (data : List Byte),
    ((s.die (dieOf u)).fabricUp = true → (sendRidge s u n key (some (pa, data))).fabricOut = s.fabricOut ++
      [{ packetFrom s u n key 1 with
         count := slotWcnt s u n
         addr := pa
         data := data.zipIdx.map fun b => (b.2, b.1) }]) ∧
    ((s.die (dieOf u)).fabricUp = false → (sendRidge s u n key (some (pa, data))).fabricOut = s.fabricOut) ∧
    (sendRidge s u n key (some (pa, data))).mem = s.mem ∧
    (n < 64 → let t := sendRidge s u n key (some (pa, data))
      slotEpoch t u n = (slotEpoch s u n + 1) % 256 ∧ slotWcnt t u n = 0 ∧ slotConf t u n = slotConf s u n)

/-- R273, R274, R342, R376, R377, R384, R385, R418: the entries of supervisors and of the caches. -/
def Obligations.SupervisorEntries : Prop :=
  (∀ (s : State) (c : Ctx) (o : OpT) (ws : Lane → List Word) (w : Lane → Word) (d : Lane → Option Nat × List Nat), Issued s o.g c →
    isSupCore c.u = true → (∀ ln, Active o.g c ln → srcRegs c ln.f 0 o.a.r.toNat o.a.w 16 = .ok (ws ln) ∧ srcB c ln.f o = .ok (w ln) ∧
      satusDest s c.u (w ln).toNat = some (d ln) ∧ ofLe (((wordsBytes (ws ln)).drop 6).take 2) < 0x8000 ∧
      releaseCheck c ln 4 = .ok ()) →
    exec (.msend o) s = ranInOrder s c o.g o.len (fun ln => (⟨d ln, wordsBytes (ws ln)⟩ : SendLane)) fun s ln x =>
      joined c s ln (if satusRoom s x.dest.2 then
          .done (match x.dest.1 with
            | some g => sendGroup s g (supNumber c.u) x.body
            | none => sendUnicast s (x.dest.2.headD 0) (supNumber c.u) x.body)
        else .block .satusRoom)) ∧
  (∀ (s : State) (g sender : Nat) (body : List Byte),
    (sendGroup s g sender body).satus = s.satus ++ [{
      group := some g, targets := groupMembers s g, seq := sgetD s.groupSeq g 0,
                                                      msg := satusMsg (sgetD s.groupSeq g 0) g sender body, sender := sender }] ∧
    sgetD (sendGroup s g sender body).groupSeq g 0 = (sgetD s.groupSeq g 0 + 1) % 2 ^ 32) ∧
  (∀ (s : State) (c : Ctx) (o : OpT) (q : Lane → Word), Issued s o.g c → isSupCore c.u = true →
    (∀ ln, Active o.g c ln → srcB c ln.f o = .ok (q ln) ∧ destsReady c ln.f 0 o.d.toNat 16 = .ok () ∧ (q ln).toNat ≤ 1) →
    exec (.mrecv o) s = ranInOrder s c o.g o.len (fun ln => (q ln).toNat) fun s ln q =>
      let t := s.emptyRegs c.u c.slot ln.id (blankDests o.d.toNat 16)
      match if (recvWaiters s c.u q).isEmpty then takeMessage t c.u c.slot ln.id o.d.toNat q else none with
      | some t => t
      | none => ({ t with nextId := s.nextId + 1 }.modFibre c.u c.slot ln.id fun f => { f with pc := c.pc }).modFibre c.u c.slot ln.id
          fun f => { f with wait := some (.receive q o.d.toNat (nextPc c.pc o.len) s.nextId) }) ∧
  (∀ (s : State) (u slot id d : Nat),
    let give := fun (t : State) (ws : List Word) => (t.addReturn u
      { id := 0, slot := slot, fibre := id, dests := stillOwed s u slot id (regWrites 0 d ws), acq := true }).modCore u
        fun x => { x with lcopies := [] }
    ((s.core u).satus = [] → takeMessage s u slot id d 0 = none) ∧
    (∀ m t, (s.core u).satus = m :: t → takeMessage s u slot id d 0 =
      some (give (s.modCore u fun k => { k with satus := t }) (bytesWords 16 (leBytes 64 m.toNat)))) ∧
    (nextRecord s (dieOf u) = none → takeMessage s u slot id d 1 = none) ∧
    ∀ r, nextRecord s (dieOf u) = some r → takeMessage s u slot id d 1 =
      some (give (s.modDie (dieOf u) fun x => { x with records := x.records.map fun y =>
          if y.tag = r.tag then { y with taken := true, takenAt := x.time } else y })
        ([r.fcause, r.who, r.faddr.extractLsb' 0 32, r.faddr.extractLsb' 32 32, r.fpc.extractLsb' 0 32,
          r.fpc.extractLsb' 32 32, BitVec.ofNat 32 (r.domain % 256), BitVec.ofNat 32 r.tag] ++ List.replicate 8 0))) ∧
  (∀ (s : State) (c : Ctx) (o : OpT) (ln : Lane) (q : Word), Issued s o.g c → isSupCore c.u = false → c.lanes = [ln] →
    guardTrue o.g ln.f = true → srcB c ln.f o = .ok q → destsReady c ln.f 0 o.d.toNat 16 = .ok () → q.toNat ≤ 1 →
    exec (.mrecv o) s = .next (stoppedAt s c o.g o.len ln 0x02 0 0)) ∧
  (∀ (s : State) (c : Ctx) (o : OpT) (ln : Lane) (ws : List Word) (w : Word) (d : Option Nat × List Nat), Issued s o.g c →
    isSupCore c.u = false → c.lanes = [ln] → guardTrue o.g ln.f = true → srcRegs c ln.f 0 o.a.r.toNat o.a.w 16 = .ok ws →
    srcB c ln.f o = .ok w → satusDest s c.u w.toNat = some d → ofLe (((wordsBytes ws).drop 6).take 2) < 0x8000 →
    exec (.msend o) s = .next (stoppedAt s c o.g o.len ln 0x02 0 0)) ∧
  (∀ (s : State) (u slot id : Nat) (f : Fibre) (ds : List (Nat × Nat × Word)), s.fibre u slot id = some f →
    stillOwed s u slot id ds = ds.filter fun e => (f.reg e.2.1).pending) ∧
  (∀ (s : State) (c : Ctx) (o : OpM) (a : Lane → Nat) (p : Lane → Word), Issued s o.g c →
    (∀ ln, Active o.g c ln → addr64 c ln.f o 1 = .ok (a ln) ∧ srcField c ln.f o.ub o.b = .ok (p ln)) →
    exec (.tinv o) s = ranInOrder s c o.g o.len (fun ln => (a ln, (p ln).toNat % 2 ^ 20)) fun s _ x =>
      dropTranslations s (dieOf c.u) (tinvKeeps o.size.toNat x.2 x.1) fun t => if o.size.toNat = 2 then false else t.pasid != x.2) ∧
  (∀ (s : State) (d pasid va u : Nat) (e : TlbEntry) (kw : WalkEntry → Bool), dieOf u = d →
    (e ∈ ((dropTranslations s d (tinvKeeps 2 pasid va) kw).core u).tlb → False) ∧
    (e ∈ ((dropTranslations s d (tinvKeeps 1 pasid va) kw).core u).tlb ↔ e ∈ (s.core u).tlb ∧ e.pasid ≠ pasid) ∧
    (e ∈ ((dropTranslations s d (tinvKeeps 0 pasid va) kw).core u).tlb ↔ e ∈ (s.core u).tlb ∧
      ¬ (e.pasid = pasid ∧ e.vpage = va / (if e.big then 2 ^ 28 else 65536)))) ∧
  (∀ (s : State) (c : Ctx) (o : OpM) (a : Lane → Nat) (p : Lane → Page), Issued s o.g c →
    (∀ ln, Active o.g c ln → addr64 c ln.f o 1 = .ok (a ln) ∧
      translate s c.u (whoOf s c.u c.g ln.f) (a ln) .load 1 true = .ok (p ln)) →
    ((∀ ln, Active o.g c ln → islandCheck s c.u (a ln) (p ln).pa = .ok () ∧ destReady c ln.f 0 o.d.toNat = .ok ()) →
      exec (.lpin o) s = ranInOrder s c o.g o.len (fun ln => (a ln, p ln)) fun s ln x =>
        (pinLine c s ln x.1 x.2).1.writeReg c.u c.slot ln.id 0 o.d.toNat (if (pinLine c s ln x.1 x.2).2 then 1 else 0)) ∧
    exec (.lunpin o) s = ranInOrder s c o.g o.len (fun ln => (a ln, p ln)) (fun s _ x =>
      let mine := fun q : Pin => q.slice == sliceOf x.2.pa && q.line == lineIx x.2.pa && q.owner == pinOwner c.u c.slot c.g
      if paPkg x.2.pa ≠ s.pkg then s
      else s.modDie (paDie x.2.pa) fun d =>
        { d with pins := (modPin mine (fun q => { q with count := q.count - 1 }) d.pins).filter fun q => q.count != 0 }) ∧
    ((∀ ln, Active o.g c ln → islandCheck s c.u (a ln) (p ln).pa = .ok () ∧ (paPkg (p ln).pa = s.pkg →
        storeTo s c.u c.slot ln.id (p ln).pa = false ∧ lineBusy s (p ln).pa = false)) →
      exec (.cflush o) s = ranInOrder s c o.g o.len (fun ln => (p ln).pa) fun s _ pa =>
        if paPkg pa ≠ s.pkg then s
        else (flushLine s pa).mapCores (fun u => dieOf u == dieOf c.u) fun k => { k with lcopies := sdel k.lcopies (lineOf pa) })) ∧
  (∀ (p : Pin → Bool) (f : Pin → Pin) (l1 : List Pin) (q : Pin) (l2 : List Pin), (∀ x ∈ l1, p x = false) →
    modPin p f l1 = l1 ∧ (p q = true → modPin p f (l1 ++ q :: l2) = l1 ++ f q :: l2)) ∧
  (∀ (c : Ctx) (s : State) (ln : Lane) (va : Nat) (p : Page),
    let d := s.die (paDie p.pa)
    let cls := classOf s c.u (domainOf c.g ln.f)
    let room := fun q : Pin => q.slice == sliceOf p.pa && q.line == lineIx p.pa && q.owner == pinOwner c.u c.slot c.g && decide (q.count < 255)
    let fits := decide ((d.pins.filter fun q => q.slice == sliceOf p.pa).length < 256) &&
      decide (pinnedWays d (sliceOf p.pa) (setOf p.pa cls) < 8)
    let r := pinLine c s ln va p
    (paPkg p.pa ≠ s.pkg ∨ plainPa p.pa = false → r = (s, false)) ∧
    (paPkg p.pa = s.pkg → plainPa p.pa = true →
      (d.pins.any room = true → r = (s.modDie (paDie p.pa) fun x =>
        { x with pins := modPin room (fun q => { q with count := q.count + 1 }) x.pins }, true)) ∧
      (d.pins.any room = false → fits = false → r = (s, false)) ∧
      (d.pins.any room = false → fits = true → r.2 = true ∧ r.1.mem = s.mem ∧ r.1.cores = s.cores ∧
        (r.1.die (paDie p.pa)).pins = d.pins ++
          [⟨sliceOf p.pa, lineIx p.pa, pinOwner c.u c.slot c.g, (whoOf s c.u c.g ln.f).pasid, va, 1⟩] ∧
        (∀ e, e ≠ paDie p.pa → r.1.die e = s.die e) ∧
        ((setMates s p.pa (setOf p.pa cls)).length < 16 →
          sget (r.1.die (paDie p.pa)).l2 (lineIx p.pa) = some (setOf p.pa cls))))) ∧
  (∀ (s : State) (pa : Nat), (flushLine s pa).mem = s.mem ∧
    (∀ u, dieOf u = paDie pa → l1State (flushLine s pa) u pa = .i) ∧
    sget ((flushLine s pa).die (paDie pa)).dirs (lineIx pa) = none ∧
    (pinnedLine (s.die (paDie pa)) (lineIx pa) = false → sget ((flushLine s pa).die (paDie pa)).l2 (lineIx pa) = none)) ∧
  ∀ (s : State) (c : Ctx) (o : OpM) (a : Lane → Nat) (p : Lane → Page), Issued s o.g c →
    (∀ ln, Active o.g c ln → addr64 c ln.f o 1 = .ok (a ln) ∧ translate s c.u (whoOf s c.u c.g ln.f) (a ln / 64 * 64) .exec 64 = .ok (p ln) ∧
      islandCheck s c.u (a ln) (p ln).pa = .ok ()) →
    exec (.cinv o) s = ranInOrder s c o.g o.len (fun ln => (p ln).pa / 64) fun s _ k =>
      s.mapCores (fun u => dieOf u == dieOf c.u) fun x => { x with icache := sdel x.icache k }

/-- R12, R189 to R202, R328, R332, R381, R419 to R424: the instructions of the matrix unit. -/
def Obligations.MatrixInstructions : Prop :=
  (∀ (s : State) (c : Ctx) (o : OpX) (i : Instr) (x : XOp), Issued s o.g c →
    (i, x) ∈ [(Instr.mma o, mmaX o), (.txp o, txpX o), (.tperm o, tpermX o), (.trred o, trredX o), (.azero o, azeroX o),
      (.adrain o, if drainScratch o.md.toNat then scratchDrainX o else tileDrainX o 0x0F1 .adrain),
      (.adrainByp o, tileDrainX o 0x0F2 .adrainByp), (.tld o, tldX o), (.tst o, tstX o)] →
    (isSupCore c.u = false → exec i s = ranInOrder s c o.g 2 (fun _ => ()) fun s ln _ => joined c s ln (signX o x c s ln)) ∧
    (isSupCore c.u = true → exec i s = .next (s.faultSheaf 0x01 0 2))) ∧
  (∀ (o : OpX) (x : XOp) (c : Ctx) (s : State) (ln : Lane) (g : Machine.Group) (f : Fibre) (b : Nat × Int),
    s.group c.u c.slot = some g → sget g.fibres ln.id = some f →
    let c1 := { c with s := s, g := g }
    let k := g.conv o.cv.toNat
    let held := x.op.accesses o.md && acquiring s c.u c.slot ln.id
    let key := [x.opc, o.ac.toNat, o.t1.toNat, o.t2.toNat, o.md.toNat, o.fa.toNat, o.fb.toNat, if o.ub then 1 else 0, o.b.r.toNat]
    let ms := insertSigner ({ fibre := ln.id, x := 0, y := 0, p := false, d := 0 } : Signer) k.signers
    (f.signs.getLsbD o.cv.toNat = true → signX o x c s ln = .block (.sign o.cv.toNat)) ∧
    (f.signs.getLsbD o.cv.toNat = false → held = true → signX o x c s ln = .block (.acquire 0)) ∧
    (f.signs.getLsbD o.cv.toNat = false → held = false →
      (∀ r, windowRefuse g f x.names = some r → signX o x c s ln = .refuse r.1 r.2.1 r.2.2) ∧
      (windowRefuse g f x.names = none →
        (∀ r, x.format s c1 g = some r → signX o x c s ln = .refuse r.1 r.2.1 r.2.2) ∧
        (x.format s c1 g = none →
          (∀ cause sub a, x.readB c1 f = .error (.fault cause sub a) → signX o x c s ln = .refuse cause sub a) ∧
          (∀ w, x.readB c1 f = .error (.block w) → signX o x c s ln = .block w) ∧
          (x.readB c1 f = .ok b →
            (∀ cause sub a, x.later s c1 g f b = .error (.fault cause sub a) → signX o x c s ln = .refuse cause sub a) ∧
            (x.later s c1 g f b = .ok () →
              (k.signers ≠ [] → k.key ≠ key → signX o x c s ln = .refuse 0x0F 0 o.cv.toNat) ∧
              (k.signers = [] ∨ k.key = key →
                (∀ cause sub a, x.last c1 f b = .error (.fault cause sub a) → signX o x c s ln = .refuse cause sub a) ∧
                (x.last c1 f b = .ok () →
                  (ms.length < k.e → ∃ t g2 f2, signX o x c s ln = .done t ∧ t.group c.u c.slot = some g2 ∧
                    sget g2.fibres ln.id = some f2 ∧ g2.conv o.cv.toNat = { k with signers := ms, key := key } ∧
                    f2 = { f with signs := f.signs ||| (1#16 <<< o.cv.toNat),
                                  wait := if x.waits then some (.signed o.cv.toNat) else f.wait } ∧
                    (∀ j, j ≠ ln.id → sget g2.fibres j = sget g.fibres j) ∧ { g2 with convs := g.convs, fibres := g.fibres } = g ∧
                    t.mem = s.mem ∧ (t.core c.u).queue = (s.core c.u).queue ∧ (t.core c.u).transfers = (s.core c.u).transfers) ∧
                  (k.e ≤ ms.length → ∃ t g2, t.group c.u c.slot = some g2 ∧
                    g2.conv o.cv.toNat = { k with signers := [], key := [] } ∧
                    (∀ m ∈ ms, ∀ f2, sget g2.fibres m.fibre = some f2 → f2.signs.getLsbD o.cv.toNat = false) ∧
                    { g2 with convs := g.convs, fibres := g.fibres } = g ∧ t.mem = s.mem ∧ t.nextId = s.nextId ∧
                    (t.core c.u).queue = (s.core c.u).queue ∧ (t.core c.u).transfers = (s.core c.u).transfers ∧
                    signX o x c s ln = match x.hold t c1 g f b with
                      | some w => .block w
                      | none => .done (if x.waits then (x.act t c1 f b ms).modFibre c.u c.slot ln.id fun f =>
                          { f with wait := some (.signed o.cv.toNat) } else x.act t c1 f b ms)))))))))) ∧
  (∀ (o : OpX) (s : State) (c : Ctx) (f : Fibre) (b : Nat × Int) (ms : List Signer) (g : Machine.Group),
    s.group c.u c.slot = some g →
    let e : MOp → MEntry := fun op =>
      { id := s.nextId, slot := c.slot, op := op, ac := o.ac.toNat, t1 := o.t1.toNat, t2 := o.t2.toNat, fa := o.fa.toNat,
        fb := o.fb.toNat, md := o.md.toNat, tc1 := g.tc o.t1.toNat, tc2 := g.tc o.t2.toNat, members := ms.map (·.fibre),
        conv := o.cv.toNat }
    let p := tilePending s c.u c.slot o.t1.toNat
    (mmaX o).act s c f b ms = enqueue s c.u { e .mma with waits := p ++ tilePending s c.u c.slot o.t2.toNat } ∧
    (txpX o).act s c f b ms = enqueue s c.u { e .txp with waits := p } ∧
    (tpermX o).act s c f b ms = enqueue s c.u { e .tperm with
      aux := bytesGet c.g.scratch b.1 128
      waits := p } ∧
    (trredX o).act s c f b ms = enqueue s c.u { e .trred with waits := p } ∧
    (azeroX o).act s c f b ms = enqueue s c.u (e .azero) ∧
    (∀ opc op, (tileDrainX o opc op).act s c f b ms = (enqueue s c.u { e op with waits := p }).modGroup c.u c.slot fun g =>
      { g with tcs := sset g.tcs o.t1.toNat (drainTc o.fa.toNat) }) ∧
    (∀ m, ((enqueue s c.u m).core c.u).queue = (s.core c.u).queue ++ [m]) ∧
    (∀ rows, tileRows o { c with s := s } c.g f .load b = .ok rows →
      (((tldX o).act s c f b ms).core c.u).transfers = (s.core c.u).transfers ++
        [{ e .tld with
           rows := rows
           addr := b.1
           waits := p }]) ∧
    (∀ rows, tileRows o { c with s := s } c.g f .store b = .ok rows →
      (((tstX o).act s c f b ms).core c.u).transfers = (s.core c.u).transfers ++
        [{ e .tst with
           rows := rows
           addr := b.1
           waits := p }])) ∧
  ∀ (o : OpX) (s : State) (c : Ctx) (g : Machine.Group) (f : Fibre) (b : Nat × Int),
    (8 ≤ (s.core c.u).queue.length → (mmaX o).hold s c g f b = some .matrixQueue) ∧
    ((s.core c.u).queue.length < 8 → (mmaX o).hold s c g f b = none ∧ (txpX o).hold s c g f b = none ∧
      (tpermX o).hold s c g f b = none ∧ (trredX o).hold s c g f b = none ∧ (azeroX o).hold s c g f b = none) ∧
    ∀ opc op, tileBusy s c.u c.slot o.t1.toNat = true → (tileDrainX o opc op).hold s c g f b = some (.tile o.t1.toNat)

/-- R35, R47, R55, R57, R59, R103, R232, R233, R271, R272, R314: the events that end a wait, and issue. How translation caches replace
their entries, and what the host's reply to a walk holds, are the model's choices (logs 33 and 34); so is what a poisoned line of code
does (log 123). -/
def Obligations.WaitsAndIssue : Prop :=
  (∀ (s : State) (u slot id : Nat) (g : Machine.Group) (f : Fibre) (w : Wait), s.group u slot = some g → sget g.fibres id = some f →
    f.wait = some w → exec (.waitResume u slot id) s = .next (if waitOver s u slot id g f w then resumeWait s u slot id w else s)) ∧
  (∀ (s : State) (u slot id : Nat) (w : Wait), (∀ b d x k, w ≠ .buffer b d x k) → (∀ q d x k, w ≠ .receive q d x k) →
    resumeWait s u slot id w = s.modFibre u slot id fun x => { x with wait := none, readyAt := (s.core u).opp }) ∧
  (∀ (s : State) (u slot id n : Nat) (g : Machine.Group) (f : Fibre),
    (waitOver s u slot id g f (.reg 0 n) = true ↔ (f.reg n).st ≠ .empty) ∧
    (waitOver s u slot id g f (.pred n) = true ↔ f.predPend.getLsbD n = false) ∧
    (waitOver s u slot id g f (.sign n) = true ↔ f.signs.getLsbD n = false) ∧
    waitOver s u slot id g f (.signed n) = false ∧ waitOver s u slot id g f (.barrier true) = false ∧
    waitOver s u slot id g f (.matrixQueue) = decide ((s.core u).queue.length < 8)) ∧
  (∀ (s : State) (u : Nat) (gather : List Nat), s.cur = none → (s.die (dieOf u)).alive = true →
    (chooseReady (s.core u) (readyFibres s u) = none →
      exec (.issueOpportunity u gather) s = .next (s.modCore u fun c => { c with opp := c.opp + 1 })) ∧
    (∀ r credit g f, chooseReady (s.core u) (readyFibres s u) = some (r, credit) → s.group u r.slot = some g →
      sget g.fibres r.id = some f → ∃ t, exec (.issueOpportunity u gather) s = .next t ∧
        t.cur = some { u := u, slot := r.slot, fibres := sheafOf g r.id gather, pc := f.pc } ∧
        (t.core u).opp = (s.core u).opp + 1 ∧ (t.core u).credit = credit ∧ t.mem = s.mem ∧
        ∃ g2, t.group u r.slot = some g2 ∧ { g2 with fibres := g.fibres } = g ∧ ∀ j, sget g2.fibres j = (sget g.fibres j).map fun x =>
          if j ∈ sheafOf g r.id gather then { x with readyAt := (s.core u).opp + 1 } else x)) ∧
  (∀ (s : State) (u : Nat) (gather : List Nat), s.cur ≠ none → exec (.issueOpportunity u gather) s = .next s) ∧
  (∀ (g : Machine.Group) (id : Nat) (gather : List Nat) (f : Fibre), sget g.fibres id = some f →
    id ∈ sheafOf g id gather ∧ (sheafOf g id gather).length ≤ 32 ∧
    ∀ j ∈ sheafOf g id gather, j ≠ id → (gather = [] ∨ j ∈ gather) ∧ ∃ x, (j, x) ∈ g.fibres ∧ x.pc = f.pc ∧ x.sup = f.sup ∧ x.wait = none ∧
      x.faulted = false) ∧
  (∀ (c : Core) (rs : List Ready), deadlinePressed c.opp rs = true →
    chooseReady c rs = (firstBy Ready.before rs).map fun r => (r, c.credit)) ∧
  (∀ (s : State) (u idx : Nat) (ecc : Bool) (r : Return) (g : Machine.Group) (f : Fibre) (n : Nat) (v : Word),
    (s.core u).returns[idx]? = some r → s.group u r.slot = some g → sget g.fibres r.fibre = some f → r.dests = [(0, n, v)] →
    (s.die (dieOf u)).alive = true → (r.acq = true → r.after ≤ s.now (dieOf u)) →
    (r.st = .ready → (ecc && r.data) = false → ∃ t f2, exec (.longLatencyReturn u idx ecc) s = .next t ∧ t.fibre u r.slot r.fibre = some f2 ∧
      f2.reg n = { val := v, st := .full } ∧ (∀ j, j ≠ n → f2.reg j = f.reg j) ∧ f2.flags = f.flags ||| r.flags ∧ f2.pc = f.pc ∧
      (t.core u).returns = (s.core u).returns.filter fun x => x.id != r.id) ∧
    (∀ cause, r.st = .failed cause ∨ (r.st = .ready ∧ ecc = true ∧ r.data = true ∧ cause = 0x1D) → ∃ t f2, exec (.longLatencyReturn u idx ecc) s = .next t ∧
      t.fibre u r.slot r.fibre = some f2 ∧ f2.reg n = { val := (f.reg n).val, st := .poisoned cause } ∧
      (∀ j, j ≠ n → f2.reg j = f.reg j) ∧ f2.flags = f.flags) ∧
    (∀ k x s1 acq, r.st = .away k → (s.flights.find? fun f => f.id == k) = some x → x.kind = .load acq → ownDie s x.u x.pa = true →
      localLoad s x ecc = some s1 → exec (.longLatencyReturn u idx ecc) s =
        .next (if r.acq || r.scaleFlight.isSome then s1 else completeId s1 u r.id))) ∧
  (∀ (s : State) (u idx : Nat) (ecc : Bool) (r : Return), (s.core u).returns[idx]? = some r →
    ((s.die (dieOf u)).alive = false ∨ (r.st = .ready ∧ r.acq = true ∧ s.now (dieOf u) < r.after)) →
    exec (.longLatencyReturn u idx ecc) s = .next s) ∧
  (∀ (s : State) (u slot n need since dom : Nat) (saving : Bool) (g : Machine.Group), s.group u slot = some g →
    g.st = .colwait n need since dom saving →
    (slotValid s u n = true → slotDomain s u n = dom → slotBroken s u n = false → allow s u n < need →
      exec (.colwaitResume u slot) s = .next s) ∧
    (need ≤ allow s u n ∨ slotBroken s u n = true ∨ slotValid s u n = false ∨ slotDomain s u n ≠ dom →
      exec (.colwaitResume u slot) s = .next (s.modGroup u slot fun g => { g with
        st := if saving then .saving else .run, fibres := g.fibres.map fun e => (e.1, { e.2 with readyAt := (s.core u).opp }) })) ∧
    (640 ≤ (s.now (dieOf u) - since) * clockRate s (dieOf u) (islandOf u) →
      exec (.drowsyEntry u slot) s = .next (s.modGroup u slot fun g => { g with
        drowsy := ((List.range g.hdr.kfibs).flatMap fun f => (List.range (granules8 g.hdr.kregs / 8)).map fun k => 32 * f + k) ++
          g.fibres.flatMap fun e => match e.2.gate with
            | some k => (List.range (k.gregs / 8)).map fun j => 32 * (1024 + e.1) + j
            | none => [] }))) ∧
  (∀ (s : State) (u line : Nat) (x1 x2 : List Word), let x := flipLine (lineAt s (64 * line)) x1
    let r := readLine s (64 * line) (fetchClass s u)
    (isPoisoned s (64 * line) = false →
      (parityOk x = true → exec (.lineFill u line x1 x2) s = .next (r.modCore u fun c => { c with icache := sset c.icache line x })) ∧
      (parityOk x = false → parityOk (flipLine (lineAt s (64 * line)) x2) = true → exec (.lineFill u line x1 x2) s =
        .next ((r.modDie (dieOf u) fun d => { d with softErrors := d.softErrors + 1 }).modCore u fun c =>
          { c with icache := sset c.icache line (flipLine (lineAt s (64 * line)) x2) }))) ∧
    (isPoisoned s (64 * line) = true → ∃ t, exec (.lineFill u line x1 x2) s = .next t ∧ (t.core u).icache = (s.core u).icache)) ∧
  ∀ (s : State) (u pasid dom : Nat) (va : DWord), retracted s (dieOf u) pasid va.toNat = false →
    (∀ e big, walkWaiters s u pasid va.toNat dom false ≠ [] → walk s u pasid dom va.toNat = .leaf e big → bigShot s (dieOf u) pasid va.toNat big = false → ∃ t,
      exec (.walkComplete u pasid va dom) s = .next t ∧ t.mem = s.mem ∧
      (t.core u).tlb = cacheAdd 128
        { pasid := pasid, domain := dom, vpage := if big then va.toNat / 2 ^ 28 else va.toNat / 65536, big := big,
          entry := BitVec.ofNat 128 e } (s.core u).tlb) ∧
    (walkWaiters s u pasid va.toNat dom true ≠ [] →
      (∀ e : BitVec 128, pteT e.toNat = 2 → leafBad s.pkg false e.toNat = false →
        exec (.hostWalkReply u pasid va dom (some e)) s = .next (fillWalk s u pasid dom va.toNat e.toNat false)) ∧
      exec (.hostWalkReply u pasid va dom none) s = .next (refuseWalk s u (walkWaiters s u pasid va.toNat dom true)))

/-- R143, R146 to R150: the directory. Its channels, the owner and sharer bits after each transaction, the choice of the line that an
eviction takes, the line that a former owner sends in SM, and a GETX of the owner in O are the model's choices (logs 29, 30, 32, 108
and 118). -/
def Obligations.DirectoryProtocol : Prop :=
  (∀ (s : State) (d line core : Nat) (k : ReqKind), k ∈ [ReqKind.gets, .getx, .upg] → chanHead s d line core true = some (.req k) →
    (dirOf s d line).queue = [] → exec (.directoryRequest d line core k) s =
      .next (dirArrive (chanTake s d line core true) d line core k)) ∧
  (∀ (s : State) (d line core : Nat) (k : ReqKind), let e := dirOf s d line
    (dirBusy e = true → dirOf (dirArrive s d line core k) d line =
      { e with queue := e.queue ++ [(core, if k = .upg then .getx else k)] }) ∧
    (dirBusy e = false → leaseHeld s d line k = false → dirArrive s d line core k = dirServe s d line core k)) ∧
  (∀ (s : State) (d line core : Nat), let e := dirOf s d line
    let sends := fun (k : ReqKind) (e2 : Dir) (ms : List (Nat × Nat × Msg)) =>
      dirOf (dirServe s d line core k) d line = e2 ∧ ((dirServe s d line core k).die d).msgs = (s.die d).msgs ++ ms
    (e.st = .i → sends .gets { e with st := .e, owner := core, sharers := 0 } [(core, line, .data true)] ∧
      sends .getx { e with st := .m, owner := core, sharers := 0 } [(core, line, .data true)] ∧
      sends .upg { e with st := .m, owner := core, sharers := 0 } [(core, line, .data true)]) ∧
    (e.st = .s → sends .gets { e with sharers := e.sharers ||| clusterBit core } [(core, line, .data false)] ∧
      (invTargets e.sharers core = [] →
        sends .upg { e with st := .m, requester := core, grant := true, acks := 0, owner := core, sharers := clusterBit core }
          [(core, line, .grant)]) ∧
      (invTargets e.sharers core ≠ [] → ∀ k, k = .upg ∨ k = .getx →
        sends k { e with st := .sm, requester := core, grant := k == .upg, acks := (invTargets e.sharers core).length }
          ((invTargets e.sharers core).map fun t => (t, line, .inv)))) ∧
    (e.st = .o → core ≠ e.owner → ∀ k, k = .upg ∨ k = .getx →
      sends k { e with st := .sm, requester := core, grant := true, acks := (invTargets e.sharers core).length + 1 }
        ((invTargets e.sharers core).map (fun t => (t, line, .inv)) ++ [(e.owner, line, .fwdGetx core)])) ∧
    (e.st = .o → core = e.owner → ∀ k, k = .upg ∨ k = .getx →
      (invTargets e.sharers core ≠ [] →
        sends k { e with st := .sm, requester := core, grant := k == .upg, acks := (invTargets e.sharers core).length }
          ((invTargets e.sharers core).map fun t => (t, line, .inv))) ∧
      (invTargets e.sharers core = [] →
        sends k { e with st := .m, requester := core, grant := k == .upg, acks := 0, owner := core, sharers := clusterBit core }
          [(core, line, if k = .upg then .grant else .data true)])) ∧
    (e.st = .m ∨ e.st = .e ∨ e.st = .o → sends .gets { e with st := .fw, requester := core } [(e.owner, line, .fwdGets core)]) ∧
    (e.st = .m ∨ e.st = .e → sends .getx { e with st := .fw, requester := core } [(e.owner, line, .fwdGetx core)] ∧
      sends .upg { e with st := .fw, requester := core } [(e.owner, line, .fwdGetx core)])) ∧
  (∀ (s : State) (d line core : Nat), chanHead s d line core true = some .invack → (dirOf s d line).st = .sm →
    let e := dirOf s d line
    let s1 := chanTake s d line core true
    (1 < e.acks → exec (.invack d line core) s = .next (putDir s1 d line { e with acks := e.acks - 1 })) ∧
    (e.acks ≤ 1 → exec (.invack d line core) s = .next (finishSm s1 d line e))) ∧
  (∀ (s : State) (d line core : Nat) (getx wasE : Bool), chanHead s d line core true = some (.ownerAck getx wasE) →
    let e := dirOf s d line
    let s1 := chanTake s d line core true
    e.st = .fw → exec (.ownerAck d line core) s = .next (putDir s1 d line
      (if getx then { e with st := .m, owner := e.requester, sharers := clusterBit e.requester }
      else if wasE then { e with st := .s, sharers := e.sharers ||| clusterBit core ||| clusterBit e.requester }
      else { e with st := .o, sharers := e.sharers ||| clusterBit e.requester }))) ∧
  (∀ (s : State) (d line core : Nat), core < 32 → let u := unitOf d core
    (∀ k, putOf s d line core = some k → chanHead s d line core true = some (.req k) → (dirOf s d line).queue = [] →
      exec (.putRequest d line core) s = .next (dirArrive (chanTake s d line core true) d line core k)) ∧
    (∀ k, putOf s d line core = none → (l1Of s u line).put = some k → sget (s.core u).l1Req line = none →
      exec (.putRequest d line core) s = .next
        (chanSend ((dropL1 s u line).modCore u fun c => { c with wb := sset c.wb line k }) d line core (.req k))) ∧
    (putOf s d line core = none → l1Of s u line = .s → sget (s.core u).l1Req line = none →
      exec (.putRequest d line core) s = .next (dropL1 s u line))) ∧
  (∀ (s : State) (d line core : Nat), let u := unitOf d core
    let s1 := chanTake s d line core false
    (chanHead s d line core false = some .inv → ∃ t, exec (.invReceive d line core) s = .next t ∧ l1Of t u line = .i ∧
      (t.die d).msgs = (s1.die d).msgs ++ [(core, line, .invack)]) ∧
    (∀ req, chanHead s d line core false = some (.fwdGets req) →
      (l1Of s u line = .m ∨ l1Of s u line = .o → exec (.fwdGets d line core) s =
        .next (chanSend (chanSend (setL1 s1 u line .o) d line req (.data false)) d line core (.ownerAck false false))) ∧
      (l1Of s u line = .e → exec (.fwdGets d line core) s =
        .next (chanSend (chanSend (setL1 s1 u line .s) d line req (.data false)) d line core (.ownerAck false true)))) ∧
    (∀ req, chanHead s d line core false = some (.fwdGetx req) → ∃ t,
      exec (.fwdGetx d line core) s = .next t ∧ l1Of t u line = .i ∧
      (t.die d).msgs = (s1.die d).msgs ++
        [(req, line, if (dirOf s d line).st = .sm then .ownerData else .data true), (core, line, .ownerAck true false)]) ∧
    (chanHead s d line core false = some .ownerData → exec (.grantOrData d line core) s = .next s1) ∧
    (chanHead s d line core false = some .putack → exec (.putack d line core) s =
      .next (s1.modCore u fun c => { c with wb := sdel c.wb line })) ∧
    (∀ m st, (m, st) ∈ [(Msg.grant, L1St.m), (.data false, .s),
        (.data true, if sget (s.core u).l1Req line = some .gets then .e else .m)] → chanHead s d line core false = some m →
      let t := (setL1 s1 u line st).modCore u fun c => { c with l1Req := sdel c.l1Req line }
      exec (.grantOrData d line core) s = .next ((waitingStores t u line).foldl (fun s f =>
        if localReady s f then performLocal s f else storeRequest s u f.pa f.cls) t) ∧
      (waitingStores t u line = [] → exec (.grantOrData d line core) s = .next t) ∧
      (∀ f, waitingStores t u line = [f] → st ≠ .s → plainPa f.pa = true → olderSame t f = false →
        exec (.grantOrData d line core) s = .next (performLocal t f)))) ∧
  ∀ (s t : State) (d line core : Nat) (k : ReqKind) (i : Instr), i ∈ [Instr.directoryRequest d line core k, .invack d line core,
    .ownerAck d line core, .putRequest d line core, .invReceive d line core, .fwdGets d line core, .fwdGetx d line core,
    .putack d line core] → exec i s = .next t → t.mem = s.mem

/-- R153, R154, R166, R167, R169, R175, R307: requests in flight are performed. What a store of the home's own die reports to WCT is the
model's reading (log 100), and that the host gets no bytes of a poisoned line its choice (log 123). -/
def Obligations.RequestsPerformed : Prop :=
  (∀ (s : State) (d idx : Nat) (f : Flight) (acq : Bool), s.flights[idx]? = some f → f.kind = .load acq → paPkg f.pa = s.pkg →
    paDie f.pa = d → dieOf f.u ≠ d → (s.die d).alive = true → olderSame s f = false → plainPa f.pa = true → f.lines = [f.pa / 128] →
    (acq = true → exec (.leaseGrant d idx) s = .next (dropCopy (readFlight s f) f.u (128 * (f.pa / 128)))) ∧
    (acq = false → isPoisoned s (128 * (f.pa / 128)) = true → exec (.leaseGrant d idx) s = .next (readFlight s f)) ∧
    (acq = false → isPoisoned s (128 * (f.pa / 128)) = false →
      exec (.leaseGrant d idx) s = .next (grantLease (readFlight s f) f.u (f.pa / 128)))) ∧
  (∀ (s : State) (u line : Nat),
    sget ((grantLease s u line).core u).lcopies line =
      some { data := memRead s.mem (128 * line) 128, expiry := leaseExpiryOf s (128 * line) } ∧
    horizonOf (grantLease s u line) (128 * line) = Nat.max (horizonOf s (128 * line)) (leaseExpiryOf s (128 * line)) ∧
    leaseExpiryOf s (128 * line) ≤ s.now (paDie (128 * line)) + leaseLen s (paDie (128 * line)) ∧
    ∀ f ∈ pendingAt s (paDie (128 * line)) (lineIx (128 * line)), paDie f.pa = paDie (128 * line) →
      leaseExpiryOf s (128 * line) ≤ f.t) ∧
  (∀ (s : State) (u line : Nat) (x : LCopy), sget (s.core u).lcopies line = some x →
    (x.expiry ≤ s.now (dieOf u) →
      exec (.leaseExpiry u line) s = .next (s.modCore u fun c => { c with lcopies := sdel c.lcopies line })) ∧
    (s.now (dieOf u) < x.expiry → exec (.leaseExpiry u line) s = .next s)) ∧
  (∀ (s : State) (d pa : Nat), s.now d ≤ completionTime s d pa ∧ sgetD (s.die d).horizon (lineIx pa) 0 ≤ completionTime s d pa ∧
    ∀ f ∈ pendingAt s d (lineIx pa), f.t ≤ completionTime s d pa) ∧
  (∀ (s : State) (d idx : Nat) (f : Flight), s.flights[idx]? = some f → f.arrived = false → f.arrives = true → paPkg f.pa = s.pkg →
    paDie f.pa = d → (s.die d).alive = true → olderSame s f = false → earlierTicket s f = false → plainPa f.pa = true →
    let T := completionTime s d f.pa
    let s1 := { s with flights := (s.flights.filter fun x => x.id != f.id) ++ [{ f with arrived := true, t := T }] }
    (T ≤ s.now d → pendingAt s d (lineIx f.pa) = [] →
      exec (.homeStoreArrival d idx) s = .next (performAt s1 d { f with arrived := true, t := T } T)) ∧
    (s.now d < T ∨ pendingAt s d (lineIx f.pa) ≠ [] → exec (.homeStoreArrival d idx) s = .next s1)) ∧
  (∀ (s : State) (d idx : Nat) (f : Flight), s.flights[idx]? = some f →
    (∀ t, f.arrived = true → (s.die d).alive = true → f.origin = .fibre → applyTime s d f = some t →
      exec (.storeApply d idx) s = .next (performAt s d f t)) ∧
    (f.arrived = true → applyTime s d f = none → exec (.storeApply d idx) s = .next s) ∧
    ((s.die d).alive = true → f.arrived = false → f.arrives = false → (f.kind = .store ∨ ∃ op ty, f.kind = .atomic op ty false) → paPkg f.pa = s.pkg →
      dieOf f.u = d → paDie f.pa = d → olderSame s f = false → plainPa f.pa = true → localReady s f = true →
      exec (.storeApply d idx) s = .next (performLocal s f)) ∧
    (∀ t, paDie f.pa = d → applyTime s d f = some t → t = f.t ∧ f.t ≤ s.now d)) ∧
  (∀ (s : State) (d : Nat) (f : Flight) (t : Nat), f.kind = .store →
    (performAt s d f t).mem = (applyFlight s d f).mem ∧ (performAt s d f t).flights = (s.flights.filter fun x => x.id != f.id) ∧
    (f.saved = none → ∀ p ∈ f.parts, ∀ x, (performAt s d f t).fibre f.u f.slot p.fibre = some x →
      (dieOf f.u ≠ d → t ≤ x.wct) ∧
      (dieOf f.u = d → f.since ≤ horizonOf s f.pa + 4 → horizonOf s f.pa ≤ x.wct) ∧
      (dieOf f.u = d → horizonOf s f.pa + 4 < f.since → s.fibre f.u f.slot p.fibre = some x))) ∧
  (∀ (s : State) (d : Nat) (f : Flight) (p : Part) (op ty : Nat) (sc : Bool), Memory.wf s.mem = true →
    f.kind = .atomic op ty sc → f.parts = [p] →
    isPoisoned s f.pa = false → inDsmWindow p.addr = false → plainPa p.addr = true →
    let old := ofLe (memRead s.mem p.addr p.size)
    ∀ a, memGet (applyFlight s d f).mem a = if p.addr ≤ a ∧ a < p.addr + p.size then
      BitVec.ofNat 8 (atomicNew op ty p.size old (ofLe p.data) p.cmp.toNat / 256 ^ (a - p.addr)) else memGet s.mem a) ∧
  (∀ (s : State) (idx op ty : Nat) (f : Flight), s.flights[idx]? = some f → f.kind = .atomic op ty true → f.ticket = none →
    (s.die s.master).alive = true →
    let t : State := { s with nextTicket := s.nextTicket + 1,
                              flights := s.flights.map fun x => if x.id = f.id then { f with ticket := some s.nextTicket } else x }
    (f.packet = none → exec (.scTicket idx) s = .next t) ∧
    ∀ n p, f.packet = some (n, p) →
      ((slotSt s f.u n).atomics.length < 64 → exec (.scTicket idx) s = .next (sendAtomic t f.u n p f.id)) ∧
      (64 ≤ (slotSt s f.u n).atomics.length → exec (.scTicket idx) s = .next s)) ∧
  (∀ (s : State) (d idx op ty : Nat) (f : Flight), s.flights[idx]? = some f → f.kind = .dsm op ty → paDie f.pa = d →
    (s.die d).alive = true → earlierAtBank s f = false → ownerLost s f = false →
    let s1 := f.parts.foldl (bankPart op ty f.u) (dropFlight s f.id)
    (op = 0 ∨ dieOf f.u = d → exec (.dsmBankOperation d idx) s = .next s1) ∧
    (op ≠ 0 → dieOf f.u ≠ d → exec (.dsmBankOperation d idx) s = .next (ackFlight s1 f (s.now d)))) ∧
  (∀ (s : State) (u ty : Nat) (p : Part), let off := dsmOff p.addr
    (∀ a, sgetD ((bankPart 1 ty u s p).die (paDie p.addr)).dsm a 0 = if off ≤ a then
      p.data.getD (a - off) (sgetD (s.die (paDie p.addr)).dsm a 0) else sgetD (s.die (paDie p.addr)).dsm a 0) ∧
    (∀ op, (bankPart op ty u s p).mem = s.mem) ∧
    (bankPart 0 ty u s p).dies = (s.modDie (paDie p.addr) fun d => { d with dsmPend := ivRemove d.dsmPend (off / 64) }).dies) ∧
  ∀ (s : State) (d off size : Nat) (v : BitVec 512), 0 < size → size ≤ 64 → off % 128 + size ≤ 128 → off + size ≤ 4 * stackSize →
    (s.die d).alive = true → stepPassed s d 7 = true → clamped s d (stackIsland off) = false →
    let pa := mkPa s.pkg d off
    exec (.hostMemoryAccess d off size none) s =
      .next { noteRead (l2Fill s pa 8) pa with hostRead := if isPoisoned s pa then [] else paBytes s pa size } ∧
    ∃ t, exec (.hostMemoryAccess d off size (some v)) s = .next t ∧
      (completionTime s d pa ≤ s.now d → pendingAt s d (lineIx pa) = [] → t.mem = memWrite s.mem pa (leBytes size v.toNat)) ∧
      (s.now d < completionTime s d pa ∨ pendingAt s d (lineIx pa) ≠ [] → t.mem = s.mem ∧
        ∃ f ∈ t.flights, f.arrived = true ∧ f.t = completionTime s d pa ∧ f.kind = .store ∧
          f.parts = [{ fibre := 8192, addr := pa, size := size, data := leBytes size v.toNat }])

namespace Sys2Proof

/-- R73, R78, R80, R89, R93, R184, R195 to R197, R200, R201: the elements of a tile, one chunk added to an accumulator element, and a
drained element, as the spec's own arithmetic. Log 119: the band scales act on an infinite chunk sum. -/
def MatrixArithmetic : Prop :=
  (∀ (g : Machine.Group) (t fmt row k : Nat), 2 ≤ fmt → fmt ≤ 10 → k < tileK fmt → tileCode g t fmt row k =
    ofLe (bytesGet g.tiles (32768 * t + 128 * row) 128) / 2 ^ (k * elemBits fmt) % 2 ^ elemBits fmt) ∧
  (∀ (g : Machine.Group) (t : Nat) (tc : DWord) (row k : Nat) (f : Fmt), pageFmt (tcFmt tc) = some f →
    tileVal g t tc row k = (scaledValue f (tileCode g t (tcFmt tc) row k) (if tcBlk tc = 0 then 0x60
      else (sgetD g.tiles (32768 * t + 16384 + 32 * row + k / blockLen (tcBlk tc)) 0).toNat)).1) ∧
  (∀ (g : Machine.Group) (m : MEntry) (n i j : Nat), mmaInt g m n i j = BitVec.ofInt 32 ((g.acc m.ac i j).toInt +
    ((List.range n).map fun k => tileInt g m.t1 m.fa i k * tileInt g m.t2 m.fb j k).sum)) ∧
  (∀ (g : Machine.Group) (m : MEntry) (n i j : Nat), (mmaElem g m n i j).1 = (chunksBelow n).foldl (fun c ks =>
    (chunkInto c (ks.map fun k => (tileVal g m.t1 m.tc1 i k, tileVal g m.t2 m.tc2 j k)) (tcBand m.tc1 i) (tcBand m.tc2 j)).1)
    (g.acc m.ac i j)) ∧
  (∀ n, (chunksBelow n).flatten = List.range n ∧ ∀ ks ∈ chunksBelow n, ks.length ≤ 32 ∧ ∀ k ∈ ks, k / 32 = ks.headD 0 / 32) ∧
  (∀ (c : Word) (xys : List (Val × Val)) (ba bb : Nat) (ps : List ℚ) (na nb : Bool) (ra rb : ℚ),
    (xys.length = ps.length ∧ ∀ e ∈ xys.zip ps, ∃ n, IsRat (e.1.1.mul e.1.2) n e.2) →
    IsRat (value fmtBF16 ba) na ra → IsRat (value fmtBF16 bb) nb rb → ∃ n m e, ratOf n m e = ps.sum * ra * rb ∧
      let p := roundFin fmtF32 n m e .rne false
      let r := addRound fmtF32 (value fmtF32 c.toNat) (value fmtF32 p.1) .rne false
      chunkInto c xys ba bb = (BitVec.ofNat 32 r.1, p.2 ||| r.2)) ∧
  (∀ (c : Word) (xys : List (Val × Val)) (ba bb : Nat),
    ((∃ e ∈ xys, (e.1.mul e.2).isNan = true) ∨
      ((∃ e ∈ xys, e.1.mul e.2 = .inf true) ∧ ∃ e ∈ xys, e.1.mul e.2 = .inf false) →
      (chunkInto c xys ba bb).1 = 0x7FC00000 ∧ (chunkInto c xys ba bb).2.getLsbD 0 = true) ∧
    ∀ n ra rb, 0 < ra → 0 < rb → IsRat (value fmtBF16 ba) false ra → IsRat (value fmtBF16 bb) false rb →
      (∃ e ∈ xys, e.1.mul e.2 = .inf n) → (∀ e ∈ xys, (e.1.mul e.2).isNan = false ∧ e.1.mul e.2 ≠ .inf (!n)) →
      (chunkInto c xys ba bb).1 = BitVec.ofNat 32 (addRound fmtF32 (value fmtF32 c.toNat) (.inf n) .rne false).1) ∧
  ∀ (md : Nat) (x : Word), (∀ b, drainElem b 1 md x = (x.toNat, 0)) ∧
    (∀ fa f, fa ≠ 1 → pageFmt fa = some f →
      (drainElem false fa md x).1 = (roundVal f (value fmtF32 x.toNat) (rndOf (md % 8)) (md.testBit 3)).1) ∧
    ∀ fa, fa = 9 ∨ fa = 10 → let w := if fa = 9 then 8 else 4
      (md.testBit 3 = false → (drainElem true fa md x).1 = x.toNat % 2 ^ w) ∧
      (md.testBit 3 = true → (drainElem true fa md x).1 = (BitVec.ofInt w
        (if x.toInt < -2 ^ (w - 1) then -2 ^ (w - 1) else if x.toInt > 2 ^ (w - 1) - 1 then 2 ^ (w - 1) - 1 else x.toInt)).toNat)

/-- What one entry of the matrix queue, other than a drain to scratchpad, does to its group: the elements of its accumulator (MMA, TXP,
TPERM, TRRED, AZERO) or the rows of its tile (ADRAIN, ADRAIN.byp), and nothing else of them. -/
def MatrixEffect (g : Machine.Group) (m : MEntry) (g2 : Machine.Group) : Prop :=
  let half := 128 * (m.md % 2)
  let cols := Nat.min (Nat.min (tcCols m.tc1) (tcCols m.tc2)) (Nat.min (tileK m.fa) (tileK m.fb))
  let int := m.fa == 9 || m.fa == 10
  (m.op = .mma ∨ m.op = .txp ∨ m.op = .tperm ∨ m.op = .trred ∨ m.op = .azero →
    g2.tiles = g.tiles ∧ ∀ a i j, a ≠ m.ac → i < 128 → j < 128 → g2.acc a i j = g.acc a i j) ∧
  (m.op ≠ .azero → g2.accInt = g.accInt) ∧
  (∀ i j, i < 128 → j < 128 →
    (m.op = .mma → g2.acc m.ac i j = if i < tcRows m.tc1 ∧ j < tcRows m.tc2 then
      (if int then mmaInt g m cols i j else (mmaElem g m cols i j).1) else g.acc m.ac i j) ∧
    (∀ src k, (m.op = .txp ∧ src = j ∧ k = half + i) ∨ (m.op = .tperm ∧ src = (m.aux.getD i 0).toNat ∧ k = half + j) →
      g2.acc m.ac i j = if src < 128 ∧ src < tcRows m.tc1 ∧ k < tcCols m.tc1 then
        (if int then BitVec.ofInt 32 ((g.acc m.ac i j).toInt + tileInt g m.t1 m.fa src k)
        else (chunkInto (g.acc m.ac i j) [(tileVal g m.t1 m.tc1 src k, .fin false 1 0)] (tcBand m.tc1 src) 0x3F80).1)
      else g.acc m.ac i j) ∧
    (m.op = .trred → g2.acc m.ac i j = if i < tcRows m.tc1 ∧ j = m.md % 128 then
      (if int then BitVec.ofInt 32 ((g.acc m.ac i j).toInt + ((List.range (tcCols m.tc1)).map fun k => tileInt g m.t1 m.fa i k).sum)
      else (chunksBelow (tcCols m.tc1)).foldl (fun c ks => (chunkInto c
        (ks.map fun k => (tileVal g m.t1 m.tc1 i k, .fin false 1 0)) (tcBand m.tc1 i) 0x3F80).1) (g.acc m.ac i j))
      else g.acc m.ac i j) ∧
    (m.op = .azero → g2.acc m.ac i j = 0)) ∧
  (m.op = .azero → ∀ a, a < 8 → g2.accInt.getLsbD a = if a = m.ac then m.md.testBit 0 else g.accInt.getLsbD a) ∧
  (m.op = .adrain ∨ m.op = .adrainByp → g2.accs = g.accs ∧ (∀ k, k / 32768 ≠ m.t1 → sgetD g2.tiles k 0 = sgetD g.tiles k 0) ∧
    (2 ≤ m.fa → m.fa ≤ 10 → let n := if m.fa = 2 ∨ m.fa = 3 then 64 else 128
      let w := n * elemBits m.fa / 8
      ∀ i, i < 128 → let a := 32768 * m.t1 + 128 * i
        bytesGet g2.tiles a w = packCodes (elemBits m.fa) ((List.range n).map fun j =>
          (drainElem (g.accInt.getLsbD m.ac) m.fa m.md (g.acc m.ac i (j + if m.md.testBit 5 then 64 else 0))).1) w ∧
        (∀ k, w ≤ k → k < 128 → sgetD g2.tiles (a + k) 0 = 0) ∧
        ∀ k, k < 128 → sgetD g2.tiles (32768 * m.t1 + 16384 + 128 * i + k) 0 = 0))

end Sys2Proof

/-- R190, R191, R195 to R201, R210 to R216, R421, R422: the engines' own events. Rests on model choices of the log: 54 (which queue
entry ends), 56, 57 (a TST sends one line with each event), 111 (when an island that a waiting copy names has closed), 119 (infinite chunk
sums under the band scales), 126 (lines of ended lanes). -/
def Obligations.EnginesComplete : Prop :=
  MatrixArithmetic ∧
  (∀ (s : State) (u idx : Nat) (x : Copy), ((s.core u).copies.filter fun x => !x.registered)[idx]? = some x →
    (lockShort s u x.domain x.locks (dsmLines x) = true → exec (.copyRegister u idx) s = .next s) ∧
    (lockShort s u x.domain x.locks (dsmLines x) = false → (∀ l ∈ x.lanes, laneClosed s u x l = false ∧ l.dstSlot = none) →
      ∃ t, exec (.copyRegister u idx) s = .next t ∧ t.mem = s.mem ∧
        (t.core u).copies = ((s.core u).copies.filter fun y => y.id != x.id) ++ [{ x with registered := true }] ∧
        ∀ l ∈ x.lanes, ∀ f, s.fibre u x.slot l.fibre = some f → f.wait = some .copyRoom →
          t.fibre u x.slot l.fibre = some { f with wait := none, readyAt := (s.core u).opp, pc := x.next })) ∧
  (∀ (s : State) (u idx i : Nat) (x : Copy) (l : CopyLane), (s.die (dieOf u)).alive = true →
    (openLanes (s.core u))[idx]? = some (x, i, l) →
    (∀ a, laneLost s u x l = some a → exec (.copyLaneComplete u idx) s =
      .next (failLane (s.sendNoFibre (dieOf u) 0x16 a) u x i l)) ∧
    (∀ T, laneLost s u x l = none → l.written = some T → exec (.copyLaneComplete u idx) s =
      .next (if T + 4 < s.now (dieOf u) then finishLane s u x i l else s)) ∧
    (laneLost s u x l = none → l.written = none → l.sent = false → l.failed = false → (x.space = 3 → l.claimed = true) →
      exec (.copyLaneComplete u idx) s = .next (moveLane s u x i l))) ∧
  (∀ (s : State) (u : Nat) (x : Copy) (l : CopyLane) (bytes : List Byte) (g : Machine.Group), (s.die (dieOf u)).alive = true → (s.core u).copies = [x] → x.lanes = [l] →
    (x.space ≠ 0 → paPkg l.srcPa = s.pkg) → x.registered = true → l.done = false → l.failed = false → l.sent = false → l.written = none → l.data = none → l.fetch = none →
    (x.space = 3 → l.claimed = true) → laneLost s u x l = none → sourceBusy s u x l = false → sourceBytes s u x l = some bytes →
    s.group u x.slot = some g → ∃ t, exec (.copyLaneComplete u 0) s = .next t ∧
    (x.space = 1 ∨ x.space = 3 → t.mem = s.mem ∧ ∃ g2, t.group u x.slot = some g2 ∧ g2.scratch = bytesSet g.scratch l.dst bytes) ∧
    (x.space = 0 → paPkg l.dstPa = s.pkg → plainPa l.dstPa = true → let d := paDie l.dstPa
      (completionTime s d l.dstPa ≤ s.now d → pendingAt s d (lineIx l.dstPa) = [] → t.mem = memWrite s.mem l.dstPa bytes) ∧
      (s.now d < completionTime s d l.dstPa ∨ pendingAt s d (lineIx l.dstPa) ≠ [] → t.mem = s.mem))) ∧
  (∀ (s : State) (u i : Nat) (x : Copy) (l : CopyLane), x.space ≠ 3 → l.failed = false → l.ctr ≠ 0xFFFFFFFF →
    counterOf (finishLane s u x i l) (dieOf u) l.ctr = counterOf (counterAdd s (dieOf u) l.ctr (-1)) (dieOf u) l.ctr) ∧
  (∀ (s : State) (u idx i : Nat) (x : Copy) (l : CopyLane), (openLanes (s.core u))[idx]? = some (x, i, l) →
    (isPoisoned s l.srcPa = false → exec (.copySourceError u idx 0) s = .next s) ∧
    (x.space ≠ 0 → l.data = none → l.fetch = none → l.failed = false → isPoisoned s l.srcPa = true →
      exec (.copySourceError u idx 0) s = .next (failLine (s.sendNoFibre (dieOf u) 0x1D l.src) u x.id l.src))) ∧
  (∀ (s : State) (u : Nat) (x : Copy) (i : Nat) (l : CopyLane), (s.core u).copies = [x] → x.lanes[i]? = some l → x.space ≠ 3 →
    l.data = none → l.done = false → l.failed = false → l.epoch = none → i < 32 → (∃ j m, j ≠ i ∧ x.lanes[j]? = some m ∧ m.done = false ∧
      lineOf m.src ≠ lineOf l.src) → ∃ y m, ((failLine s u x.id l.src).core u).copies = [y] ∧ y.lanes[i]? = some m ∧ m.done = true ∧
    m.data = none ∧ (failLine s u x.id l.src).mem = s.mem ∧ counterOf (failLine s u x.id l.src) (dieOf u) l.ctr = counterOf s (dieOf u) l.ctr) ∧
  (∀ (s : State) (u idx : Nat) (e : Copy × Nat × CopyLane) (b : CbOpen), (unclaimed (s.core u))[idx]? = some e →
    (unclaimed (s.core u)).any (claimBefore e) = false →
    (cbOpenOf s u e.1.slot e.2.2.ctr = some b → b.pos < b.size → exec (.cbClaim u idx) s = .next (claimIn s u e b)) ∧
    (cbOpenOf s u e.1.slot e.2.2.ctr = some b → b.size ≤ b.pos → exec (.cbClaim u idx) s = .next s) ∧
    (∀ g, cbOpenOf s u e.1.slot e.2.2.ctr = none → s.group u e.1.slot = some g → (cbBlock g e.2.2.ctr).free = 0 →
      exec (.cbClaim u idx) s = .next s)) ∧
  (∀ (s : State) (u slot block : Nat) (b : CbOpen) (g : Machine.Group), cbOpenOf s u slot block = some b → s.group u slot = some g →
    let busy := (openLanes (s.core u)).any fun e => e.1.space == 3 && e.1.slot == slot && e.2.2.ctr == block && e.2.2.claimed
    (b.pos < b.size ∨ b.stuck = true ∨ busy = true → exec (.cbSlotFilled u slot block) s = .next s) ∧
    (b.size ≤ b.pos → b.stuck = false → busy = false → (cbBlock g block).filled < 65535 → ∃ t g2,
      exec (.cbSlotFilled u slot block) s = .next t ∧ t.group u slot = some g2 ∧
      (cbBlock g2 block).filled = (cbBlock g block).filled + 1 ∧ cbOpenOf t u slot block = none)) ∧
  (∀ (s : State) (u : Nat) (n : MEntry) (q : List MEntry), (s.core u).queue = n :: q →
    exec (.matrixEntryStart u) s = .next (if canStart (s.core u) n then
      s.modCore u fun c => { c with queue := q, running := c.running ++ [{ n with started := true }] } else s)) ∧
  (∀ (s : State) (u idx : Nat) (m : MEntry) (g : Machine.Group), s.group u m.slot = some g →
    (((s.core u).running.filter fun m => !(m.op == .adrain && drainScratch m.md))[idx]? = some m →
      (waitsDone (s.core u) m = false → exec (.matrixEntryComplete u idx) s = .next s) ∧
      (waitsDone (s.core u) m = true → ∃ t g2, exec (.matrixEntryComplete u idx) s = .next t ∧ t.group u m.slot = some g2 ∧
        MatrixEffect g m g2 ∧ g2.scratch = g.scratch ∧
        (∀ i f, i ∈ m.members → sget g.fibres i = some f → f.gate = none → ∃ f2, sget g2.fibres i = some f2 ∧
          f2 = { f with flags := f.flags ||| (entryRun g m).2 }) ∧ (∀ i, i ∉ m.members → sget g2.fibres i = sget g.fibres i) ∧
        (t.core u).running = ((s.core u).running.filter fun x => x.id != m.id) ∧ t.mem = s.mem)) ∧
    (((s.core u).running.filter fun m => m.op == .adrain && drainScratch m.md)[idx]? = some m → ∃ t g2,
      exec (.drainWriteComplete u idx) s = .next t ∧ t.group u m.slot = some g2 ∧
      g2.accs = g.accs ∧ g2.tiles = g.tiles ∧ (m.fa ≤ 10 → let w := 16 * elemBits m.fa
        (∀ i, i < 128 → bytesGet g2.scratch (m.addr + i * w) w = packCodes (elemBits m.fa)
          ((List.range 128).map fun j => (drainElem (g.accInt.getLsbD m.ac) m.fa m.md (g.acc m.ac i j)).1) w) ∧
        ∀ a, a < m.addr ∨ m.addr + 128 * w ≤ a → sgetD g2.scratch a 0 = sgetD g.scratch a 0) ∧
      (∀ k ∈ (t.core u).locks, k.owner ≠ m.id) ∧
      ∀ i ∈ m.members, ∀ f, sget g2.fibres i = some f → f.wait ≠ some (.signed m.conv))) ∧
  (∀ (s : State) (u idx : Nat) (m : MEntry), ((s.core u).transfers.filter fun m => m.op == .tld)[idx]? = some m →
    (waitsDone (s.core u) m = false ∨ rowsBusy s u m = true → exec (.tldComplete u idx []) s = .next s) ∧
    (∀ g r, waitsDone (s.core u) m = true → rowsBusy s u m = false → m.fa = 0 → m.md.testBit 0 = true → m.rows = [r] →
      s.group u m.slot = some g → ∃ t g2, exec (.tldComplete u idx []) s = .next t ∧ t.group u m.slot = some g2 ∧
        (∀ k, k < 128 → sgetD g2.tiles (32768 * m.t1 + k) 0 = sgetD g.scratch (r.pa + k) 0) ∧
        (∀ k, k < 32768 * m.t1 ∨ 32768 * m.t1 + 128 ≤ k → sgetD g2.tiles k 0 = sgetD g.tiles k 0) ∧ t.mem = s.mem)) ∧
  ∀ (s : State) (u idx : Nat) (m : MEntry), ((s.core u).transfers.filter fun m => m.op == .tst)[idx]? = some m →
    (s.die (dieOf u)).alive = true →
    (m.started = true → exec (.tstComplete u idx) s = .next (tstRun s u m)) ∧
    (m.started = false → waitsDone (s.core u) m = false ∨ rowsBusy s u m = true → exec (.tstComplete u idx) s = .next s) ∧
    (∀ g, m.started = false → waitsDone (s.core u) m = true → rowsBusy s u m = false → s.group u m.slot = some g →
      (m.md.testBit 0 = true → exec (.tstComplete u idx) s = .next (tstEnd (s.modGroup u m.slot fun g =>
        { g with scratch := m.rows.zipIdx.foldl (fun b e => bytesSet b e.1.pa (bytesGet g.tiles (32768 * m.t1 + 128 * e.2)
          (if m.fa = 0 then 128 else rowWidth (tcFmt m.tc1)))) g.scratch }) u m)) ∧
      (m.md.testBit 0 = false → let m1 := { m with started := true, todo := tstWrites g m }
        exec (.tstComplete u idx) s = .next (tstRun (modTransfer s u m.id fun _ => m1) u m1))) ∧
    (m.started = true → m.todo = [] → (s.core u).transfers = [m] → ∃ t, exec (.tstComplete u idx) s = .next t ∧ t.mem = s.mem ∧
      ((∃ f ∈ s.flights, f.origin = .tst m.id) ∨ (m.t ≠ 0 ∧ s.now (dieOf u) ≤ m.t + 4) → (t.core u).transfers = [m]) ∧
      ((∀ f ∈ s.flights, f.origin ≠ .tst m.id) → m.t = 0 ∨ m.t + 4 < s.now (dieOf u) → (t.core u).transfers = [] ∧
        ∀ id ∈ m.members, ∀ f, t.fibre u m.slot id = some f → f.wait ≠ some (.signed m.conv) ∧ m.t ≤ f.wct)) ∧
    (∀ e rest, m.todo = e :: rest → (tstNext s u m m.todo).2 =
      if (tstSend s u m e).2 then rest else e :: (tstNext s u m rest).2) ∧
    (∀ n (q : Part) ps, slotValid s u n = true → allow s u n < packetCharge (((q :: ps).map fun p : Part => p.size).sum) →
      (dieLost s (dieOf u)).testBit (paDie q.addr) = false → tstSend s u m (some n, q :: ps) = (s, false)) ∧
    ∀ q : Part, plainPa q.addr = true → q.addr % 128 + q.data.length ≤ 128 → (dieLost s (dieOf u)).testBit (paDie q.addr) = false →
      let a := q.addr; let d := paDie a
      (tstSend s u m (none, [q])).2 = true ∧
      (completionTime s d a ≤ s.now d → pendingAt s d (lineIx a) = [] →
        (tstSend s u m (none, [q])).1.mem = memWrite s.mem a q.data) ∧
      (s.now d < completionTime s d a ∨ pendingAt s d (lineIx a) ≠ [] → (tstSend s u m (none, [q])).1.mem = s.mem)

/-- R220, R221, R224, R226 to R231, R235 to R237, R259, R261: the scheduler's events. -/
def Obligations.TasksAndLaunches : Prop :=
  (∀ (s : State) (vf slot : Nat) (v : DWord), vf < 256 → stepPassed s (vf / 32) 7 = true →
    exec (.watchedStore vf slot v) s = .next (if s.checkpoint then { s with heldStores := s.heldStores ++ [(vf, slot, v)] }
      else watched s vf slot v)) ∧
  (∀ (s : State) (vf slot : Nat) (v : DWord) (x : Nat), watchingCtx s vf slot = some x → ctxField s x 95 85 < ctxField s x 84 74 →
    ∃ k, sget (watched s vf slot v).tasks s.nextTask = some k ∧ k.arg = v ∧ k.domain = vf ∧ k.launch = s.nextLaunch ∧ k.kind = 0 ∧
      k.khdr = BitVec.ofNat 64 (ctxWord s x 2) ∧ k.queue = ctxField s x 12 0 ∧
      (sget (watched s vf slot v).launches s.nextLaunch).map (fun l => (l.ctx, l.seq, l.domain, l.crec, l.maxpend, l.pasid)) =
        some (x, ctxField s x 127 96, vf, ctxWord s x 3, ctxField s x 84 74, ctxField s x 47 28)) ∧
  (∀ (s : State) (d t : Nat) (k : Task),
    (firstTask (waitingTasks s d true) = some (t, k) → dieFull s d = false →
      exec (.pendingLaunchEntry d) s = .next (enterLaunch s t k) ∧ (k.hdrRead = true → enterLaunch s t k = enterTask s t)) ∧
    (firstTask (waitingTasks s d false) = some (t, k) → dieFull s d = false → waitingTasks s d true = [] →
      exec (.tenqEntry d) s = .next (wakeTenq (enterTask s t) t)) ∧
    (waitingTasks s d true ≠ [] → exec (.tenqEntry d) s = .next s)) ∧
  (∀ (s : State) (t : Nat) (k : Task), sget s.tasks t = some k → noCounter k.waitc = true →
    sget (enterTask s t).tasks t = some { k with
      st := .ready, readyAt := s.now (queueDie k.queue), seq := s.nextId, failedAt := none, hintAt := none }) ∧
  (∀ (s : State) (t : Nat) (k : Task), sget s.tasks t = some k → noCounter k.waitc = false →
    (counterOf s (ctrDie k.waitc) (ctrId k.waitc)).count ≠ 0 → sget (enterTask s t).tasks t = some { k with st := .parked } ∧
    (counterOf (enterTask s t) (ctrDie k.waitc) (ctrId k.waitc)).parked =
      (counterOf s (ctrDie k.waitc) (ctrId k.waitc)).parked ++ [t]) ∧
  (∀ (s : State) (u t : Nat) (k : Task),
    (pickTask s u = some (t, k) → outranked s u t k = false → exec (.taskDispatch u) s = .next (tryAdmit (noteHints s u) u t k)) ∧
    (pickTask s u = none → exec (.taskDispatch u) s = .next (noteHints s u)) ∧
    (sget s.tasks t = some k → takerOf s t = some u →
      exec (.savedTaskRestore t) s = .next (if k.saved then tryAdmit s u t k else s) ∧
      exec (.discardRestart t) s = .next (if k.restart then tryAdmit s u t k else s)) ∧
    (k.restart = false → planFor s t k u = none → tryAdmit s u t k = failAdmission s u t)) ∧
  (∀ (s : State) (t : Nat) (k : Task), sget s.tasks t = some k →
    (∀ h, k.hintAt = some h → exec (.hintTimeout t) s =
      .next (if h + 100000 ≤ s.now (queueDie k.queue) then modTask s t fun k => { k with noHints := true } else s)) ∧
    (∀ f, k.st = .ready → k.failedAt = some f → f + 64000 ≤ s.now (queueDie k.queue) →
      let part := queuePart s k.queue
      let l := chooseCores s part k.domain k.hdr (tierOrder k.failedCore (takingCores s part k)) []
      reservingTask s part = none → shapeRefused s part k.domain k.hdr = false → l.head? = some k.failedCore →
      fitsFree s l part k.domain k.hdr = true →
      exec (.reservingTimeout t) s = .next (modTask s t fun k => { k with st := .reserving, chosen := l })) ∧
    (∀ u us p s2, k.st = .reserving → k.chosen = u :: us → shapeRefused s (queuePart s k.queue) k.domain k.hdr = false →
      s.checkpoint = false → domainValid s (dieOf u) k.domain = true → (∀ v ∈ k.chosen, climbing s v k.domain = false ∧ coreEnabled s v = true ∧ unitPart s v = queuePart s k.queue) →
      planOn s (queuePart s k.queue) k k.chosen [] = some p → admitTask s u t k p = some s2 →
      exec (.reservationComplete t) s = .next s2) ∧
    (k.st = .draining → drainDone s k = true → noCounter k.donec = true →
      exec (.taskDrainComplete t) s = .next (modTask s t fun k => { k with st := .done, drain := [] })) ∧
    (k.st = .draining → drainDone s k = true → noCounter k.donec = false →
      exec (.taskDrainComplete t) s = .next (counterTaskDec (modTask s t fun k => { k with st := .done, drain := [] })
        (ctrDie k.donec) (ctrId k.donec) k.wct k.dies)) ∧
    (k.st = .draining → drainDone s k = false → exec (.taskDrainComplete t) s = .next s)) ∧
  (∀ (s : State) (u slot : Nat) (g : Machine.Group), s.group u slot = some g →
    (∀ t, g.st = .deferred t → exec (.deferredGroupStart u slot) s =
      .next (if t < s.now (dieOf u) then s.modGroup u slot fun g => { g with
        st := .run, fibres := g.fibres.map fun x => (x.1, { x.2 with readyAt := (s.core u).opp }) } else s)) ∧
    (g.st = .ending → g.task = none → engineBusy s u slot = false →
      exec (.groupEnd u slot) s = .next (settleClimbs (leave s u slot))) ∧
    (engineBusy s u slot = true → exec (.groupEnd u slot) s = .next (settleClimbs s)) ∧
    (leave s u slot).group u slot = none ∧ (leave s u slot).mem = s.mem) ∧
  ∀ (s : State) (n : Nat) (l : Launch), sget s.launches n = some l →
    let ms := (s.tasks.filter fun e => e.2.launch == n).map (·.2)
    (l.complete = true ∨ (∃ k ∈ ms, k.over = false) → exec (.launchComplete n) s = .next s) ∧
    (l.complete = false → (∀ k ∈ ms, k.over = true) → (∀ k ∈ ms, ∀ d, d < 8 → (s.die d).alive = true → k.wct + 4 < s.now d) →
      (∀ d, d < 8 → (s.die d).alive = true → 4 < s.now d) → stepPassed s (l.domain / 32) 7 = true → ∃ t l2, exec (.launchComplete n) s = .next t ∧
      sget t.launches n = some l2 ∧ l2.complete = true ∧ l2.seq = l.seq ∧ (∀ k ∈ ms, k.status ≤ l2.status) ∧ t.mem = s.mem ∧
      t.hostWrites = s.hostWrites ++ [(l.pasid, wrapNat (l.crec + 16 * (l.seq % l.maxpend) : Nat) 64,
        leBytes 4 l.seq ++ leBytes 4 l2.status ++ leBytes 8 (s.now (l.ctx / 512)))])

/-- R13, R249, R250, R262 to R264, R438: supervisors' commands and answers. -/
def Obligations.ResponsesAndLadder : Prop :=
  (∀ (s : State) (d sc : Nat), sc < 4 → exec (.startBlockGo d sc) s = .next (startGo s d sc)) ∧
  (∀ (s : State) (d sc : Nat) (h : Header) (p : Place), sc < 4 → (s.die d).alive = true →
    let u := 64 * d + 32 + sc
    let o := startOff sc
    clamped s d (islandOf u) = false → (s.die d).num (o + 16) 4 < 2 ^ 20 → (s.die d).num (o + 20) 4 < 4 →
    ((s.die d).bytes (o + 32) 32).all (· == 0) = true →
    startHeader s u ((s.die d).num o 8) ((s.die d).num (o + 16) 4) (((s.die d).num (o + 20) 4).testBit 1) = some h →
    h.kgrps = 1 → h.ktiles = 0 → h.kaccs = 0 → headerLimits h = true → placeGroup (s.core u) wholeCore h = some p →
    ∃ g, (startGo s d sc).group u p.slot = some g ∧ g.hdr = h ∧ g.fibres.map (·.1) = List.range h.kfibs ∧
      ∀ e ∈ g.fibres, e.2.pc = alignPc h.kent ∧ e.2.sup = true ∧ e.2.wait = none) ∧
  (∀ (s : State) (d tag : Nat) (r : Record), recordOf s d tag = some r →
    exec (.responseResume d tag) s = .next (releaseFibres (endRecord s d r) r r.fpc) ∧
    (responseWaits s r r.fpc.toNat = false → exec (.responseSkip d tag) s = .next (releaseFibres (endRecord s d r) r (afterInstr s r))) ∧
    (∀ a : DWord, responseWaits s r a.toNat = true → exec (.responseRedirect d tag a) s = .next s) ∧
    (∀ a : DWord, r.fibres ≠ [] → responseWaits s r a.toNat = false → let s1 := endRecord (responseFetch s r a.toNat) d r
      exec (.responseRedirect d tag a) s = .next (if redirectOk s r a.toNat then releaseFibres s1 r a
      else s1.takeFault r.u r.slot r.fibres (bitsOf r.who.toNat 25 16) (bitsOf r.fcause.toNat 26 22) 0x03 0 a.toNat r.fpc)) ∧
    (∀ g, r.fibres ≠ [] → isSupCore r.u = false → s.group r.u r.slot = some g →
      (∀ id ∈ r.fibres, ∀ f, sget g.fibres id = some f → f.gate = none) →
      exec (.responseKill d tag) s = .next (settleClimbs (killStep (endRecord s d r) d g.domain (1#32 <<< coreIx r.u)
        (gangsOn (endRecord s d r) d g.domain (1#32 <<< coreIx r.u))))) ∧
    recordOf (endRecord s d r) d tag = none ∧ (∀ n, n ≠ r.tag → recordOf (endRecord s d r) d n = recordOf s d n)) ∧
  (∀ (s : State) (d tag : Nat), recordOf s d tag = none → exec (.responseResume d tag) s = .next s ∧ exec (.responseSkip d tag) s = .next s ∧
    exec (.responseKill d tag) s = .next s ∧ ∀ a, exec (.responseRedirect d tag a) s = .next s) ∧
  (∀ (s : State) (r : Record) (pc : DWord) (id : Nat) (f : Fibre), s.fibre r.u r.slot id = some f → id ∈ r.fibres → f.faulted = true →
    (releaseFibres s r pc).fibre r.u r.slot id =
      some { f with faulted := false, pc := alignPc pc, readyAt := (s.core r.u).opp } ∧ (releaseFibres s r pc).mem = s.mem) ∧
  (∀ (s : State) (d dom : Nat) (cores : BitVec 32), (∀ x ∈ (s.die d).climbs, x.domain ≠ dom) →
    exec (.preqRequest d dom cores) s = .next (settleDie (dropReservations (s.modDie d fun x =>
      { x with climbs := x.climbs ++ [{ domain := dom, st := .soft, cores := cores, since := x.time, tasks := gangsOn s d dom cores }] }) d dom cores) d)) ∧
  (∀ (s : State) (d dom : Nat), (∀ x ∈ (s.die d).climbs, x.st ≠ .halted) →
    exec (.preqRelease d dom) s = .next (s.modDie d fun x => { x with climbs := x.climbs.filter fun y => y.domain != dom || y.shoot })) ∧
  (∀ (s : State) (d dom : Nat) (x : Climb), (s.die d).climbs = [x] → s.cur = none → x.domain = dom → x.st = .soft →
    (s.die d).time < x.since + 1000 * domField s d dom 52 2 → exec (.graceTimerExpiry d dom) s = .next (settleClimbs s)) ∧
  (∀ (s : State) (d dom : Nat) (x : Climb), (s.die d).climbs = [x] → s.cur = none → x.domain = dom → x.st = .soft → x.shoot = false →
    x.since + 1000 * domField s d dom 52 2 ≤ (s.die d).time →
    let on := gangsOn s d dom x.cores
    let ts := on ++ x.tasks.filter fun t => !on.contains t
    exec (.graceTimerExpiry d dom) s = .next (settleClimbs (ts.foldl haltGang (abortCalls (s.modDie d fun y =>
      { y with climbs := [{ x with st := .halted, tasks := ts }] }) d dom x.cores)))) ∧
  (∀ (s : State) (d dom : Nat) (x : Climb), (s.die d).climbs = [x] → x.domain = dom → x.st = .halted → x.shoot = false →
    x.since + 1000 * (domField s d dom 52 2 + domField s d dom 54 2) ≤ (s.die d).time → x.tasks.filter (resident s) ≠ [] →
    exec (.saveTimerExpiry d dom) s = .next (settleClimbs (killStep s d dom x.cores (x.tasks.filter (resident s))))) ∧
  ∀ (s : State) (vf : Nat), vf < 256 → exec (.vfReset vf) s = .next (settleClimbs ((List.range 8).foldl (fun s d => zeroDomain s d vf)
    (freeCourses (drainSlots ((List.range 8).foldl (fun s d => cancelDomain (abortCalls s d vf 0xFFFFFFFF) d vf)
      ((openTasks s vf).foldl resetTask s)) vf) vf)))

/-- R273, R275 to R277, R280, R285: shoot-downs, the Satus channel, and migration. Rests on model choices of the log: 27 (invalid VA and NPG, a
second shoot-down while one is open, and the identifier) and 68 (gangs halted by the timer form a climb without cores). -/
def Obligations.ShootdownsAndMessages : Prop :=
  (∀ (s : State) (d : Nat), (s.die d).alive = true → (s.die d).judged = false →
    (sdStatus s d = 1 ∨ sdStatus s d = 2 → exec (.shootdownRetract d) s = .next (setSdStatus s d 4)) ∧
    (sdStatus s d ≠ 1 → sdStatus s d ≠ 2 → (s.die d).sd = none → ∃ t,
      let id := (8 * (s.die d).nextSd + d) % 2 ^ 32
      exec (.shootdownRetract d) s = .next t ∧ (t.die d).sd = some id ∧ (t.die d).sdAcks = 0 ∧ sdStatus t d = 1 ∧ t.mem = s.mem ∧
      t.satus = s.satus ++ [{
        group := some 0, targets := groupMembers s 0, seq := sgetD s.groupSeq 0 0, sender := 0xFF,
                              msg := satusMsg (sgetD s.groupSeq 0 0) 0 0xFF (List.replicate 6 0 ++ leBytes 2 0x8001 ++
          sdBody id ((s.die d).num (sdOff + 8) 4) ((s.die d).num sdOff 8) ((s.die d).num (sdOff + 12) 4)) }]) ∧
    (∀ id, sdStatus s d = 2 → (s.die d).sd = some id → ∃ t, exec (.shootdownCommit d) s = .next t ∧ (t.die d).sd = none ∧
      sdStatus t d = 3 ∧ t.satus.length = s.satus.length + 1) ∧
    (sdStatus s d ≠ 2 → exec (.shootdownCommit d) s = .next (setSdStatus s d 4))) ∧
  (∀ (s : State) (d sd : Nat) (m : BitVec 512), nextHard s d 0x8001 4 sd = some m →
    let x : Shoot := { id := sd, initiator := sd % 8, pasid := msgBody m 4 4 % 2 ^ 20, va := msgBody m 8 8, npg := msgBody m 16 4,
                       since := s.now d }
    ∃ t, exec (.retractReceive d sd) s = .next t ∧ (t.die d).shoots = (s.die d).shoots ++ [x] ∧
      (t.die d).hardIn = (s.die d).hardIn.drop 1 ∧ t.mem = s.mem ∧
      ∀ u, dieOf u = d → ∀ e, e ∈ (t.core u).tlb ↔ e ∈ (s.core u).tlb ∧ entryShot x e = false) ∧
  (∀ (s : State) (d sd : Nat) (x : Shoot), ((s.die d).shoots.find? fun x => x.id == sd) = some x →
    (usesRange s d x = true → exec (.retractAck d sd) s = .next s) ∧
    (x.acked = false → usesRange s d x = false → (s.die d).alive = true → x.initiator ≠ d → ∃ t,
      exec (.retractAck d sd) s = .next t ∧ (t.die x.initiator).acksIn = (s.die x.initiator).acksIn ++ [(sd, d)] ∧
      (t.die d).shoots = (s.die d).shoots.map fun y => if y.id = sd then { y with acked := true } else y)) ∧
  (∀ (s : State) (d sd : Nat) (e : Nat × Nat), ((s.die d).acksIn.find? fun e => e.1 == sd) = some e → (s.die d).sd = some sd →
    exec (.retractAckReceive d sd) s = .next (settleAcks (s.modDie d fun x =>
      { x with acksIn := x.acksIn.erase e, sdAcks := (s.die d).sdAcks ||| dieBit e.2 }) d)) ∧
  (∀ (s : State) (d id : Nat), (s.die d).sd = some id → sdStatus s d ≠ 2 →
    ((∀ e, e < 8 → countedDie s d e = true → (s.die d).sdAcks.getLsbD e = true) → settleAcks s d = setSdStatus s d 2) ∧
    ((∃ e, e < 8 ∧ countedDie s d e = true ∧ (s.die d).sdAcks.getLsbD e = false) → settleAcks s d = s)) ∧
  (∀ (s : State) (d sd : Nat) (m : BitVec 512), nextHard s d 0x8003 4 sd = some m → ∃ t, exec (.commitReceive d sd) s = .next t ∧
    (t.die d).shoots = (s.die d).shoots.filter (fun x => x.id != sd) ∧ (t.die d).hardIn = (s.die d).hardIn.drop 1) ∧
  (∀ (s : State) (d sd : Nat) (x : Shoot), ((s.die d).shoots.find? fun x => x.id == sd) = some x →
    (s.now d < x.since + 1000 * (s.die x.initiator).num (sdOff + 28) 4 → exec (.shootdownTimeout d sd) s = .next s) ∧
    (x.acked = true ∨ x.timedOut = true ∨ usesRange s d x = false → exec (.shootdownTimeout d sd) s = .next s) ∧
    (s.cur = none → x.acked = false → x.timedOut = false → usesRange s d x = true → x.since + 1000 * (s.die x.initiator).num (sdOff + 28) 4 ≤ s.now d →
      rangeHolders s d x = [] → exec (.shootdownTimeout d sd) s = .next ((s.modDie d fun y => { y with
        pins := y.pins.filter fun p => !(spanShot x p.pasid p.va 1 && match p.owner with
          | .inl _ => false
          | .inr _ => true)
        shoots := y.shoots.map fun z => if z.id = sd then { z with timedOut := true } else z }).sendNoFibre d 0x1D x.va))) ∧
  (∀ (s : State) (m : Satus) (n : Nat), s.satus = [m] → m.sender ≠ 0xFF → m.targets = [n] → n ∈ liveSups s →
    (256 ≤ (s.core (supUnit n)).satus.length → exec (.satusDeliver 0) s = .next s) ∧
    ((s.core (supUnit n)).satus.length < 256 → ∃ t, exec (.satusDeliver 0) s = .next t ∧ t.satus = [] ∧
      (t.core (supUnit n)).satus = (s.core (supUnit n)).satus ++ [m.msg] ∧ t.mem = s.mem)) ∧
  (∀ (s : State) (m m2 : Satus), s.satus = [m, m2] → m.group = m2.group → m.group.isSome = true →
    exec (.satusDeliver 1) s = .next s) ∧
  ∀ (s : State) (u slot t d u2 slot2 : Nat) (g land : Machine.Group), s.group u slot = some g → g.st = .migrating d → g.task = some t →
    landingOn s g d = some (u2, slot2) → s.group u2 slot2 = some land → u2 ≠ u →
    (migrBusy s u slot = true → exec (.migrationCommit u slot) s = .next s) ∧
    (migrBusy s u slot = false → ∃ t2 h, exec (.migrationCommit u slot) s = .next t2 ∧
      t2.group u2 slot2 = some (landed s g land u2) ∧ t2.group u slot = some h ∧ h.st = .landing ∧ h.fibres = [] ∧
      h.vbase = g.vbase ∧ h.banks = g.banks ∧ t2.mem = s.mem)

/-- R281 to R283: the failure of dies. Rests on model choices of the log: 43 (what a die's failure does to requests in flight, and when)
and 73 (the heartbeats' phases, and the master's judgement). -/
def Obligations.DieLoss : Prop :=
  (∀ (s : State) (d : Nat), (s.die d).alive = true → dueLinks s d ≠ [] → ∃ t n, n ∈ dueLinks s d ∧ exec (.heartbeat d) s = .next t ∧
    t.mem = s.mem ∧ sget (t.die d).beats n = some (s.die d).time ∧ (∀ e, e ≠ d → e ≠ n → t.die e = s.die e) ∧
    t.die n = if (s.die d).badLinks.contains n then s.die n
      else { s.die n with lastHeard := sset (s.die n).lastHeard d (s.die n).time }) ∧
  (∀ (s : State) (d n : Nat), n ∈ dueLinks s d ↔
    n < 8 ∧ n ≠ d ∧ ∀ t, sget (s.die d).beats n = some t → t + 1000 ≤ (s.die d).time) ∧
  (∀ (s : State) (d : Nat), (s.die d).alive = false ∨ dueLinks s d = [] → exec (.heartbeat d) s = .next s) ∧
  (∀ (s : State) (d n : Nat),
    exec (.linkUncorrectableError d n) s = .next (suspect s d n) ∧ exec (.fatalErrorSignal d n) s =
      .next ((suspect s d n).modDie d fun x => { x with fatals := n :: x.fatals.filter (· != n) }) ∧
    (sgetD (s.die d).lastHeard n 0 + 20000 ≤ (s.die d).time → exec (.linkSilenceTimeout d n) s = .next (suspect s d n)) ∧
    ((s.die d).time < sgetD (s.die d).lastHeard n 0 + 20000 → exec (.linkSilenceTimeout d n) s = .next s) ∧
    (d ≠ n → n < 8 → (s.die d).alive = true → n ∈ ((suspect s d n).die d).suspects) ∧
    (∀ e, e ≠ d → (suspect s d n).die e = s.die e) ∧ (suspect s d n).mem = s.mem) ∧
  (∀ (s : State) (d n : Nat), (s.die d).alive = true → (s.die d).suspects.contains n = true → (s.die d).masterOf = s.master → n ≠ s.master →
    (s.die s.master).alive = true → (s.die n).judged = false → (s.die d).judged = false →
    (s.die d).badLinks.contains s.master = false → ∃ t, exec (.suspicionReport d n) s = .next t ∧
      (t.die (verdict s d n)).judged = true ∧ t.satus.length = s.satus.length + 1 ∧ t.mem = s.mem) ∧
  (∀ (s : State) (d n : Nat), (s.die d).judged = true ∨ (s.die n).judged = true → exec (.suspicionReport d n) s = .next s) ∧
  (∀ (s : State) (d n : Nat), verdict s d n = d ∨ verdict s d n = n) ∧
  (∀ (s : State) (d n : Nat), (s.die d).fatals.contains n = true ∨ (s.die n).alive = false ∨
    (s.die s.master).suspects.contains n = true → verdict s d n = n) ∧
  (∀ (s : State) (d n : Nat), (s.die d).fatals.contains n = false → (s.die n).alive = true →
    (s.die s.master).suspects.contains n = false → d ≠ s.master →
    (linksLost s n < linksLost s d → verdict s d n = d) ∧ (linksLost s d < linksLost s n → verdict s d n = n) ∧
    (linksLost s d = linksLost s n → verdict s d n = Nat.max d n)) ∧
  (∀ (s : State), masterSilent s = false → exec .masterSilenceTimeout s = .next s) ∧
  (∀ (s : State) (m : Nat), masterSilent s = true → ((List.range 8).find? fun m =>
      m != s.master && (s.die m).alive && (s.die m).started && !(s.die m).judged && hearsAll s m) = some m → ∃ t,
    exec .masterSilenceTimeout s = .next t ∧ t.master = m ∧ t.masterSince = s.nextTicket ∧ t.mem = s.mem ∧
    t.satus = s.satus ++ [{
      group := some 0, targets := groupMembers { s with master := m } 0, seq := sgetD s.groupSeq 0 0, sender := 0xFF,
                            msg := satusMsg (sgetD s.groupSeq 0 0) 0 0xFF (List.replicate 6 0 ++ leBytes 2 0x8011 ++ leBytes 1 m) }]) ∧
  (∀ (s : State) (d n : Nat) (m : BitVec 512), nextHard s d 0x8011 1 n = some m → ∃ t, exec (.masterReceive d n) s = .next t ∧
    (t.die d).masterOf = n ∧ (t.die d).hardIn = (s.die d).hardIn.drop 1 ∧ t.mem = s.mem) ∧
  (∀ (s : State) (d : Nat) (m : BitVec 512), nextHard s d 0x8010 1 d = some m → ∃ t, exec (.diefail d d) s = .next t ∧
    (t.die d).alive = false ∧ t.mem = s.mem) ∧
  (∀ (s : State) (d f : Nat) (m : BitVec 512), nextHard s d 0x8010 1 f = some m → d ≠ f →
    exec (.diefail d f) s = .next (survive d f ((popHard s d).modDie f fun x => { x with alive := false, judged := true }))) ∧
  (∀ (s : State) (d f : Nat) (x : Flight), dieOf x.u = d → paPkg x.pa = s.pkg → paDie x.pa = f →
    flightLost d f s x = dropFlight (failFlight s 0x16 x) x.id) ∧
  ∀ (s : State) (x : Flight) (p : Part) (n : Nat) (r : Return), x.parts = [p] → p.ret = some n → r ∈ (s.core x.u).returns → r.id = n →
    { r with st := .failed 0x16 } ∈ ((failFlight s 0x16 x).core x.u).returns

/-- R13 to R16, R308, R315: islands, partitions, clocks and supply. Rests on model choices of the log: 80 (what closed clamps and the
drain timeout do to groups and requests) and 82 (any FSTEP). -/
def Obligations.IslandsAndPower : Prop :=
  (∀ (s : State) (d k : Nat), k < 2 → (s.die d).alive = true → (islandState s d k).resetting = false →
    exec (.islandReset d k) s = .next (settleClimbs (dropIsland
      (let s1 := modIsland (islctlBits s d k 63 63 1) d k fun i => { i with resetting := true }
       if (islandState s d k).up then closeClamps s1 d k else s1) d k)) ∧
    ((islandState s d k).gated = false → exec (.islandPowerGate d k) s = .next (settleClimbs (dropIsland
      (modIsland (closeClamps (islctlBits s d k 62 62 1) d k) d k fun i => { i with gated := true }) d k)))) ∧
  (∀ (s : State) (d k : Nat), (islandState s d k).resetting = true → exec (.islandReset d k) s = .next s ∧
    exec (.islandPowerGate d k) s = .next s ∧ exec (.islandPowerUp d k) s = .next s) ∧
  (∀ (s : State) (d k : Nat), (islandState (closeClamps s d k) d k).up = false ∧
    (islandState (closeClamps s d k) d k).drainUntil = s.now d + 10000 ∧ (closeClamps s d k).mem = s.mem) ∧
  (∀ (s : State) (d k : Nat), k < 2 → (islandState s d k).up = false →
    (s.now d < (islandState s d k).drainUntil → exec (.clampDrainTimeout d k) s = .next s) ∧
    ((islandState s d k).drainUntil ≤ s.now d → let s1 := s.flights.foldl (cutFlight d k) s
      exec (.clampDrainTimeout d k) s = .next (cutTransfers (s1.cores.foldl (fun s c => cutCopies d k s c.1) s1) d k))) ∧
  (∀ (s : State) (d k : Nat) (f : Flight), crosses s d k f = true → f.origin = .fibre →
    cutFlight d k s f = failFlight (dropFlight s f.id) 0x14 f ∧ (cutFlight d k s f).mem = s.mem) ∧
  (∀ (s : State) (d k : Nat), k < 2 → (islandState s d k).resetting = true →
    (stillCrossing s d k = true → exec (.islandResetEnd d k) s = .next s) ∧
    (stillCrossing s d k = false →
      let s2 := modIsland (islctlBits (zeroIsland s d k) d k 63 63 0) d k fun i => { i with resetting := false, up := !(islandState s d k).gated }
      exec (.islandResetEnd d k) s = .next (if (islandState s d k).gated then s2 else bootGroup s2 d (2 * k)))) ∧
  (∀ (s : State) (d k : Nat), k < 2 → (islandState s d k).gated = true → (islandState s d k).resetting = false →
    stillCrossing s d k = false → ∃ t, exec (.islandPowerUp d k) s = .next t ∧ (islandState t d k).up = true ∧
      (islandState t d k).gated = false ∧ t.mem = s.mem ∧ ∀ u, onIsland d k u = true → (t.core u).slots = [] ∧ (t.core u).icache = []) ∧
  (∀ (s : State) (d k part : Nat), k < 2 → part < 16 →
    (queuedOn s d k = true ∨ residentOn s d k = true → exec (.partitionSet d k part) s = .next s) ∧
    (queuedOn s d k = false → residentOn s d k = false → ∃ t,
      exec (.partitionSet d k part) s = .next t ∧ partOf t d k = part ∧ t.mem = s.mem)) ∧
  (∀ (s : State) (d : Nat), d < 8 → (s.die d).alive = true → ∃ t, exec (.supplySag d) s = .next t ∧ (t.die d).sag = true ∧
    (t.die d).recovered = none ∧ (islandState t d 0).clk07 = true ∧ (islandState t d 1).clk07 = true ∧ clockRate t d 0 = 7 ∧
    t.mem = s.mem) ∧
  (∀ (s : State) (d : Nat), (s.die d).recovered = none → exec (.supplyRecovery d) s = .next s) ∧
  (∀ (s : State) (d : Nat), (s.die d).sag = true → (s.die d).recovered = none → ((supplyUp s d).die d).recovered = some (s.die d).time) ∧
  (∀ (s : State) (d r : Nat), (s.die d).sag = true → (s.die d).recovered = some r →
    (s.now d < r + 2000 → exec (.supplyRecovery d) s = .next s) ∧
    (r + 2000 ≤ s.now d → ∃ t, exec (.supplyRecovery d) s = .next t ∧ (t.die d).sag = false ∧
      (islandState t d 0).clk07 = false ∧ (islandState t d 1).clk07 = false ∧ t.mem = s.mem)) ∧
  ∀ (s : State) (d k n : Nat), d < 8 → k < 2 → n < 8 → ∃ t, exec (.clockSlowing d k n) s = .next t ∧
    bitsOf ((t.die d).num (0x6000E00000 + 8 * k) 8) 57 55 = n ∧ partOf t d k = partOf s d k ∧ t.mem = s.mem

/-- R310 to R313, R316, R317: boot, attestation, checkpoint and restore. Rests on model choices of the log: 81 (how steps fail and take their
alternates, and when a die joins) and 83 (the layout of an image and the status of a restore). -/
def Obligations.BootAndCheckpoint : Prop :=
  (∀ (s : State) (d : Nat) (pass : List Bool), d < 8 → (s.die d).alive = true → (s.die d).judged = false →
    (∀ c ∈ coresOf s d, c.2.slots = []) →
    let x := s.die d
    let s1 := s.setDie d { Die.reset with
                           time := x.time, clen := x.clen, stkp := x.stkp, capd := x.capFuse, capFuse := x.capFuse, step := x.step,
                           started := true, evq := x.evq, retired := x.retired, passed := x.passed, fuseKey := x.fuseKey, fuseRollback := x.fuseRollback,
                           imageA := x.imageA, imageB := x.imageB }
    let dead := (List.range 4).filter fun j => !pass.getD (8 + j) true
    exec (.dieStart d pass) s = .next (((List.range 8).map fun i => (pass.getD i true, i + 1)).foldl (bootStep dead d)
      { s1.mapCores (fun u => dieOf u == d) (fun c => { nonces := c.nonces }) with bootJoined := s.bootJoined &&& ~~~dieBit d })) ∧
  (∀ (s : State) (d : Nat) (pass : List Bool), (s.die d).judged = true → exec (.dieStart d pass) s = .next s) ∧
  (∀ (i : Nat), nextCode i 0 true = 0 ∧ (i ≠ 1 → i ≠ 6 → nextCode i 0 false = 2) ∧ nextCode 1 0 false = 3 ∧ nextCode 6 0 false = 3 ∧
    nextCode i 2 true = 1 ∧ nextCode i 2 false = 3 ∧ ∀ b, nextCode i 3 b = 3) ∧
  (∀ (s : State) (d i n : Nat), 1 ≤ i → i ≤ 8 → n < 4 → stepCode (putCode s d i n) d i = n ∧
    ∀ j, 1 ≤ j → j ≤ 8 → j ≠ i → stepCode (putCode s d i n) d j = stepCode s d j) ∧
  (∀ (s : State) (dead : List Nat) (d i : Nat) (b : Bool), (s.die d).started = true → let img := bootImage s d
    let pass := b && (i != 2 || imageAccepted (s.die d) img)
    let code := nextCode i (stepCode s d i) pass
    let t := stepEffect dead img (notePassed (putCode s d i code) d i (decide (code ≤ 1))) d i
    bootStep dead d s (b, i) = (if stepPassed t d i then t else hostEvent t (dieParts t d) 5 0 d)) ∧
  (∀ (x : Die) (i : Image), imageAccepted x i = true ↔ Config.falconVerifies i.key (Config.shake256 64 i.body) i.signature = true ∧
    Config.shake256 32 i.key = x.fuseKey ∧ x.fuseRollback ≤ i.version) ∧
  (∀ (s : State), s.master < 8 → s.bootJoined.getLsbD s.master = true → joins s s.master = true →
    ((∀ d, d < 8 → joins s d = true → s.bootJoined.getLsbD d = true) → exec .masterElection s = .next (judgeUnlinked s s.master)) ∧
    ((∃ d, d < 8 ∧ joins s d = true ∧ s.bootJoined.getLsbD d = false) → ∃ t, exec .masterElection s = .next t ∧
      t.master = s.master ∧ t.bootCount = s.bootCount + 1 ∧ (∀ d, d < 8 → t.bootJoined.getLsbD d = joins s d) ∧ t.mem = s.mem)) ∧
  (∀ (s : State) (m : Nat), (∀ d, d < 8 → (s.die d).alive = true → (s.die d).started = true →
    (s.die d).judged = true ∨ stepPassed s d 5 = true) → judgeUnlinked s m = s) ∧
  (∀ (s : State), (∀ d, d < 8 → joins s d = false) ∨ (s.bootJoined.getLsbD s.master = true ∧ joins s s.master = false) →
    exec .masterElection s = .next s) ∧
  (∀ (s : State) (m : Nat), m < 8 → joins s m = true → (∀ d, d < m → joins s d = false) →
    s.bootJoined.getLsbD s.master = false → ∃ t, exec .masterElection s = .next t ∧ t.master = m ∧
      t.bootCount = s.bootCount + 1 ∧ (∀ d, d < 8 → t.bootJoined.getLsbD d = joins s d) ∧ t.mem = s.mem) ∧
  (∀ (s : State) (pf : Nat) (a b : DWord) (nonce : BitVec 256), pf < 8 → stepPassed s pf 7 = true → (s.die s.master).alive = true → ∃ t bytes,
    exec (.quoteRequest pf a b nonce) s = .next t ∧ t.quotes = s.quotes ++ [(pf, bytes)] ∧
    t.hostWrites = s.hostWrites ++ [(0, b.toNat, bytes)] ∧ bytes.take 32 = leBytes 32 nonce.toNat ∧
    { t with quotes := s.quotes, hostWrites := s.hostWrites } = s) ∧
  (∀ (s : State), exec .checkpointHold s = .next { s with checkpoint := true, stopRaised := s.checkpoint && s.stopRaised }) ∧
  (∀ (s : State), (s.checkpoint = true → s.stopRaised = false → (∀ e ∈ s.launches, launchOpen s e = false) →
      exec .checkpointStopped s = .next (hostEvent { s with stopRaised := true } (allParts s) 7 0 s.master)) ∧
    (s.checkpoint = false ∨ s.stopRaised = true ∨ (∃ e ∈ s.launches, launchOpen s e = true) →
      exec .checkpointStopped s = .next s)) ∧
  (∀ (s : State), exec .checkpointRelease s = .next (s.heldStores.foldl (fun s e => watched s e.1 e.2.1 e.2.2)
    { s with checkpoint := false, stopRaised := false, heldStores := [] })) ∧
  (∀ (s : State) (pf pkg : Nat) (caps : List Word) (image : List (Nat × Byte)), pf < 8 →
    (pkg ≠ s.pkg ∨ caps.map diecapKey ≠ (List.range 8).map (fun d => diecapKey (diecapWord s d)) →
      exec (.restoreCommand pf pkg caps image) s = .next { s with restoreStatus := some 2 }) ∧
    (pkg = s.pkg → caps.map diecapKey = (List.range 8).map (fun d => diecapKey (diecapWord s d)) →
      exec (.restoreCommand pf pkg caps image) s = .next (image.foldl restoreByte { s with restoreStatus := some 0 }))) ∧
  ∀ (s : State) (e : Nat × Byte), Memory.wf s.mem = true → paPkg e.1 = s.pkg → plainPa e.1 = true → inDsmWindow e.1 = false → inControl e.1 = false →
    (∀ a, memGet (restoreByte s e).mem a = if a = e.1 then e.2 else memGet s.mem a) ∧ { restoreByte s e with mem := s.mem } = touchLine s e.1

/-- R4, R60, R61, R152, R155 to R157, R170, R171, R205, R251: register writes by the supervisor, the port and the scrubber. Rests on model
choices of the log: 38 (what pending ranges read, and who zeroes them), 44 (when a segment becomes zero-pending) and 97 (a register that
a soft error struck while it was empty). -/
def Obligations.RegisterWritesAndScrub : Prop :=
  (∀ (s : State) (d : Nat) (v : Word), (64 ≤ v.toNat % 8192 → v.toNat % 8192 ≤ 4096 → ∃ t, exec (.leasecfgWrite d v) s = .next t ∧
      leaseLen t d = v.toNat % 8192 ∧ { t with dies := s.dies } = s ∧ (∀ e, e ≠ d → t.die e = s.die e) ∧
      { t.die d with ctl := (s.die d).ctl } = s.die d) ∧
    (v.toNat % 8192 < 64 ∨ 4096 < v.toNat % 8192 → exec (.leasecfgWrite d v) s = .next s)) ∧
  (∀ (s : State) (d : Nat) (v : Word), ∃ t, exec (.svccapWrite d v) s = .next t ∧
    (sminSum s d ≤ v.toNat → { t with dies := s.dies } = s ∧ svccapOf t d = v.toNat) ∧
    (v.toNat < sminSum s d → t = hostEvent (putWord s d 0x6000500200 v.toNat)
      (servedParts (putWord s d 0x6000500200 v.toNat) d) 1 0 d)) ∧
  (∀ (s : State) (d seg : Nat) (v : Word), (128 ≤ seg → exec (.dsmOwnerWrite d seg v) s = .next s) ∧
    (seg < 128 → ∃ t, exec (.dsmOwnerWrite d seg v) s = .next t ∧ { t with dies := s.dies } = s ∧
      (t.die d).num (0x6000100000 + 4 * seg) 4 = v.toNat &&& 0x800000FF ∧
      (let old := (s.die d).num (0x6000100000 + 4 * seg) 4
       if v.toNat % 256 ≠ old % 256 ∨ (v.toNat.testBit 31 = true ∧ old.testBit 31 = false) then
         (seg * 32768, seg * 32768 + 32768) ∈ (t.die d).dsmPend ∧ ∀ a, memGet (t.die d).dsm a =
           if seg * 0x200000 ≤ a ∧ a < seg * 0x200000 + 0x200000 then 0 else memGet (s.die d).dsm a
       else (t.die d).dsm = (s.die d).dsm ∧ (t.die d).dsmPend = (s.die d).dsmPend))) ∧
  (∀ (s : State) (d off : Nat) (v : DWord) (n : Nat), (off = 0x6000E00000 ∨ off = 0x6000E00008 →
      exec (.registerWrite d off v n) s =
        .next (putWord s d off (putBits ((s.die d).word off).toNat 57 55 (bitsOf v.toNat 57 55)))) ∧
    (off < 0x6000000000 ∨ 0x6100000000 ≤ off ∨ 8 < n → off ≠ 0x6000E00000 → off ≠ 0x6000E00008 →
      exec (.registerWrite d off v n) s = .next s) ∧
    exec (.registerWrite d 0x6000500108 v 8) s = .next (putWord s d 0x6000500108 v.toNat)) ∧
  (∀ (s : State) (d off v : Nat), off % 8 = 0 → ((putWord s d off v).die d).word off = BitVec.ofNat 64 v ∧
    (∀ o, o / 8 ≠ off / 8 → ((putWord s d off v).die d).word o = (s.die d).word o) ∧ (∀ e, e ≠ d → (putWord s d off v).die e = s.die e) ∧
    { putWord s d off v with dies := s.dies } = s) ∧
  (∀ (f : Fibre) (id n : Nat), f.gate = none → granuleOf f id n = 32 * id + n / 8) ∧
  (∀ (s : State) (d : Nat), portCmd s d false = none → exec (.registerPortRead d) s = .next s) ∧
  (∀ (s : State) (d : Nat), portCmd s d true = none → exec (.registerPortWrite d) s = .next s) ∧
  (∀ (s : State) (d : Nat) (p : PortCmd) (g : Group) (f : Fibre), portCmd s d false = some p → p.cls = 0 → s.group p.u p.slot = some g →
    g.st ≠ .landing →
    sget g.fibres p.fibre = some f → ∃ t, exec (.registerPortRead d) s = .next t ∧ t.mem = s.mem ∧
    ((t.die d).word 0x6000500400).toNat = ((s.die d).word 0x6000500400).toNat % 2 ^ 63 ∧
    (p.reg < vecCount g f → (t.die d).word 0x6000500408 = (f.reg p.reg).val.setWidth 64 ∧
      ((t.die d).word 0x6000500410).toNat = (f.reg p.reg).st.code + (if g.drowsy.contains (granuleOf f p.fibre p.reg) then 4 else 0)) ∧
    (vecCount g f ≤ p.reg → (t.die d).word 0x6000500408 = 0 ∧ (t.die d).word 0x6000500410 = 8 ∧ (t.core p.u).dbgstat = 1)) ∧
  (∀ (s : State) (d : Nat) (p : PortCmd) (g : Group) (f : Fibre), portCmd s d true = some p → p.cls = 0 → s.group p.u p.slot = some g →
    g.st ≠ .landing →
    sget g.fibres p.fibre = some f → ∃ t, exec (.registerPortWrite d) s = .next t ∧ t.mem = s.mem ∧
    (p.reg < vecCount g f → t.fibre p.u p.slot p.fibre =
      some { f with regs := sset f.regs p.reg { val := ((s.die d).word 0x6000500408).setWidth 32, st := .full } }) ∧
    (vecCount g f ≤ p.reg → t.fibre p.u p.slot p.fibre = some f ∧ (t.die d).word 0x6000500410 = 8)) ∧
  (∀ (s : State) (d : Nat) (p : PortCmd) (w : Bool), portCmd s d w = some p → 4 ≤ p.cls ∨ (p.cls ≠ 3 ∧ portGroup s p.u p.slot = none) →
    exec (if w then .registerPortWrite d else .registerPortRead d) s = .next (portEnd s d p.u 0 false false true)) ∧
  (∀ (s : State) (u slot : Nat), portGroup s u slot = none ↔ s.group u slot = none ∨ ∃ g, s.group u slot = some g ∧ g.st = .landing) ∧
  (∀ (s : State) (d i n : Nat), 0 < n → 128 * (i + n) ≤ 4 * stackSize → d < 8 → rangeBusy s d i n = false →
    (∀ e ∈ (s.die d).horizon, inLines i n e.1 = true → e.2 + 4 < s.now d) → ∃ t, exec (.markScrubPending d i n) s = .next t ∧
    (∀ a, memGet t.mem a = if mkPa s.pkg d (128 * i) ≤ a ∧ a < mkPa s.pkg d (128 * i) + 128 * n then 0 else memGet s.mem a) ∧
    (t.die d).scrub = (s.die d).scrub ++ [(i, i + n)] ∧ (∀ l, ivMem (t.die d).hostScrub l =
      if inLines i n l then s.svcmode.getLsbD 3 else ivMem (s.die d).hostScrub l) ∧ (∀ e ∈ (t.die d).dirs, inLines i n e.1 = false) ∧
    (∀ c ∈ t.cores, dieOf c.1 = d → ∀ e ∈ c.2.l1, inLines i n e.1 = false) ∧
    ∀ c ∈ t.cores, (∀ e ∈ c.2.lcopies, keyInLines s d i n (128 * e.1) = false) ∧ ∀ e ∈ c.2.icache, keyInLines s d i n (64 * e.1) = false) ∧
  (∀ (s : State) (d i n : Nat), rangeBusy s d i n = true → exec (.markScrubPending d i n) s = .next s) ∧
  (∀ (s : State) (d : Nat), ownScrub (s.die d) = [] → exec (.scrubStep d) s = .next s) ∧
  (∀ (x : Die) (l : Nat), ivMem (ownScrub x) l = (ivMem x.scrub l && !ivMem x.hostScrub l)) ∧
  (∀ (s : State) (d line : Nat), (∃ e ∈ ownScrub (s.die d), e.1 = line) → (∀ e ∈ ownScrub (s.die d), line ≤ e.1) →
    ∃ t, exec (.scrubStep d) s = .next t ∧ (t.die d).scrub = ivRemove (s.die d).scrub line ∧ { t with mem := s.mem, dies := s.dies } = s ∧
    ∀ a, memGet t.mem a = if mkPa s.pkg d (128 * line) ≤ a ∧ a < mkPa s.pkg d (128 * line) + 128 then 0 else memGet s.mem a) ∧
  (∀ (s : State) (d line : Nat), ((s.die d).flips.contains line = false → exec (.patrolScrub d line) s = .next s) ∧
    ((s.die d).flips.contains line = true → exec (.patrolScrub d line) s = .next (s.modDie d fun x =>
      { x with flips := x.flips.filter (· != line), corrected := x.corrected + 1 }))) ∧
  (∀ (s : State) (u slot id r : Nat) (g : Group) (f : Fibre), s.group u slot = some g → sget g.fibres id = some f → r < vecCount g f → ∃ t,
    exec (.softError (.vreg u slot id r)) s = .next t ∧ t.mem = s.mem ∧
    t.fibre u slot id = some { f with regs := sset f.regs r { val := (f.reg r).val, st := .poisoned 0x1D, owed := (f.reg r).pending } } ∧
    ((f.reg r).st = .empty → (f.reg r).pending = true) ∧
    ∀ e x, e ≠ id → sget g.fibres e = some x → t.fibre u slot e = some x) ∧
  ∀ (s : State) (u slot n : Nat), ((∀ m ∈ (s.core u).running ++ (s.core u).transfers, m.slot = slot → m.readsTile n = false) →
      ∃ t, exec (.softError (.tile u slot n)) s = .next t ∧ { t with dies := s.dies } = s) ∧
    ∀ m, ((s.core u).running ++ (s.core u).transfers).find? (fun m => m.slot == slot && m.readsTile n) = some m → ∃ t,
      exec (.softError (.tile u slot n)) s = .next t ∧ t.mem = s.mem ∧ ∀ x ∈ (t.core u).running ++ (t.core u).transfers, x.id ≠ m.id

/-- R16, R173, R293, R295, R296, R300, R303, R373: the receiving side of the fabric. Rests on model choices of the log: 76 (packet fields)
and 125 (what comes for a clamped island). -/
def Obligations.FabricReceives : Prop :=
  (∀ (s : State) (p : Packet), p.dstPkg ≠ s.pkg ∨ 8 ≤ p.dstDie ∨ fabricHere s p.dstDie = false →
    exec (.fabricWriteReceive p) s = .next s ∧ exec (.ridgeReceive p) s = .next s ∧ exec (.atomicPacketReceive p) s = .next s ∧
    exec (.loadPacketReceive p) s = .next s) ∧
  (∀ (s : State) (p : Packet), p.dstPkg = s.pkg → p.dstDie < 8 → fabricHere s p.dstDie = true → 11 ≤ p.type →
    exec (.fabricWriteReceive p) s = .next (dropPacket s p.dstDie)) ∧
  (∀ (s : State) (p : Packet), p.dstPkg = s.pkg → p.dstDie < 8 → fabricHere s p.dstDie = true →
    p.tagOk = false ∨ courseMatches s p = false →
    (p.type = 0 → exec (.fabricWriteReceive p) s = .next (dropPacket s p.dstDie)) ∧
    (p.type = 1 ∨ p.type = 2 → exec (.ridgeReceive p) s = .next (dropPacket s p.dstDie)) ∧
    (p.type = 3 → exec (.atomicPacketReceive p) s = .next (dropPacket s p.dstDie)) ∧
    (p.type = 5 → exec (.loadPacketReceive p) s = .next (dropPacket s p.dstDie))) ∧
  (∀ (s : State) (d : Nat), { dropPacket s d with dies := s.dies } = s ∧ (∀ e, e ≠ d → (dropPacket s d).die e = s.die e) ∧
    (dropPacket s d).die d = { s.die d with fabErrors := (s.die d).fabErrors + 1 }) ∧
  (∀ (s : State) (p : Packet), packetHere s p = true → courseMatches s p = true →
    (p.type = 0 → payloadOk s p = true →
      (epochPlace s p = .closed → exec (.fabricWriteReceive p) s = .next s) ∧
      (epochPlace s p = .outside → exec (.fabricWriteReceive p) s = .next (dropPacket s p.dstDie)) ∧
      (∀ k, epochPlace s p = .open_ k → landClosed s p.addr = true → exec (.fabricWriteReceive p) s = .next s) ∧
      ∀ k, epochPlace s p = .open_ k → p.gen < 4 → landClosed s p.addr = false →
        let T := completionTime s p.dstDie p.addr
        let e := courseEntry s p.dstDie p.course
        ∃ t, exec (.fabricWriteReceive p) s = .next t ∧ (let e2 := courseEntry t p.dstDie p.course
          courseGen e2 k = Nat.max (courseGen e k) p.gen ∧ courseLow e2 = courseLow e ∧
          (s.now p.dstDie < T ∨ pendingAt s p.dstDie (lineIx p.addr) ≠ [] → t.mem = s.mem ∧
            courseCnt e2 k = if p.gen ≤ courseGen e k then courseCnt e k else 0) ∧
          (T ≤ s.now p.dstDie → pendingAt s p.dstDie (lineIx p.addr) = [] →
            (courseCnt e2 k = if p.gen < courseGen e k then courseCnt e k
              else if p.gen = courseGen e k then (courseCnt e k + 1) % 2 ^ 24 else 1) ∧
            (p.gen = courseGen e k → courseT (courseSt t p.dstDie p.course) k = Nat.max (courseT (courseSt s p.dstDie p.course) k) T) ∧
            (Memory.wf s.mem = true → (p.data.map (·.1)).Nodup →
              (∀ b ∈ p.data, memGet t.mem (p.addr + b.1) = b.2) ∧
              ∀ a, (∀ b ∈ p.data, a ≠ p.addr + b.1) → memGet t.mem a = memGet s.mem a)))) ∧
    (p.type = 1 ∨ p.type = 2 → p.type = 2 ∨ payloadOk s p = true →
      (epochPlace s p = .closed → exec (.ridgeReceive p) s = .next s) ∧
      (epochPlace s p = .outside → exec (.ridgeReceive p) s = .next (dropPacket s p.dstDie)) ∧
      ∀ k, epochPlace s p = .open_ k → p.gen < 4 → let g := courseGen (courseEntry s p.dstDie p.course) k
        (heldOf s p.dstDie p.course p.epoch = none → ∃ t, exec (.ridgeReceive p) s = .next t ∧ { t with dies := s.dies } = s ∧
          heldOf t p.dstDie p.course p.epoch =
            some { epoch := p.epoch, gen := p.gen, count := p.count, pkt := p, since := s.now p.dstDie }) ∧
        ∀ y, heldOf s p.dstDie p.course p.epoch = some y →
          (y.gen < p.gen → ∃ t, exec (.ridgeReceive p) s = .next t ∧ { t with dies := s.dies } = s ∧
            heldOf t p.dstDie p.course p.epoch = some { y with
              gen := p.gen, count := p.count, pkt := p, since := if g < p.gen then s.now p.dstDie else y.since }) ∧
          (p.gen ≤ y.gen → p.gen ≤ g → exec (.ridgeReceive p) s = .next s))) ∧
  (∀ (s : State) (d c : Nat), let e := courseEntry s d c
    (heldOf s d c (courseLow e) = none → exec (.ridgeApply d c) s = .next s) ∧
    ∀ h, heldOf s d c (courseLow e) = some h →
      (countMet s d c 0 h = false ∨ courseBroken e = true ∨ s.now d ≤ (courseSt s d c).t0 + 4 ∨ flagPending s d c h.epoch = true ∨
        (h.pkt.type ≠ 2 ∧ landClosed s h.pkt.addr = true) → exec (.ridgeApply d c) s = .next s) ∧
      (countMet s d c 0 h = true → courseValid e = true → courseBroken e = false → (courseSt s d c).t0 + 4 < s.now d →
        flagPending s d c h.epoch = false → h.pkt.type = 2 ∨ (payloadOk s h.pkt = true ∧ h.pkt.dstDie = d ∧ landClosed s h.pkt.addr = false ∧
          completionTime s d h.pkt.addr ≤ s.now d ∧ pendingAt s d (lineIx h.pkt.addr) = []) → ∃ t,
        exec (.ridgeApply d c) s = .next t ∧ courseLow (courseEntry t d c) = (courseLow e + 1) % 256 ∧
        courseCnt (courseEntry t d c) 0 = courseCnt e 1 ∧ courseGen (courseEntry t d c) 0 = courseGen e 1 ∧
        courseCnt (courseEntry t d c) 1 = 0 ∧ heldOf t d c (courseLow e) = none ∧ (h.pkt.type = 2 → t.mem = s.mem ∧ t.cores = s.cores) ∧
        (h.pkt.type ≠ 2 → Memory.wf s.mem = true → (h.pkt.data.map (·.1)).Nodup →
          (∀ b ∈ h.pkt.data, memGet t.mem (h.pkt.addr + b.1) = b.2) ∧
          ∀ a, (∀ b ∈ h.pkt.data, a ≠ h.pkt.addr + b.1) → memGet t.mem a = memGet s.mem a)) ∧
      (countMet s d c 0 h = true → courseValid e = true → courseBroken e = false → (courseSt s d c).t0 + 4 < s.now d →
        flagPending s d c h.epoch = false → h.pkt.type ≠ 2 → landClosed s h.pkt.addr = false →
        s.now d < completionTime s d h.pkt.addr ∨ pendingAt s d (lineIx h.pkt.addr) ≠ [] → ∃ t,
        exec (.ridgeApply d c) s = .next t ∧ t.mem = s.mem ∧ courseEntry t d c = e)) ∧
  (∀ (s : State) (p : Packet), packetHere s p = true → courseMatches s p = true → payloadOk s p = true →
    (p.type = 3 → p.size = 4 ∨ p.size = 8 →
      (∀ v, (p.atag, v) ∈ (courseSt s p.dstDie p.course).tags → ∃ t a, exec (.atomicPacketReceive p) s = .next t ∧
        t.fabricOut = s.fabricOut ++ [a] ∧ a.type = 4 ∧ a.atag = p.atag ∧ a.ty = 0 ∧ t.mem = s.mem) ∧
      ((∀ e ∈ (courseSt s p.dstDie p.course).tags, e.1 ≠ p.atag) → atomicPending s p = false → landClosed s p.addr = true → ∃ t a,
        exec (.atomicPacketReceive p) s = .next t ∧ t.mem = s.mem ∧ t.fabricOut = s.fabricOut ++ [a] ∧ a.type = 4 ∧ a.ty = 2) ∧
      ((∀ e ∈ (courseSt s p.dstDie p.course).tags, e.1 ≠ p.atag) → isPoisoned s p.addr = false → landClosed s p.addr = false →
        (atomicPending s p = true → exec (.atomicPacketReceive p) s = .next s) ∧
        (atomicPending s p = false → s.now p.dstDie < completionTime s p.dstDie p.addr ∨ pendingAt s p.dstDie (lineIx p.addr) ≠ [] → ∃ t,
          exec (.atomicPacketReceive p) s = .next t ∧ t.mem = s.mem ∧ t.fabricOut = s.fabricOut) ∧
        (atomicPending s p = false → completionTime s p.dstDie p.addr ≤ s.now p.dstDie → pendingAt s p.dstDie (lineIx p.addr) = [] →
          Memory.wf s.mem = true → ∃ t a, exec (.atomicPacketReceive p) s = .next t ∧
          (let old := ofLe (memRead s.mem p.addr p.size)
           memRead t.mem p.addr p.size =
             leBytes p.size (atomicNew (p.op % 8) p.ty p.size old (packetNum p 0 p.size) (packetNum p p.size p.size)) ∧
           (p.op < 8 → packetNum a 0 p.size = old) ∧ (p.atag, BitVec.ofNat 64 old) ∈ (courseSt t p.dstDie p.course).tags) ∧
          (∀ x, x < p.addr ∨ p.addr + p.size ≤ x → memGet t.mem x = memGet s.mem x) ∧ t.fabricOut = s.fabricOut ++ [a] ∧
          a.type = 4 ∧ a.atag = p.atag ∧ a.dstPkg = p.srcPkg ∧ a.dstDie = p.srcDie ∧ a.course = p.course)) ∧
      ((∀ e ∈ (courseSt s p.dstDie p.course).tags, e.1 ≠ p.atag) → isPoisoned s p.addr = true →
        landClosed s p.addr = false → atomicPending s p = false → completionTime s p.dstDie p.addr ≤ s.now p.dstDie → pendingAt s p.dstDie (lineIx p.addr) = [] → ∃ t a,
        exec (.atomicPacketReceive p) s = .next t ∧ t.mem = s.mem ∧ t.fabricOut = s.fabricOut ++ [a] ∧ a.type = 4 ∧ a.ty = 1)) ∧
    (p.type = 5 → p.size ≤ 128 → ∃ t a, exec (.loadPacketReceive p) s = .next t ∧ t.mem = s.mem ∧ t.fabricOut = s.fabricOut ++ [a] ∧
      a.type = 6 ∧ a.atag = p.atag ∧ a.dstPkg = p.srcPkg ∧ a.dstDie = p.srcDie ∧
      (landClosed s p.addr = true → a.ty = 2 ∧ a.data = []) ∧
      (landClosed s p.addr = false → isPoisoned s p.addr = true → a.ty = 1 ∧ a.data = []) ∧
      (landClosed s p.addr = false → isPoisoned s p.addr = false → a.ty = 0 ∧ a.data = payload (paBytes s p.addr p.size)))) ∧
  ∀ (s : State) (p : Packet),
    ((p.type ≠ 4 ∧ p.type ≠ 6) ∨ p.dstPkg ≠ s.pkg → exec (.atomicResponseReceive p) s = .next s) ∧
    (p.type = 4 ∨ p.type = 6 → p.dstPkg = s.pkg → fabricHere s p.dstDie = true →
      (p.tagOk = false → exec (.atomicResponseReceive p) s = .next (dropPacket s p.dstDie)) ∧
      (p.tagOk = true → answered s p = none → exec (.atomicResponseReceive p) s = .next s) ∧
      (∀ f, p.tagOk = true → answered s p = some f → p.keyId ≠ requestKey s f (requestSlot s f p) p →
        exec (.atomicResponseReceive p) s = .next (dropPacket s p.dstDie)) ∧
      ∀ f, p.tagOk = true → answered s p = some f → p.keyId = requestKey s f (requestSlot s f p) p → ∃ t, exec (.atomicResponseReceive p) s = .next t ∧ t.mem = s.mem ∧
        t.flights = s.flights.filter (fun x => x.id != f.id) ∧
        ∀ q n r, f.parts = [q] → q.ret = some n → r ∈ (s.core f.u).returns → r.id = n →
          (p.ty = 1 → { r with st := .failed 0x1D } ∈ (t.core f.u).returns) ∧
          (p.ty = 2 → { r with st := .failed 0x14 } ∈ (t.core f.u).returns) ∧
          (p.ty = 0 → r.scaleFlight = none → q.decode < 33 → (∀ k, r.st ≠ .failed k) → ∃ x ∈ (t.core f.u).returns, x.id = n ∧ x.st = .ready))

/-- R286, R289, R291, R292, R298, R299, R300, R302, R303: slots and courses, and what is done about lost packets. Rests on model choices
of the log: 45 (a write that sets VALID) and 76 (packet fields). -/
def Obligations.CoursesAndLoss : Prop :=
  (∀ (s : State) (u n : Nat) (v : BitVec 128), isSupCore u = true ∨ 64 ≤ n → exec (.slotMapWrite u n v) s = .next s) ∧
  (∀ (s : State) (u n : Nat) (v : BitVec 128), isSupCore u = false → n < 64 → ∃ t, exec (.slotMapWrite u n v) s = .next t ∧
    t.mem = s.mem ∧ bitsOf (slotLo t u n) 63 27 = bitsOf v.toNat 63 27 ∧ (slotSt t u n).buf = [] ∧
    slotBroken t u n = (slotBroken s u n && !v.toNat.testBit 63) ∧
    (v.toNat.testBit 63 = true → slotEpoch t u n = 0 ∧ slotWcnt t u n = 0 ∧ slotConf t u n = 0) ∧
    (v.toNat.testBit 63 = false → slotHi t u n = slotHi s u n)) ∧
  (∀ (s : State) (d c : Nat) (v : BitVec 256), (4096 ≤ c → exec (.courseTableWrite d c v) s = .next s) ∧
    (c < 4096 → ∃ t, exec (.courseTableWrite d c v) s = .next t ∧ { t with dies := s.dies } = s ∧
      bitsOf (courseEntry t d c) 63 25 = bitsOf v.toNat 63 25 ∧
      (v.toNat.testBit 63 = true → bitsOf (courseEntry t d c) 255 64 = 0 ∧ courseSt t d c = {}) ∧
      (v.toNat.testBit 63 = false → bitsOf (courseEntry t d c) 255 64 = bitsOf (courseEntry s d c) 255 64 ∧
        courseSt t d c = courseSt s d c))) ∧
  (∀ (s : State) (p : Packet), p.type = 9 → p.data ≠ [] → packetHere s p = true → exec (.courseAllocation p) s =
      .next (s.modDie p.dstDie fun x => { x with allocated := x.allocated ++ [(p.srcPkg, p.srcDie, packetNum p 0 2)] })) ∧
  (∀ (s : State) (p : Packet), p.type = 9 → p.data = [] → packetHere s p = true → (s.svcmode.getLsbD 2 = true →
      exec (.courseAllocation p) s = .next s) ∧
    (s.svcmode.getLsbD 2 = false → (∀ c, c < 4096 → courseValid (courseEntry s p.dstDie c) = true) → ∃ t a,
      exec (.courseAllocation p) s = .next t ∧ t.fabricOut = s.fabricOut ++ [a] ∧ packetNum a 0 2 = 0xFFFF ∧ t.dies = s.dies) ∧
    (∀ c, s.svcmode.getLsbD 2 = false → c < 4096 → courseValid (courseEntry s p.dstDie c) = false →
      (∀ k, k < c → courseValid (courseEntry s p.dstDie k) = true) → ∃ t a, exec (.courseAllocation p) s = .next t ∧
      t.fabricOut = s.fabricOut ++ [a] ∧ packetNum a 0 2 = c ∧ courseSt t p.dstDie c = {} ∧
      courseEntry t p.dstDie c = freshCourse p.op p.srcPkg p.srcDie p.srcCore p.keyId ∧
      ∀ k, k < 4096 → k ≠ c → courseEntry t p.dstDie k = courseEntry s p.dstDie k)) ∧
  (∀ (s : State) (p : Packet), p.type = 10 → packetHere s p = true →
    (courseOwned s p = false → exec (.courseClose p) s = .next (dropPacket s p.dstDie)) ∧
    (courseOwned s p = true → ∃ t, exec (.courseClose p) s = .next t ∧ courseValid (courseEntry t p.dstDie p.course) = false ∧ bitsOf (courseEntry t p.dstDie p.course) 147 146 = 0 ∧
      courseSt t p.dstDie p.course = {} ∧ { t with dies := s.dies } = s)) ∧
  (∀ (s : State) (u n b : Nat) (w : Bool), ∃ t, exec (.linkCreditReturn u n b w) s = .next t ∧ { t with cores := s.cores } = s ∧
    (slotSt t u n).linkUsed = (slotSt s u n).linkUsed - (if w then 0 else b) ∧
    (slotSt t u n).cwndUsed = (slotSt s u n).cwndUsed - (if w then b else 0) ∧ ∀ k, k ≠ n → slotSt t u k = slotSt s u k) ∧
  (∀ (s : State) (p : Packet) (u n : Nat) (b : EpochBuf) (r : Packet), p.type = 7 → p.dstPkg = s.pkg →
    fabricHere s p.dstDie = true → p.tagOk = true →
    senderSlot s p = some (u, n) → (slotSt s u n).buf.find? (fun b => b.epoch == p.epoch) = some b → b.ridge = some r →
    (p.keyId ≠ r.keyId → exec (.resendRequestReceive p) s = .next (dropPacket s p.dstDie)) ∧
    (p.gen ≤ b.gen → p.keyId = r.keyId → exec (.resendRequestReceive p) s = .next s) ∧
    (b.gen < p.gen → p.keyId = r.keyId → exec (.resendRequestReceive p) s = .next (replay s u n b p.gen))) ∧
  (∀ (s : State) (p : Packet) (u n : Nat), p.type = 7 → p.dstPkg = s.pkg → fabricHere s p.dstDie = true → p.tagOk = true →
    senderSlot s p = some (u, n) → (∀ b ∈ (slotSt s u n).buf, b.epoch = p.epoch → b.ridge = none) →
    exec (.resendRequestReceive p) s = .next (if p.keyId = keyOf s u (slotDomain s u n) then s else dropPacket s p.dstDie)) ∧
  (∀ (s : State) (p : Packet), p.type ≠ 7 ∨ p.dstPkg ≠ s.pkg ∨ (p.tagOk = true ∧ senderSlot s p = none) →
    exec (.resendRequestReceive p) s = .next s) ∧
  (∀ (s : State) (u n : Nat) (b : EpochBuf) (r : Packet) (g : Nat), b.ridge = some r → b ∈ (slotSt s u n).buf →
    (s.die (dieOf u)).fabricUp = true →
    (replay s u n b g).fabricOut = s.fabricOut ++ (b.writes ++ [r]).map (fun p => { p with gen := g }) ∧
    (replay s u n b g).mem = s.mem ∧ { b with gen := g, closedAt := s.now (dieOf u) } ∈ (slotSt (replay s u n b g) u n).buf) ∧
  (∀ (s : State) (u n : Nat),
    ((∀ b ∈ (slotSt s u n).buf, b.ridge ≠ none → s.now (dieOf u) < b.closedAt + tconfNs s (dieOf u)) →
      exec (.confirmationTimeout u n) s = .next s) ∧
    ∀ b bs, (slotSt s u n).buf = b :: bs → b.ridge ≠ none → b.closedAt + tconfNs s (dieOf u) ≤ s.now (dieOf u) →
      (b.gen < 3 → exec (.confirmationTimeout u n) s = .next (replay s u n b (b.gen + 1))) ∧
      (3 ≤ b.gen → exec (.confirmationTimeout u n) s = .next (failSlot s u n))) ∧
  (∀ (s : State) (u n : Nat), slotBroken (failSlot s u n) u n = true ∧ (slotSt (failSlot s u n) u n).buf = [] ∧
    (slotSt (failSlot s u n) u n).atomics = [] ∧ (slotSt (failSlot s u n) u n).cause = 5 ∧ (failSlot s u n).mem = s.mem) ∧
  (∀ (s : State) (d c : Nat) (h : HeldRidge), let e := courseEntry s d c
    heldOf s d c (courseLow e) = some h → countMet s d c 0 h = false → courseValid e = true → courseBroken e = false →
    (courseGen e 0 = 3 → (courseSt s d c).raised0 + tlostNs s d ≤ s.now d → ∃ t, exec (.lostPacketTimeout d c) s = .next t ∧ courseBroken (courseEntry t d c) = true ∧
      (courseSt t d c).held = [] ∧ (t.die d).records.length = (s.die d).records.length + 1 ∧ t.mem = s.mem) ∧
    (courseGen e 0 < 3 → h.since + tlostNs s d ≤ s.now d → (s.die d).fabricUp = true → d < 8 → ∃ t a, exec (.lostPacketTimeout d c) s = .next t ∧ courseGen (courseEntry t d c) 0 = courseGen e 0 + 1 ∧
      courseCnt (courseEntry t d c) 0 = 0 ∧ t.fabricOut = s.fabricOut ++ [a] ∧ a.type = 7 ∧ a.gen = courseGen e 0 + 1 ∧
      a.epoch = h.epoch ∧ a.course = c ∧ a.dstPkg = bitsOf e 54 45 ∧ a.dstDie = bitsOf e 44 42 ∧ t.mem = s.mem)) ∧
  (∀ (s : State) (d c : Nat), (courseSt s d c).held = [] → (∀ k, k < 2 → courseGen (courseEntry s d c) k ≠ 3) → exec (.lostPacketTimeout d c) s = .next s) ∧
  (∀ (s : State) (u n g : Nat) (a : AtomOut), (slotSt s u n).atomics.find? (fun a => a.tag == g) = some a →
    (s.now (dieOf u) < a.since + tlostNs s (dieOf u) → exec (.atomicResendTimeout u n g) s = .next s) ∧
    (a.since + tlostNs s (dieOf u) ≤ s.now (dieOf u) →
      (3 ≤ a.resends → exec (.atomicResendTimeout u n g) s = .next (failSlot s u n)) ∧
      (a.resends < 3 → (s.die (dieOf u)).fabricUp = true → ∃ t, exec (.atomicResendTimeout u n g) s = .next t ∧ t.fabricOut = s.fabricOut ++ [a.pkt] ∧ t.mem = s.mem ∧
        { a with since := s.now (dieOf u), resends := a.resends + 1 } ∈ (slotSt t u n).atomics))) ∧
  (∀ (s : State) (d : Nat), ((s.die d).alive = false ∨ s.now d < (s.die d).lastDigest + digperNs s d →
      exec (.digestPeriod d) s = .next s) ∧
    ((s.die d).alive = true → (s.die d).fabricUp = true → (s.die d).lastDigest + digperNs s d ≤ s.now d → ∃ t, exec (.digestPeriod d) s = .next t ∧
      (t.die d).lastDigest = s.now d ∧ t.mem = s.mem ∧ t.fabricOut.length = s.fabricOut.length + (sendersOf s d).length)) ∧
  ∀ (s : State) (u n low : Nat) (m : Bool), (slotValid s u n = false ∨ slotBroken s u n = true →
      ∀ b, exec (.digestReceive u n low b m) s = .next s) ∧
    (slotValid s u n = true → slotBroken s u n = false → fabricHere s (dieOf u) = true → exec (.digestReceive u n low true m) s = .next (failSlot s u n) ∧
      ∃ t, exec (.digestReceive u n low false m) s = .next t ∧ t.mem = s.mem ∧
        (slotSt t u n).cwnd = (if m then Nat.max 65536 ((slotSt s u n).cwnd / 2) else Nat.min 1048576 ((slotSt s u n).cwnd + 4096)) ∧
        ((low + 256 - slotConf s u n) % 256 ≤ (slotEpoch s u n + 256 - slotConf s u n) % 256 →
          slotConf t u n = low % 256 ∧ slotEpoch t u n = slotEpoch s u n ∧ slotWcnt t u n = slotWcnt s u n ∧
          ∀ b ∈ (slotSt t u n).buf, (low + 256 - slotConf s u n) % 256 ≤ (b.epoch + 256 - slotConf s u n) % 256))
end

