-- ==== Sys2Proof/Laws/Encode.lean ====
section
/-! SUPPORT. The laws of the encoder: each field of an encoded instruction reads back, format by format. -/

namespace Sys2Proof

theorem field_low {m k n lo : Nat} (a : BitVec m) (b : BitVec k) (h : m + k = 32) (hl : lo + n ≤ k) :
    field lo n ((a ++ b).cast h) = b.extractLsb' lo n := by
  apply BitVec.eq_of_getLsbD_eq
  intro i hi
  simp only [field, BitVec.getLsbD_extractLsb', BitVec.getLsbD_cast, BitVec.getLsbD_append]
  rw [if_pos (by omega)]

theorem field_high {m k n lo : Nat} (a : BitVec m) (b : BitVec k) (h : m + k = 32) (hl : k ≤ lo) :
    field lo n ((a ++ b).cast h) = a.extractLsb' (lo - k) n := by
  apply BitVec.eq_of_getLsbD_eq
  intro i hi
  simp only [field, BitVec.getLsbD_extractLsb', BitVec.getLsbD_cast, BitVec.getLsbD_append]
  rw [if_neg (by omega), show lo - k + i = lo + i - k by omega]

theorem extract_low {m k n lo : Nat} (a : BitVec m) (b : BitVec k) (hl : lo + n ≤ k) :
    (a ++ b).extractLsb' lo n = b.extractLsb' lo n := by
  apply BitVec.eq_of_getLsbD_eq
  intro i hi
  simp only [BitVec.getLsbD_extractLsb', BitVec.getLsbD_append]
  rw [if_pos (by omega)]

theorem extract_high {m k n lo : Nat} (a : BitVec m) (b : BitVec k) (hl : k ≤ lo) :
    (a ++ b).extractLsb' lo n = a.extractLsb' (lo - k) n := by
  apply BitVec.eq_of_getLsbD_eq
  intro i hi
  simp only [BitVec.getLsbD_extractLsb', BitVec.getLsbD_append]
  rw [if_neg (by omega), show lo - k + i = lo + i - k by omega]

theorem extract_all {n : Nat} (a : BitVec n) : a.extractLsb' 0 n = a := by
  apply BitVec.eq_of_getLsbD_eq
  intro i hi
  simp [hi]

theorem bit_low {m k lo : Nat} (a : BitVec m) (b : BitVec k) (hl : lo < k) : (a ++ b).getLsbD lo = b.getLsbD lo := by
  rw [BitVec.getLsbD_append, if_pos hl]

theorem bit_high {m k lo : Nat} (a : BitVec m) (b : BitVec k) (hl : k ≤ lo) : (a ++ b).getLsbD lo = a.getLsbD (lo - k) := by
  rw [BitVec.getLsbD_append, if_neg (by omega)]

theorem bit_ofBool (b : Bool) : (BitVec.ofBool b).getLsbD 0 = b := by cases b <;> rfl

/-- The first parcel of an encoding. -/
def headWord (h : BitVec 17) (g : Guard) (opc len : Nat) : Word := h ++ headBits g opc len

theorem head_len (h : BitVec 17) (g : Guard) (opc len : Nat) : field 0 2 (headWord h g opc len) = BitVec.ofNat 2 len := by
  unfold headWord headBits field
  rw [extract_low _ _ (by decide), extract_low _ _ (by decide), extract_all]

theorem head_opc (h : BitVec 17) (g : Guard) (opc len : Nat) : field 2 9 (headWord h g opc len) = BitVec.ofNat 9 opc := by
  unfold headWord headBits field
  rw [extract_low _ _ (by decide), extract_high _ _ (by decide), extract_low _ _ (by decide), extract_all]

theorem head_guard (h : BitVec 17) (g : Guard) (opc len : Nat) : guardOf (headWord h g opc len) = g := by
  unfold guardOf headWord headBits guardBits field
  rw [extract_low _ _ (by decide), extract_high _ _ (by decide), extract_high _ _ (by decide), extract_low _ _ (by decide),
    extract_all, bit_low _ _ (by decide), bit_high _ _ (by decide), bit_high _ _ (by decide), bit_high _ _ (by decide), bit_ofBool]

theorem head_field (h : BitVec 17) (g : Guard) (opc len lo n : Nat) (hl : 15 ≤ lo) :
    field lo n (headWord h g opc len) = h.extractLsb' (lo - 15) n := by
  unfold headWord field
  rw [extract_high _ _ hl]

theorem srcBits_parts (s : Src) : (srcBits s).extractLsb' 0 8 = s.r ∧ (srcBits s).getLsbD 8 = s.w := by
  unfold srcBits
  rw [extract_low _ _ (by decide), extract_all, bit_high _ _ (by decide), bit_ofBool]
  exact ⟨rfl, rfl⟩

theorem head_srcA (s : Src) (d : BitVec 8) (g : Guard) (opc len : Nat) :
    srcOf 23 (headWord (srcBits s ++ d) g opc len) = s ∧ field 15 8 (headWord (srcBits s ++ d) g opc len) = d := by
  constructor
  · unfold srcOf
    rw [head_field _ _ _ _ _ _ (by decide), extract_high _ _ (by decide)]
    unfold headWord
    rw [bit_high _ _ (by decide), bit_high _ _ (by decide)]
    have := srcBits_parts s
    rw [this.1, this.2]
  · rw [head_field _ _ _ _ _ _ (by decide), extract_low _ _ (by decide), extract_all]

/-- A source field in the low nine bits of a parcel. -/
theorem srcOf_low {m : Nat} (a : BitVec m) (s : Src) (x : Word) (h : m + 9 = 32) (hx : x = (a ++ srcBits s).cast h) :
    srcOf 0 x = s := by
  subst hx
  unfold srcOf
  rw [field_low _ _ _ (by decide), BitVec.getLsbD_cast, bit_low _ _ (by decide)]
  have := srcBits_parts s
  rw [this.1, this.2]

/-- The format that a set lists for operands. -/
def Operands.fits : Operands → FormatSet → Bool
  | .n _, .n | .u _, .u | .p _, .p | .t _, .ti | .t _, .i | .m _, .mml | .j _, .j | .s _, .s | .x _, .x | .g _, .g => true
  | _, _ => false

/-- The second parcel of formats T and I. -/
theorem second_t (o : OpT) :
    srcOf 0 (Operands.second (.t o)) = o.b ∧ field 9 9 (Operands.second (.t o)) = o.c ∧
      field 18 4 (Operands.second (.t o)) = o.ty ∧ field 22 3 (Operands.second (.t o)) = o.rnd ∧
      (Operands.second (.t o)).getLsbD 25 = o.sat ∧ (Operands.second (.t o)).getLsbD 26 = o.ua ∧
      (Operands.second (.t o)).getLsbD 27 = o.ub ∧ (Operands.second (.t o)).getLsbD 28 = o.uc ∧
      (Operands.second (.t o)).getLsbD 29 = o.du ∧ field 30 2 (Operands.second (.t o)) = o.rsv := by
  obtain ⟨g, d, a, ⟨bw, br⟩, cc, ty, rnd, sat, ua, ub, uc, du, rsv, lit⟩ := o
  simp only [Operands.second, srcOf, Src.mk.injEq]
  unfold field srcBits
  refine ⟨⟨?_, ?_⟩, ?_, ?_, ?_, ?_, ?_, ?_, ?_, ?_, ?_⟩ <;>
    repeat first
      | with_reducible exact extract_all _
      | with_reducible exact bit_ofBool _
      | rw [extract_low _ _ (by decide)]
      | rw [extract_high _ _ (by decide)]
      | rw [bit_low _ _ (by decide)]
      | rw [bit_high _ _ (by decide)]

/-- The second parcel of formats M and ML. -/
theorem second_m (o : OpM) :
    srcOf 0 (Operands.second (.m o)) = o.b ∧ field 9 4 (Operands.second (.m o)) = o.ty ∧
      (Operands.second (.m o)).getLsbD 13 = o.raw ∧ field 14 2 (Operands.second (.m o)) = o.space ∧
      field 16 3 (Operands.second (.m o)) = o.scope ∧ field 19 2 (Operands.second (.m o)) = o.ord ∧
      field 21 3 (Operands.second (.m o)) = o.size ∧ (Operands.second (.m o)).getLsbD 24 = o.ua ∧
      (Operands.second (.m o)).getLsbD 25 = o.ub ∧ field 26 6 (Operands.second (.m o)) = o.off := by
  obtain ⟨g, d, a, ⟨bw, br⟩, ty, raw, space, scope, ord, size, ua, ub, off, off32⟩ := o
  simp only [Operands.second, srcOf, Src.mk.injEq]
  unfold field srcBits
  refine ⟨⟨?_, ?_⟩, ?_, ?_, ?_, ?_, ?_, ?_, ?_, ?_, ?_⟩ <;>
    repeat first
      | with_reducible exact extract_all _
      | with_reducible exact bit_ofBool _
      | rw [extract_low _ _ (by decide)]
      | rw [extract_high _ _ (by decide)]
      | rw [bit_low _ _ (by decide)]
      | rw [bit_high _ _ (by decide)]

theorem third_lit (l : Option (BitVec 32)) :
    (if ((if l.isSome then 2 else 1 : Nat) == 2) = true then some (l.getD 0) else none) = l := by
  cases l <;> rfl

theorem operandsOf_ti (f : FormatSet) (o : OpT) (opc : Nat) (h : f = .ti ∨ f = .i) :
    operandsOf f (Operands.len (.t o)) (headWord (Operands.head (.t o)) o.g opc (Operands.len (.t o))) (Operands.second (.t o))
      (Operands.third (.t o)) = .t o := by
  obtain ⟨h1, h2, h3, h4, h5, h6, h7, h8, h9, h10⟩ := second_t o
  have e : ∀ x y : Word, operandsOf f (Operands.len (.t o)) x y (Operands.third (.t o)) = .t
      { g := guardOf x, d := field 15 8 x, a := srcOf 23 x, b := srcOf 0 y, c := field 9 9 y, ty := field 18 4 y,
        rnd := field 22 3 y, sat := y.getLsbD 25, ua := y.getLsbD 26, ub := y.getLsbD 27, uc := y.getLsbD 28,
        du := y.getLsbD 29, rsv := field 30 2 y, lit := o.lit } := by
    intro x y
    rcases h with rfl | rfl <;> simp only [operandsOf, Operands.len, Operands.third] <;> congr 2 <;> exact third_lit o.lit
  rw [e, h1, h2, h3, h4, h5, h6, h7, h8, h9, h10]
  simp only [Operands.head, head_guard, (head_srcA _ _ _ _ _).1, (head_srcA _ _ _ _ _).2]

theorem operandsOf_mml (o : OpM) (opc : Nat) :
    operandsOf .mml (Operands.len (.m o)) (headWord (Operands.head (.m o)) o.g opc (Operands.len (.m o))) (Operands.second (.m o))
      (Operands.third (.m o)) = .m o := by
  obtain ⟨h1, h2, h3, h4, h5, h6, h7, h8, h9, h10⟩ := second_m o
  have e : ∀ x y : Word, operandsOf .mml (Operands.len (.m o)) x y (Operands.third (.m o)) = .m
      { g := guardOf x, d := field 15 8 x, a := srcOf 23 x, b := srcOf 0 y, ty := field 9 4 y, raw := y.getLsbD 13,
        space := field 14 2 y, scope := field 16 3 y, ord := field 19 2 y, size := field 21 3 y, ua := y.getLsbD 24,
        ub := y.getLsbD 25, off := field 26 6 y, off32 := o.off32 } := by
    intro x y
    simp only [operandsOf, Operands.len, Operands.third]
    congr 2
    exact third_lit o.off32
  rw [e, h1, h2, h3, h4, h5, h6, h7, h8, h9, h10]
  simp only [Operands.head, head_guard, (head_srcA _ _ _ _ _).1, (head_srcA _ _ _ _ _).2]

/-- The layouts agree: operands read back from their own parcels. -/
theorem operandsOf_parcels (f : FormatSet) (ops : Operands) (opc : Nat) (h : ops.fits f = true) :
    operandsOf f ops.len (headWord ops.head ops.guard opc ops.len) ops.second ops.third = ops := by
  cases ops with
  | n o =>
    cases f <;> simp only [Operands.fits, Bool.false_eq_true] at h
    simp only [operandsOf, Operands.head, head_guard, Operands.guard, head_field _ _ _ _ 15 17 (by decide), Nat.sub_self, extract_all]
  | u o =>
    cases f <;> simp only [Operands.fits, Bool.false_eq_true] at h
    simp only [operandsOf, Operands.head, head_guard, Operands.guard, (head_srcA _ _ _ _ _).1, (head_srcA _ _ _ _ _).2]
  | p o =>
    cases f <;> simp only [Operands.fits, Bool.false_eq_true] at h
    obtain ⟨g, pd, pa, pb, lut⟩ := o
    simp only [operandsOf, Operands.head, head_guard, Operands.guard, Operands.p.injEq, OpP.mk.injEq, true_and]
    rw [head_field _ _ _ _ 15 3 (by decide), head_field _ _ _ _ 18 3 (by decide), head_field _ _ _ _ 21 3 (by decide),
      head_field _ _ _ _ 24 8 (by decide)]
    refine ⟨?_, ?_, ?_, ?_⟩ <;>
    repeat first
      | with_reducible exact extract_all _
      | with_reducible exact bit_ofBool _
      | rw [extract_low _ _ (by decide)]
      | rw [extract_high _ _ (by decide)]
  | g o =>
    cases f <;> simp only [Operands.fits, Bool.false_eq_true] at h
    obtain ⟨g, base, rsv, mask⟩ := o
    simp only [operandsOf, Operands.head, head_guard, Operands.guard, Operands.second, Operands.g.injEq, OpG.mk.injEq, true_and,
      and_true]
    rw [head_field _ _ _ _ 15 8 (by decide), head_field _ _ _ _ 23 9 (by decide)]
    refine ⟨?_, ?_⟩ <;>
    repeat first
      | with_reducible exact extract_all _
      | with_reducible exact bit_ofBool _
      | rw [extract_low _ _ (by decide)]
      | rw [extract_high _ _ (by decide)]
  | j o =>
    cases f <;> simp only [Operands.fits, Bool.false_eq_true] at h
    simp only [operandsOf, Operands.head, head_guard, Operands.guard, Operands.second, (head_srcA _ _ _ _ _).1,
      (head_srcA _ _ _ _ _).2]
  | s o =>
    cases f <;> simp only [Operands.fits, Bool.false_eq_true] at h
    obtain ⟨g, d, a, csrn, du, ua, rsv⟩ := o
    simp only [operandsOf, Operands.head, head_guard, Operands.guard, Operands.second, (head_srcA _ _ _ _ _).1,
      (head_srcA _ _ _ _ _).2, Operands.s.injEq, OpS.mk.injEq, true_and]
    unfold field
    refine ⟨?_, ?_, ?_, ?_⟩ <;>
    repeat first
      | with_reducible exact extract_all _
      | with_reducible exact bit_ofBool _
      | rw [extract_low _ _ (by decide)]
      | rw [extract_high _ _ (by decide)]
      | rw [bit_low _ _ (by decide)]
      | rw [bit_high _ _ (by decide)]
  | x o =>
    cases f <;> simp only [Operands.fits, Bool.false_eq_true] at h
    obtain ⟨g, cv, t1, t2, ac, rsv1, fa, fb, md, ⟨bw, br⟩, ub, rsv2⟩ := o
    simp only [operandsOf, Operands.head, head_guard, Operands.guard, Operands.second, srcOf, Operands.x.injEq, OpX.mk.injEq,
      Src.mk.injEq, true_and]
    rw [head_field _ _ _ _ 15 4 (by decide), head_field _ _ _ _ 19 4 (by decide), head_field _ _ _ _ 23 4 (by decide),
      head_field _ _ _ _ 27 3 (by decide), head_field _ _ _ _ 30 2 (by decide)]
    unfold field srcBits
    refine ⟨?_, ?_, ?_, ?_, ?_, ?_, ?_, ?_, ⟨?_, ?_⟩, ?_, ?_⟩ <;>
    repeat first
      | with_reducible exact extract_all _
      | with_reducible exact bit_ofBool _
      | rw [extract_low _ _ (by decide)]
      | rw [extract_high _ _ (by decide)]
      | rw [bit_low _ _ (by decide)]
      | rw [bit_high _ _ (by decide)]
  | t o =>
    cases f <;> simp only [Operands.fits, Bool.false_eq_true] at h
    · exact operandsOf_ti .ti o opc (.inl rfl)
    · exact operandsOf_ti .i o opc (.inr rfl)
  | m o =>
    cases f <;> simp only [Operands.fits, Bool.false_eq_true] at h
    exact operandsOf_mml o opc

end Sys2Proof
end

