-- ==== Sys2Proof/Laws/Memory.lean ====
section
/-! SUPPORT. The laws of memory: a read after a write, the bytes a write leaves alone, and the canonical form that every write
keeps. -/

namespace Sys2Proof.Machine

/-- A byte below every listed address is blank. -/
theorem memGet_below {m : List Host.Cell} {lo a : Nat} (h : Memory.wfFrom lo m = true) (ha : a < lo) :
    memGet m a = blankByte := by
  induction m generalizing lo with
  | nil => rfl
  | cons e t ih =>
    obtain ⟨j, b⟩ := e
    simp only [Memory.wfFrom, Bool.and_eq_true, decide_eq_true_eq] at h
    have hj : j ≠ a := by omega
    simp only [memGet, if_neg hj]
    exact ih h.2 (by omega)

theorem Memory.wfFrom_mono {m : List Host.Cell} {lo lo' : Nat} (h : Memory.wfFrom lo m = true) (hl : lo' ≤ lo) :
    Memory.wfFrom lo' m = true := by
  cases m with
  | nil => rfl
  | cons e t =>
    obtain ⟨j, b⟩ := e
    simp only [Memory.wfFrom, Bool.and_eq_true, decide_eq_true_eq] at h ⊢
    exact ⟨⟨by omega, h.1.2⟩, h.2⟩

theorem memGet_memSet_ne (m : List Host.Cell) {a x : Nat} (b : Byte) (h : x ≠ a) : memGet (memSet m a b) x = memGet m x := by
  induction m with
  | nil => by_cases hb : b = blankByte <;> simp [memSet, memGet, hb, Ne.symm h]
  | cons e t ih =>
    obtain ⟨j, c⟩ := e
    by_cases h1 : j = a
    · subst h1; by_cases hb : b = blankByte <;> simp [memSet, memGet, hb, Ne.symm h]
    · by_cases h2 : a < j
      · by_cases hb : b = blankByte <;> simp [memSet, memGet, h1, h2, hb, Ne.symm h]
      · simp [memSet, memGet, h1, h2, ih]

theorem memGet_memSet_self {m : List Host.Cell} {lo a : Nat} (b : Byte) (h : Memory.wfFrom lo m = true) :
    memGet (memSet m a b) a = b := by
  induction m generalizing lo with
  | nil => by_cases hb : b = blankByte <;> simp [memSet, memGet, hb]
  | cons e t ih =>
    obtain ⟨j, c⟩ := e
    simp only [Memory.wfFrom, Bool.and_eq_true, decide_eq_true_eq] at h
    by_cases h1 : j = a
    · subst h1
      by_cases hb : b = blankByte
      · simp [memSet, hb, memGet_below h.2 (Nat.lt_succ_self j)]
      · simp [memSet, memGet, hb]
    · by_cases h2 : a < j
      · by_cases hb : b = blankByte
        · have hw : memGet t a = blankByte := memGet_below h.2 (Nat.lt_succ_of_lt h2)
          simp [memSet, memGet, h1, h2, hb, hw]
        · simp [memSet, memGet, h1, h2, hb]
      · simp only [memSet, if_neg h1, if_neg h2, memGet]
        exact ih h.2

theorem memSet_wfFrom {m : List Host.Cell} {lo a : Nat} (b : Byte) (h : Memory.wfFrom lo m = true) (ha : lo ≤ a) :
    Memory.wfFrom lo (memSet m a b) = true := by
  induction m generalizing lo with
  | nil => by_cases hb : b = blankByte <;> simp [memSet, Memory.wfFrom, hb, ha]
  | cons e t ih =>
    obtain ⟨j, c⟩ := e
    simp only [Memory.wfFrom, Bool.and_eq_true, decide_eq_true_eq] at h
    by_cases h1 : j = a
    · subst h1
      by_cases hb : b = blankByte
      · simpa [memSet, hb] using Memory.wfFrom_mono h.2 (by omega)
      · simp [memSet, Memory.wfFrom, hb, ha, h.2]
    · by_cases h2 : a < j
      · by_cases hb : b = blankByte
        · simp [memSet, Memory.wfFrom, h1, h2, hb, h.1.1, h.1.2, h.2]
        · simp [memSet, Memory.wfFrom, h1, h2, hb, ha, h.1.2, h.2, Nat.succ_le_of_lt h2]
      · have hw := ih h.2 (by omega)
        simp [memSet, Memory.wfFrom, h1, h2, h.1.1, h.1.2, hw]

/-- Storing one byte keeps the canonical form. -/
theorem memSet_wf {m : List Host.Cell} (a : Nat) (b : Byte) (h : Memory.wf m = true) : Memory.wf (memSet m a b) = true :=
  memSet_wfFrom b h (Nat.zero_le a)

/-- Storing bytes keeps the canonical form. -/
theorem memWrite_wf {m : List Host.Cell} (a : Nat) (bs : List Byte) (h : Memory.wf m = true) :
    Memory.wf (memWrite m a bs) = true := by
  induction bs generalizing m a with
  | nil => exact h
  | cons b t ih => exact ih (a + 1) (memSet_wf a b h)

/-- A store leaves every byte outside its own alone. -/
theorem memGet_memWrite_outside (m : List Host.Cell) (a x : Nat) (bs : List Byte) (h : x < a ∨ a + bs.length ≤ x) :
    memGet (memWrite m a bs) x = memGet m x := by
  induction bs generalizing m a with
  | nil => rfl
  | cons b t ih =>
    simp only [List.length_cons] at h
    rw [memWrite, ih _ _ (by omega), memGet_memSet_ne m b (by omega)]

/-- A read after a store of the same bytes. -/
theorem memGet_memWrite_inside {m : List Host.Cell} {a : Nat} (bs : List Byte) (h : Memory.wf m = true) (k : Nat)
    (hk : k < bs.length) : memGet (memWrite m a bs) (a + k) = bs[k] := by
  induction bs generalizing m a k with
  | nil => simp at hk
  | cons b t ih =>
    cases k with
    | zero =>
      rw [memWrite, memGet_memWrite_outside _ _ _ _ (by omega)]
      simpa using memGet_memSet_self b h
    | succ k =>
      have hk' : k < t.length := by simpa using hk
      have := ih (memSet_wf a b h) (a := a + 1) k hk'
      simpa [memWrite, Nat.add_comm, Nat.add_left_comm] using this

theorem memRead_length (m : List Host.Cell) (a n : Nat) : (memRead m a n).length = n := by
  induction n generalizing a with
  | zero => rfl
  | succ n ih => simp [memRead, ih]

/-- Reading back the bytes a store has put down. -/
theorem memRead_memWrite {m : List Host.Cell} (a : Nat) (bs : List Byte) (h : Memory.wf m = true) :
    memRead (memWrite m a bs) a bs.length = bs := by
  have key : ∀ (n k : Nat) (_ : k + n = bs.length), memRead (memWrite m a bs) (a + k) n = bs.drop k := by
    intro n
    induction n with
    | zero => intro k hk; simp [memRead, List.drop_of_length_le (by omega : bs.length ≤ k)]
    | succ n ih =>
      intro k hk
      have hk' : k < bs.length := by omega
      rw [memRead, memGet_memWrite_inside bs h k hk', Nat.add_assoc, ih (k + 1) (by omega), List.drop_eq_getElem_cons hk']
  simpa using key bs.length 0 (by omega)

end Sys2Proof.Machine
end

