-- ==== Sys2Proof/Laws/Table.lean ====
section
/-! SUPPORT. The laws of the sparse tables: reading after a write, after a change and after a removal. -/

namespace Sys2Proof.Machine

variable {α : Type}

theorem sget_sset_self (m : SMap α) (k : Nat) (v : α) : sget (sset m k v) k = some v := by
  induction m with
  | nil => simp [sset, sget]
  | cons e t ih =>
    obtain ⟨j, w⟩ := e
    by_cases h : j = k
    · simp [sset, sget, h]
    · by_cases h2 : k < j <;> simp [sset, sget, h, h2, ih]

theorem sget_sset_ne (m : SMap α) {k j : Nat} (v : α) (h : j ≠ k) : sget (sset m k v) j = sget m j := by
  induction m with
  | nil => simp [sset, sget, Ne.symm h]
  | cons e t ih =>
    obtain ⟨i, w⟩ := e
    by_cases h1 : i = k
    · subst h1; simp [sset, sget, Ne.symm h]
    · by_cases h2 : k < i <;> simp [sset, sget, h1, h2, ih, Ne.symm h]

theorem sget_sset (m : SMap α) (k j : Nat) (v : α) : sget (sset m k v) j = if j = k then some v else sget m j := by
  by_cases h : j = k
  · subst h; simp [sget_sset_self]
  · simp [h, sget_sset_ne m v h]

@[simp] theorem sgetD_sset_self (m : SMap α) (k : Nat) (v d : α) : sgetD (sset m k v) k d = v := by
  simp [sgetD, sget_sset_self]

theorem sgetD_sset_ne (m : SMap α) {k j : Nat} (v d : α) (h : j ≠ k) : sgetD (sset m k v) j d = sgetD m j d := by
  simp [sgetD, sget_sset_ne m v h]

/-- Writing one key twice leaves the second value. -/
@[simp] theorem sset_sset (m : SMap α) (k : Nat) (v w : α) : sset (sset m k v) k w = sset m k w := by
  induction m with
  | nil => simp [sset]
  | cons e t ih =>
    obtain ⟨j, x⟩ := e
    by_cases h : j = k
    · simp [sset, h]
    · by_cases h2 : k < j <;> simp [sset, h, h2, ih]

/-- Writing back what a listed key holds changes nothing. -/
theorem sset_sget (m : SMap α) (k : Nat) (v : α) (h : ∀ j w, (j, w) ∈ m → k < j → False) (hv : sget m k = some v) :
    sset m k v = m := by
  induction m with
  | nil => simp [sget] at hv
  | cons e t ih =>
    obtain ⟨j, x⟩ := e
    by_cases hj : j = k
    · simp [sget, hj] at hv; simp [sset, hj, hv]
    · have h2 : ¬ k < j := fun hk => h j x (by simp) hk
      simp only [sget, if_neg hj] at hv
      simp [sset, hj, h2, ih (fun a w ha => h a w (by simp [ha])) hv]

@[simp] theorem sget_smod_self (m : SMap α) (k : Nat) (f : α → α) : sget (smod m k f) k = (sget m k).map f := by
  induction m with
  | nil => rfl
  | cons e t ih =>
    obtain ⟨j, x⟩ := e
    by_cases h : j = k
    · simp [smod, sget, h]
    · simpa [smod, sget, h] using ih

theorem sget_smod_ne (m : SMap α) {k j : Nat} (f : α → α) (h : j ≠ k) : sget (smod m k f) j = sget m j := by
  induction m with
  | nil => rfl
  | cons e t ih =>
    obtain ⟨i, x⟩ := e
    by_cases h1 : i = k
    · subst h1; simpa [smod, sget, Ne.symm h] using ih
    · by_cases h2 : i = j
      · subst h2; simp [smod, sget, h1]
      · simpa [smod, sget, h1, h2] using ih

@[simp] theorem smod_smod (m : SMap α) (k : Nat) (f g : α → α) : smod (smod m k f) k g = smod m k fun x => g (f x) := by
  induction m with
  | nil => rfl
  | cons e t ih =>
    obtain ⟨j, x⟩ := e
    by_cases h : j = k
    · simpa [smod, h] using ih
    · simpa [smod, h] using ih

theorem smod_congr (m : SMap α) (k : Nat) {f g : α → α} (h : ∀ x, (k, x) ∈ m → f x = g x) : smod m k f = smod m k g := by
  induction m with
  | nil => rfl
  | cons e t ih =>
    obtain ⟨j, x⟩ := e
    have it := ih fun y hy => h y (by simp [hy])
    by_cases hj : j = k
    · subst hj; simpa [smod, h x (by simp)] using it
    · simpa [smod, hj] using it

/-- A change that changes no entry. -/
theorem smod_same (m : SMap α) (k : Nat) {f : α → α} (h : ∀ x, f x = x) : smod m k f = m := by
  induction m with
  | nil => rfl
  | cons e t ih =>
    simp only [smod, List.map_cons, h] at ih ⊢
    rw [ih]
    split <;> rfl

/-- A listed key of a table whose entries are changed in place. -/
theorem sget_map (m : SMap α) (k : Nat) (f : Nat → α → α) :
    sget (m.map fun e => (e.1, f e.1 e.2)) k = (sget m k).map (f k) := by
  induction m with
  | nil => rfl
  | cons e t ih =>
    obtain ⟨j, x⟩ := e
    by_cases h : j = k
    · simp [sget, h]
    · simpa [sget, h] using ih

theorem sget_sdel_self (m : SMap α) (k : Nat) : sget (sdel m k) k = none := by
  induction m with
  | nil => rfl
  | cons e t ih =>
    obtain ⟨j, x⟩ := e
    by_cases h : j = k
    · simpa [sdel, h] using ih
    · simpa [sdel, h, sget] using ih

theorem sget_sdel_ne (m : SMap α) {k j : Nat} (h : j ≠ k) : sget (sdel m k) j = sget m j := by
  induction m with
  | nil => rfl
  | cons e t ih =>
    obtain ⟨i, x⟩ := e
    by_cases h1 : i = k
    · subst h1; simpa [sdel, sget, Ne.symm h] using ih
    · by_cases h2 : i = j
      · subst h2; simp [sdel, sget, h1]
      · simpa [sdel, sget, h1, h2] using ih

end Sys2Proof.Machine
end

