-- ==== Sys2Proof/Laws/State.lean ====
section
/-! SUPPORT. What each update of the state changes: one lemma for each field it leaves alone, and what a read of the updated part gives. -/

namespace Sys2Proof.Machine

variable (s : State)

/-! ### setDie -/

@[simp] theorem State.setDie_pkg (d : Nat) (x : Die) : (s.setDie d x).pkg = s.pkg := rfl
@[simp] theorem State.setDie_mem (d : Nat) (x : Die) : (s.setDie d x).mem = s.mem := rfl
@[simp] theorem State.setDie_cores (d : Nat) (x : Die) : (s.setDie d x).cores = s.cores := rfl
@[simp] theorem State.setDie_tasks (d : Nat) (x : Die) : (s.setDie d x).tasks = s.tasks := rfl
@[simp] theorem State.setDie_nextTask (d : Nat) (x : Die) : (s.setDie d x).nextTask = s.nextTask := rfl
@[simp] theorem State.setDie_launches (d : Nat) (x : Die) : (s.setDie d x).launches = s.launches := rfl
@[simp] theorem State.setDie_nextLaunch (d : Nat) (x : Die) : (s.setDie d x).nextLaunch = s.nextLaunch := rfl
@[simp] theorem State.setDie_heldStores (d : Nat) (x : Die) : (s.setDie d x).heldStores = s.heldStores := rfl
@[simp] theorem State.setDie_checkpoint (d : Nat) (x : Die) : (s.setDie d x).checkpoint = s.checkpoint := rfl
@[simp] theorem State.setDie_stopRaised (d : Nat) (x : Die) : (s.setDie d x).stopRaised = s.stopRaised := rfl
@[simp] theorem State.setDie_hostRead (d : Nat) (x : Die) : (s.setDie d x).hostRead = s.hostRead := rfl
@[simp] theorem State.setDie_rack (d : Nat) (x : Die) : (s.setDie d x).rack = s.rack := rfl
@[simp] theorem State.setDie_restoreStatus (d : Nat) (x : Die) : (s.setDie d x).restoreStatus = s.restoreStatus := rfl
@[simp] theorem State.setDie_flights (d : Nat) (x : Die) : (s.setDie d x).flights = s.flights := rfl
@[simp] theorem State.setDie_nextId (d : Nat) (x : Die) : (s.setDie d x).nextId = s.nextId := rfl
@[simp] theorem State.setDie_master (d : Nat) (x : Die) : (s.setDie d x).master = s.master := rfl
@[simp] theorem State.setDie_nextTicket (d : Nat) (x : Die) : (s.setDie d x).nextTicket = s.nextTicket := rfl
@[simp] theorem State.setDie_masterSince (d : Nat) (x : Die) : (s.setDie d x).masterSince = s.masterSince := rfl
@[simp] theorem State.setDie_svcmode (d : Nat) (x : Die) : (s.setDie d x).svcmode = s.svcmode := rfl
@[simp] theorem State.setDie_satus (d : Nat) (x : Die) : (s.setDie d x).satus = s.satus := rfl
@[simp] theorem State.setDie_groupSeq (d : Nat) (x : Die) : (s.setDie d x).groupSeq = s.groupSeq := rfl
@[simp] theorem State.setDie_headers (d : Nat) (x : Die) : (s.setDie d x).headers = s.headers := rfl
@[simp] theorem State.setDie_fabricOut (d : Nat) (x : Die) : (s.setDie d x).fabricOut = s.fabricOut := rfl
@[simp] theorem State.setDie_hostEvents (d : Nat) (x : Die) : (s.setDie d x).hostEvents = s.hostEvents := rfl
@[simp] theorem State.setDie_hostSeq (d : Nat) (x : Die) : (s.setDie d x).hostSeq = s.hostSeq := rfl
@[simp] theorem State.setDie_bootCount (d : Nat) (x : Die) : (s.setDie d x).bootCount = s.bootCount := rfl
@[simp] theorem State.setDie_bootJoined (d : Nat) (x : Die) : (s.setDie d x).bootJoined = s.bootJoined := rfl
@[simp] theorem State.setDie_bootCodes (d : Nat) (x : Die) : (s.setDie d x).bootCodes = s.bootCodes := rfl
@[simp] theorem State.setDie_quotes (d : Nat) (x : Die) : (s.setDie d x).quotes = s.quotes := rfl
@[simp] theorem State.setDie_msix (d : Nat) (x : Die) : (s.setDie d x).msix = s.msix := rfl
@[simp] theorem State.setDie_hostWrites (d : Nat) (x : Die) : (s.setDie d x).hostWrites = s.hostWrites := rfl
@[simp] theorem State.setDie_cur (d : Nat) (x : Die) : (s.setDie d x).cur = s.cur := rfl
@[simp] theorem State.setDie_turn (d : Nat) (x : Die) : (s.setDie d x).turn = s.turn := rfl
@[simp] theorem State.setDie_schedule (d : Nat) (x : Die) : (s.setDie d x).schedule = s.schedule := rfl
@[simp] theorem State.setDie_freeCount (d : Nat) (x : Die) : (s.setDie d x).freeCount = s.freeCount := rfl

/-! ### modDie -/

@[simp] theorem State.modDie_pkg (d : Nat) (f : Die → Die) : (s.modDie d f).pkg = s.pkg := rfl
@[simp] theorem State.modDie_mem (d : Nat) (f : Die → Die) : (s.modDie d f).mem = s.mem := rfl
@[simp] theorem State.modDie_cores (d : Nat) (f : Die → Die) : (s.modDie d f).cores = s.cores := rfl
@[simp] theorem State.modDie_tasks (d : Nat) (f : Die → Die) : (s.modDie d f).tasks = s.tasks := rfl
@[simp] theorem State.modDie_nextTask (d : Nat) (f : Die → Die) : (s.modDie d f).nextTask = s.nextTask := rfl
@[simp] theorem State.modDie_launches (d : Nat) (f : Die → Die) : (s.modDie d f).launches = s.launches := rfl
@[simp] theorem State.modDie_nextLaunch (d : Nat) (f : Die → Die) : (s.modDie d f).nextLaunch = s.nextLaunch := rfl
@[simp] theorem State.modDie_heldStores (d : Nat) (f : Die → Die) : (s.modDie d f).heldStores = s.heldStores := rfl
@[simp] theorem State.modDie_checkpoint (d : Nat) (f : Die → Die) : (s.modDie d f).checkpoint = s.checkpoint := rfl
@[simp] theorem State.modDie_stopRaised (d : Nat) (f : Die → Die) : (s.modDie d f).stopRaised = s.stopRaised := rfl
@[simp] theorem State.modDie_hostRead (d : Nat) (f : Die → Die) : (s.modDie d f).hostRead = s.hostRead := rfl
@[simp] theorem State.modDie_rack (d : Nat) (f : Die → Die) : (s.modDie d f).rack = s.rack := rfl
@[simp] theorem State.modDie_restoreStatus (d : Nat) (f : Die → Die) : (s.modDie d f).restoreStatus = s.restoreStatus := rfl
@[simp] theorem State.modDie_flights (d : Nat) (f : Die → Die) : (s.modDie d f).flights = s.flights := rfl
@[simp] theorem State.modDie_nextId (d : Nat) (f : Die → Die) : (s.modDie d f).nextId = s.nextId := rfl
@[simp] theorem State.modDie_master (d : Nat) (f : Die → Die) : (s.modDie d f).master = s.master := rfl
@[simp] theorem State.modDie_nextTicket (d : Nat) (f : Die → Die) : (s.modDie d f).nextTicket = s.nextTicket := rfl
@[simp] theorem State.modDie_masterSince (d : Nat) (f : Die → Die) : (s.modDie d f).masterSince = s.masterSince := rfl
@[simp] theorem State.modDie_svcmode (d : Nat) (f : Die → Die) : (s.modDie d f).svcmode = s.svcmode := rfl
@[simp] theorem State.modDie_satus (d : Nat) (f : Die → Die) : (s.modDie d f).satus = s.satus := rfl
@[simp] theorem State.modDie_groupSeq (d : Nat) (f : Die → Die) : (s.modDie d f).groupSeq = s.groupSeq := rfl
@[simp] theorem State.modDie_headers (d : Nat) (f : Die → Die) : (s.modDie d f).headers = s.headers := rfl
@[simp] theorem State.modDie_fabricOut (d : Nat) (f : Die → Die) : (s.modDie d f).fabricOut = s.fabricOut := rfl
@[simp] theorem State.modDie_hostEvents (d : Nat) (f : Die → Die) : (s.modDie d f).hostEvents = s.hostEvents := rfl
@[simp] theorem State.modDie_hostSeq (d : Nat) (f : Die → Die) : (s.modDie d f).hostSeq = s.hostSeq := rfl
@[simp] theorem State.modDie_bootCount (d : Nat) (f : Die → Die) : (s.modDie d f).bootCount = s.bootCount := rfl
@[simp] theorem State.modDie_bootJoined (d : Nat) (f : Die → Die) : (s.modDie d f).bootJoined = s.bootJoined := rfl
@[simp] theorem State.modDie_bootCodes (d : Nat) (f : Die → Die) : (s.modDie d f).bootCodes = s.bootCodes := rfl
@[simp] theorem State.modDie_quotes (d : Nat) (f : Die → Die) : (s.modDie d f).quotes = s.quotes := rfl
@[simp] theorem State.modDie_msix (d : Nat) (f : Die → Die) : (s.modDie d f).msix = s.msix := rfl
@[simp] theorem State.modDie_hostWrites (d : Nat) (f : Die → Die) : (s.modDie d f).hostWrites = s.hostWrites := rfl
@[simp] theorem State.modDie_cur (d : Nat) (f : Die → Die) : (s.modDie d f).cur = s.cur := rfl
@[simp] theorem State.modDie_turn (d : Nat) (f : Die → Die) : (s.modDie d f).turn = s.turn := rfl
@[simp] theorem State.modDie_schedule (d : Nat) (f : Die → Die) : (s.modDie d f).schedule = s.schedule := rfl
@[simp] theorem State.modDie_freeCount (d : Nat) (f : Die → Die) : (s.modDie d f).freeCount = s.freeCount := rfl

/-! ### setCore -/

@[simp] theorem State.setCore_pkg (u : Nat) (x : Core) : (s.setCore u x).pkg = s.pkg := rfl
@[simp] theorem State.setCore_mem (u : Nat) (x : Core) : (s.setCore u x).mem = s.mem := rfl
@[simp] theorem State.setCore_dies (u : Nat) (x : Core) : (s.setCore u x).dies = s.dies := rfl
@[simp] theorem State.setCore_tasks (u : Nat) (x : Core) : (s.setCore u x).tasks = s.tasks := rfl
@[simp] theorem State.setCore_nextTask (u : Nat) (x : Core) : (s.setCore u x).nextTask = s.nextTask := rfl
@[simp] theorem State.setCore_launches (u : Nat) (x : Core) : (s.setCore u x).launches = s.launches := rfl
@[simp] theorem State.setCore_nextLaunch (u : Nat) (x : Core) : (s.setCore u x).nextLaunch = s.nextLaunch := rfl
@[simp] theorem State.setCore_heldStores (u : Nat) (x : Core) : (s.setCore u x).heldStores = s.heldStores := rfl
@[simp] theorem State.setCore_checkpoint (u : Nat) (x : Core) : (s.setCore u x).checkpoint = s.checkpoint := rfl
@[simp] theorem State.setCore_stopRaised (u : Nat) (x : Core) : (s.setCore u x).stopRaised = s.stopRaised := rfl
@[simp] theorem State.setCore_hostRead (u : Nat) (x : Core) : (s.setCore u x).hostRead = s.hostRead := rfl
@[simp] theorem State.setCore_rack (u : Nat) (x : Core) : (s.setCore u x).rack = s.rack := rfl
@[simp] theorem State.setCore_restoreStatus (u : Nat) (x : Core) : (s.setCore u x).restoreStatus = s.restoreStatus := rfl
@[simp] theorem State.setCore_flights (u : Nat) (x : Core) : (s.setCore u x).flights = s.flights := rfl
@[simp] theorem State.setCore_nextId (u : Nat) (x : Core) : (s.setCore u x).nextId = s.nextId := rfl
@[simp] theorem State.setCore_master (u : Nat) (x : Core) : (s.setCore u x).master = s.master := rfl
@[simp] theorem State.setCore_nextTicket (u : Nat) (x : Core) : (s.setCore u x).nextTicket = s.nextTicket := rfl
@[simp] theorem State.setCore_masterSince (u : Nat) (x : Core) : (s.setCore u x).masterSince = s.masterSince := rfl
@[simp] theorem State.setCore_svcmode (u : Nat) (x : Core) : (s.setCore u x).svcmode = s.svcmode := rfl
@[simp] theorem State.setCore_satus (u : Nat) (x : Core) : (s.setCore u x).satus = s.satus := rfl
@[simp] theorem State.setCore_groupSeq (u : Nat) (x : Core) : (s.setCore u x).groupSeq = s.groupSeq := rfl
@[simp] theorem State.setCore_headers (u : Nat) (x : Core) : (s.setCore u x).headers = s.headers := rfl
@[simp] theorem State.setCore_fabricOut (u : Nat) (x : Core) : (s.setCore u x).fabricOut = s.fabricOut := rfl
@[simp] theorem State.setCore_hostEvents (u : Nat) (x : Core) : (s.setCore u x).hostEvents = s.hostEvents := rfl
@[simp] theorem State.setCore_hostSeq (u : Nat) (x : Core) : (s.setCore u x).hostSeq = s.hostSeq := rfl
@[simp] theorem State.setCore_bootCount (u : Nat) (x : Core) : (s.setCore u x).bootCount = s.bootCount := rfl
@[simp] theorem State.setCore_bootJoined (u : Nat) (x : Core) : (s.setCore u x).bootJoined = s.bootJoined := rfl
@[simp] theorem State.setCore_bootCodes (u : Nat) (x : Core) : (s.setCore u x).bootCodes = s.bootCodes := rfl
@[simp] theorem State.setCore_quotes (u : Nat) (x : Core) : (s.setCore u x).quotes = s.quotes := rfl
@[simp] theorem State.setCore_msix (u : Nat) (x : Core) : (s.setCore u x).msix = s.msix := rfl
@[simp] theorem State.setCore_hostWrites (u : Nat) (x : Core) : (s.setCore u x).hostWrites = s.hostWrites := rfl
@[simp] theorem State.setCore_cur (u : Nat) (x : Core) : (s.setCore u x).cur = s.cur := rfl
@[simp] theorem State.setCore_turn (u : Nat) (x : Core) : (s.setCore u x).turn = s.turn := rfl
@[simp] theorem State.setCore_schedule (u : Nat) (x : Core) : (s.setCore u x).schedule = s.schedule := rfl
@[simp] theorem State.setCore_freeCount (u : Nat) (x : Core) : (s.setCore u x).freeCount = s.freeCount := rfl

/-! ### modCore -/

@[simp] theorem State.modCore_pkg (u : Nat) (f : Core → Core) : (s.modCore u f).pkg = s.pkg := rfl
@[simp] theorem State.modCore_mem (u : Nat) (f : Core → Core) : (s.modCore u f).mem = s.mem := rfl
@[simp] theorem State.modCore_dies (u : Nat) (f : Core → Core) : (s.modCore u f).dies = s.dies := rfl
@[simp] theorem State.modCore_tasks (u : Nat) (f : Core → Core) : (s.modCore u f).tasks = s.tasks := rfl
@[simp] theorem State.modCore_nextTask (u : Nat) (f : Core → Core) : (s.modCore u f).nextTask = s.nextTask := rfl
@[simp] theorem State.modCore_launches (u : Nat) (f : Core → Core) : (s.modCore u f).launches = s.launches := rfl
@[simp] theorem State.modCore_nextLaunch (u : Nat) (f : Core → Core) : (s.modCore u f).nextLaunch = s.nextLaunch := rfl
@[simp] theorem State.modCore_heldStores (u : Nat) (f : Core → Core) : (s.modCore u f).heldStores = s.heldStores := rfl
@[simp] theorem State.modCore_checkpoint (u : Nat) (f : Core → Core) : (s.modCore u f).checkpoint = s.checkpoint := rfl
@[simp] theorem State.modCore_stopRaised (u : Nat) (f : Core → Core) : (s.modCore u f).stopRaised = s.stopRaised := rfl
@[simp] theorem State.modCore_hostRead (u : Nat) (f : Core → Core) : (s.modCore u f).hostRead = s.hostRead := rfl
@[simp] theorem State.modCore_rack (u : Nat) (f : Core → Core) : (s.modCore u f).rack = s.rack := rfl
@[simp] theorem State.modCore_restoreStatus (u : Nat) (f : Core → Core) : (s.modCore u f).restoreStatus = s.restoreStatus := rfl
@[simp] theorem State.modCore_flights (u : Nat) (f : Core → Core) : (s.modCore u f).flights = s.flights := rfl
@[simp] theorem State.modCore_nextId (u : Nat) (f : Core → Core) : (s.modCore u f).nextId = s.nextId := rfl
@[simp] theorem State.modCore_master (u : Nat) (f : Core → Core) : (s.modCore u f).master = s.master := rfl
@[simp] theorem State.modCore_nextTicket (u : Nat) (f : Core → Core) : (s.modCore u f).nextTicket = s.nextTicket := rfl
@[simp] theorem State.modCore_masterSince (u : Nat) (f : Core → Core) : (s.modCore u f).masterSince = s.masterSince := rfl
@[simp] theorem State.modCore_svcmode (u : Nat) (f : Core → Core) : (s.modCore u f).svcmode = s.svcmode := rfl
@[simp] theorem State.modCore_satus (u : Nat) (f : Core → Core) : (s.modCore u f).satus = s.satus := rfl
@[simp] theorem State.modCore_groupSeq (u : Nat) (f : Core → Core) : (s.modCore u f).groupSeq = s.groupSeq := rfl
@[simp] theorem State.modCore_headers (u : Nat) (f : Core → Core) : (s.modCore u f).headers = s.headers := rfl
@[simp] theorem State.modCore_fabricOut (u : Nat) (f : Core → Core) : (s.modCore u f).fabricOut = s.fabricOut := rfl
@[simp] theorem State.modCore_hostEvents (u : Nat) (f : Core → Core) : (s.modCore u f).hostEvents = s.hostEvents := rfl
@[simp] theorem State.modCore_hostSeq (u : Nat) (f : Core → Core) : (s.modCore u f).hostSeq = s.hostSeq := rfl
@[simp] theorem State.modCore_bootCount (u : Nat) (f : Core → Core) : (s.modCore u f).bootCount = s.bootCount := rfl
@[simp] theorem State.modCore_bootJoined (u : Nat) (f : Core → Core) : (s.modCore u f).bootJoined = s.bootJoined := rfl
@[simp] theorem State.modCore_bootCodes (u : Nat) (f : Core → Core) : (s.modCore u f).bootCodes = s.bootCodes := rfl
@[simp] theorem State.modCore_quotes (u : Nat) (f : Core → Core) : (s.modCore u f).quotes = s.quotes := rfl
@[simp] theorem State.modCore_msix (u : Nat) (f : Core → Core) : (s.modCore u f).msix = s.msix := rfl
@[simp] theorem State.modCore_hostWrites (u : Nat) (f : Core → Core) : (s.modCore u f).hostWrites = s.hostWrites := rfl
@[simp] theorem State.modCore_cur (u : Nat) (f : Core → Core) : (s.modCore u f).cur = s.cur := rfl
@[simp] theorem State.modCore_turn (u : Nat) (f : Core → Core) : (s.modCore u f).turn = s.turn := rfl
@[simp] theorem State.modCore_schedule (u : Nat) (f : Core → Core) : (s.modCore u f).schedule = s.schedule := rfl
@[simp] theorem State.modCore_freeCount (u : Nat) (f : Core → Core) : (s.modCore u f).freeCount = s.freeCount := rfl

/-! ### setGroup -/

@[simp] theorem State.setGroup_pkg (u slot : Nat) (g : Group) : (s.setGroup u slot g).pkg = s.pkg := rfl
@[simp] theorem State.setGroup_mem (u slot : Nat) (g : Group) : (s.setGroup u slot g).mem = s.mem := rfl
@[simp] theorem State.setGroup_dies (u slot : Nat) (g : Group) : (s.setGroup u slot g).dies = s.dies := rfl
@[simp] theorem State.setGroup_tasks (u slot : Nat) (g : Group) : (s.setGroup u slot g).tasks = s.tasks := rfl
@[simp] theorem State.setGroup_nextTask (u slot : Nat) (g : Group) : (s.setGroup u slot g).nextTask = s.nextTask := rfl
@[simp] theorem State.setGroup_launches (u slot : Nat) (g : Group) : (s.setGroup u slot g).launches = s.launches := rfl
@[simp] theorem State.setGroup_nextLaunch (u slot : Nat) (g : Group) : (s.setGroup u slot g).nextLaunch = s.nextLaunch := rfl
@[simp] theorem State.setGroup_heldStores (u slot : Nat) (g : Group) : (s.setGroup u slot g).heldStores = s.heldStores := rfl
@[simp] theorem State.setGroup_checkpoint (u slot : Nat) (g : Group) : (s.setGroup u slot g).checkpoint = s.checkpoint := rfl
@[simp] theorem State.setGroup_stopRaised (u slot : Nat) (g : Group) : (s.setGroup u slot g).stopRaised = s.stopRaised := rfl
@[simp] theorem State.setGroup_hostRead (u slot : Nat) (g : Group) : (s.setGroup u slot g).hostRead = s.hostRead := rfl
@[simp] theorem State.setGroup_rack (u slot : Nat) (g : Group) : (s.setGroup u slot g).rack = s.rack := rfl
@[simp] theorem State.setGroup_restoreStatus (u slot : Nat) (g : Group) : (s.setGroup u slot g).restoreStatus = s.restoreStatus := rfl
@[simp] theorem State.setGroup_flights (u slot : Nat) (g : Group) : (s.setGroup u slot g).flights = s.flights := rfl
@[simp] theorem State.setGroup_nextId (u slot : Nat) (g : Group) : (s.setGroup u slot g).nextId = s.nextId := rfl
@[simp] theorem State.setGroup_master (u slot : Nat) (g : Group) : (s.setGroup u slot g).master = s.master := rfl
@[simp] theorem State.setGroup_nextTicket (u slot : Nat) (g : Group) : (s.setGroup u slot g).nextTicket = s.nextTicket := rfl
@[simp] theorem State.setGroup_masterSince (u slot : Nat) (g : Group) : (s.setGroup u slot g).masterSince = s.masterSince := rfl
@[simp] theorem State.setGroup_svcmode (u slot : Nat) (g : Group) : (s.setGroup u slot g).svcmode = s.svcmode := rfl
@[simp] theorem State.setGroup_satus (u slot : Nat) (g : Group) : (s.setGroup u slot g).satus = s.satus := rfl
@[simp] theorem State.setGroup_groupSeq (u slot : Nat) (g : Group) : (s.setGroup u slot g).groupSeq = s.groupSeq := rfl
@[simp] theorem State.setGroup_headers (u slot : Nat) (g : Group) : (s.setGroup u slot g).headers = s.headers := rfl
@[simp] theorem State.setGroup_fabricOut (u slot : Nat) (g : Group) : (s.setGroup u slot g).fabricOut = s.fabricOut := rfl
@[simp] theorem State.setGroup_hostEvents (u slot : Nat) (g : Group) : (s.setGroup u slot g).hostEvents = s.hostEvents := rfl
@[simp] theorem State.setGroup_hostSeq (u slot : Nat) (g : Group) : (s.setGroup u slot g).hostSeq = s.hostSeq := rfl
@[simp] theorem State.setGroup_bootCount (u slot : Nat) (g : Group) : (s.setGroup u slot g).bootCount = s.bootCount := rfl
@[simp] theorem State.setGroup_bootJoined (u slot : Nat) (g : Group) : (s.setGroup u slot g).bootJoined = s.bootJoined := rfl
@[simp] theorem State.setGroup_bootCodes (u slot : Nat) (g : Group) : (s.setGroup u slot g).bootCodes = s.bootCodes := rfl
@[simp] theorem State.setGroup_quotes (u slot : Nat) (g : Group) : (s.setGroup u slot g).quotes = s.quotes := rfl
@[simp] theorem State.setGroup_msix (u slot : Nat) (g : Group) : (s.setGroup u slot g).msix = s.msix := rfl
@[simp] theorem State.setGroup_hostWrites (u slot : Nat) (g : Group) : (s.setGroup u slot g).hostWrites = s.hostWrites := rfl
@[simp] theorem State.setGroup_cur (u slot : Nat) (g : Group) : (s.setGroup u slot g).cur = s.cur := rfl
@[simp] theorem State.setGroup_turn (u slot : Nat) (g : Group) : (s.setGroup u slot g).turn = s.turn := rfl
@[simp] theorem State.setGroup_schedule (u slot : Nat) (g : Group) : (s.setGroup u slot g).schedule = s.schedule := rfl
@[simp] theorem State.setGroup_freeCount (u slot : Nat) (g : Group) : (s.setGroup u slot g).freeCount = s.freeCount := rfl

/-! ### modGroup -/

@[simp] theorem State.modGroup_pkg (u slot : Nat) (f : Group → Group) : (s.modGroup u slot f).pkg = s.pkg := rfl
@[simp] theorem State.modGroup_mem (u slot : Nat) (f : Group → Group) : (s.modGroup u slot f).mem = s.mem := rfl
@[simp] theorem State.modGroup_dies (u slot : Nat) (f : Group → Group) : (s.modGroup u slot f).dies = s.dies := rfl
@[simp] theorem State.modGroup_tasks (u slot : Nat) (f : Group → Group) : (s.modGroup u slot f).tasks = s.tasks := rfl
@[simp] theorem State.modGroup_nextTask (u slot : Nat) (f : Group → Group) : (s.modGroup u slot f).nextTask = s.nextTask := rfl
@[simp] theorem State.modGroup_launches (u slot : Nat) (f : Group → Group) : (s.modGroup u slot f).launches = s.launches := rfl
@[simp] theorem State.modGroup_nextLaunch (u slot : Nat) (f : Group → Group) : (s.modGroup u slot f).nextLaunch = s.nextLaunch := rfl
@[simp] theorem State.modGroup_heldStores (u slot : Nat) (f : Group → Group) : (s.modGroup u slot f).heldStores = s.heldStores := rfl
@[simp] theorem State.modGroup_checkpoint (u slot : Nat) (f : Group → Group) : (s.modGroup u slot f).checkpoint = s.checkpoint := rfl
@[simp] theorem State.modGroup_stopRaised (u slot : Nat) (f : Group → Group) : (s.modGroup u slot f).stopRaised = s.stopRaised := rfl
@[simp] theorem State.modGroup_hostRead (u slot : Nat) (f : Group → Group) : (s.modGroup u slot f).hostRead = s.hostRead := rfl
@[simp] theorem State.modGroup_rack (u slot : Nat) (f : Group → Group) : (s.modGroup u slot f).rack = s.rack := rfl
@[simp] theorem State.modGroup_restoreStatus (u slot : Nat) (f : Group → Group) : (s.modGroup u slot f).restoreStatus = s.restoreStatus := rfl
@[simp] theorem State.modGroup_flights (u slot : Nat) (f : Group → Group) : (s.modGroup u slot f).flights = s.flights := rfl
@[simp] theorem State.modGroup_nextId (u slot : Nat) (f : Group → Group) : (s.modGroup u slot f).nextId = s.nextId := rfl
@[simp] theorem State.modGroup_master (u slot : Nat) (f : Group → Group) : (s.modGroup u slot f).master = s.master := rfl
@[simp] theorem State.modGroup_nextTicket (u slot : Nat) (f : Group → Group) : (s.modGroup u slot f).nextTicket = s.nextTicket := rfl
@[simp] theorem State.modGroup_masterSince (u slot : Nat) (f : Group → Group) : (s.modGroup u slot f).masterSince = s.masterSince := rfl
@[simp] theorem State.modGroup_svcmode (u slot : Nat) (f : Group → Group) : (s.modGroup u slot f).svcmode = s.svcmode := rfl
@[simp] theorem State.modGroup_satus (u slot : Nat) (f : Group → Group) : (s.modGroup u slot f).satus = s.satus := rfl
@[simp] theorem State.modGroup_groupSeq (u slot : Nat) (f : Group → Group) : (s.modGroup u slot f).groupSeq = s.groupSeq := rfl
@[simp] theorem State.modGroup_headers (u slot : Nat) (f : Group → Group) : (s.modGroup u slot f).headers = s.headers := rfl
@[simp] theorem State.modGroup_fabricOut (u slot : Nat) (f : Group → Group) : (s.modGroup u slot f).fabricOut = s.fabricOut := rfl
@[simp] theorem State.modGroup_hostEvents (u slot : Nat) (f : Group → Group) : (s.modGroup u slot f).hostEvents = s.hostEvents := rfl
@[simp] theorem State.modGroup_hostSeq (u slot : Nat) (f : Group → Group) : (s.modGroup u slot f).hostSeq = s.hostSeq := rfl
@[simp] theorem State.modGroup_bootCount (u slot : Nat) (f : Group → Group) : (s.modGroup u slot f).bootCount = s.bootCount := rfl
@[simp] theorem State.modGroup_bootJoined (u slot : Nat) (f : Group → Group) : (s.modGroup u slot f).bootJoined = s.bootJoined := rfl
@[simp] theorem State.modGroup_bootCodes (u slot : Nat) (f : Group → Group) : (s.modGroup u slot f).bootCodes = s.bootCodes := rfl
@[simp] theorem State.modGroup_quotes (u slot : Nat) (f : Group → Group) : (s.modGroup u slot f).quotes = s.quotes := rfl
@[simp] theorem State.modGroup_msix (u slot : Nat) (f : Group → Group) : (s.modGroup u slot f).msix = s.msix := rfl
@[simp] theorem State.modGroup_hostWrites (u slot : Nat) (f : Group → Group) : (s.modGroup u slot f).hostWrites = s.hostWrites := rfl
@[simp] theorem State.modGroup_cur (u slot : Nat) (f : Group → Group) : (s.modGroup u slot f).cur = s.cur := rfl
@[simp] theorem State.modGroup_turn (u slot : Nat) (f : Group → Group) : (s.modGroup u slot f).turn = s.turn := rfl
@[simp] theorem State.modGroup_schedule (u slot : Nat) (f : Group → Group) : (s.modGroup u slot f).schedule = s.schedule := rfl
@[simp] theorem State.modGroup_freeCount (u slot : Nat) (f : Group → Group) : (s.modGroup u slot f).freeCount = s.freeCount := rfl

/-! ### modFibre -/

@[simp] theorem State.modFibre_pkg (u slot id : Nat) (f : Fibre → Fibre) : (s.modFibre u slot id f).pkg = s.pkg := rfl
@[simp] theorem State.modFibre_mem (u slot id : Nat) (f : Fibre → Fibre) : (s.modFibre u slot id f).mem = s.mem := rfl
@[simp] theorem State.modFibre_dies (u slot id : Nat) (f : Fibre → Fibre) : (s.modFibre u slot id f).dies = s.dies := rfl
@[simp] theorem State.modFibre_tasks (u slot id : Nat) (f : Fibre → Fibre) : (s.modFibre u slot id f).tasks = s.tasks := rfl
@[simp] theorem State.modFibre_nextTask (u slot id : Nat) (f : Fibre → Fibre) : (s.modFibre u slot id f).nextTask = s.nextTask := rfl
@[simp] theorem State.modFibre_launches (u slot id : Nat) (f : Fibre → Fibre) : (s.modFibre u slot id f).launches = s.launches := rfl
@[simp] theorem State.modFibre_nextLaunch (u slot id : Nat) (f : Fibre → Fibre) : (s.modFibre u slot id f).nextLaunch = s.nextLaunch := rfl
@[simp] theorem State.modFibre_heldStores (u slot id : Nat) (f : Fibre → Fibre) : (s.modFibre u slot id f).heldStores = s.heldStores := rfl
@[simp] theorem State.modFibre_checkpoint (u slot id : Nat) (f : Fibre → Fibre) : (s.modFibre u slot id f).checkpoint = s.checkpoint := rfl
@[simp] theorem State.modFibre_stopRaised (u slot id : Nat) (f : Fibre → Fibre) : (s.modFibre u slot id f).stopRaised = s.stopRaised := rfl
@[simp] theorem State.modFibre_hostRead (u slot id : Nat) (f : Fibre → Fibre) : (s.modFibre u slot id f).hostRead = s.hostRead := rfl
@[simp] theorem State.modFibre_rack (u slot id : Nat) (f : Fibre → Fibre) : (s.modFibre u slot id f).rack = s.rack := rfl
@[simp] theorem State.modFibre_restoreStatus (u slot id : Nat) (f : Fibre → Fibre) : (s.modFibre u slot id f).restoreStatus = s.restoreStatus := rfl
@[simp] theorem State.modFibre_flights (u slot id : Nat) (f : Fibre → Fibre) : (s.modFibre u slot id f).flights = s.flights := rfl
@[simp] theorem State.modFibre_nextId (u slot id : Nat) (f : Fibre → Fibre) : (s.modFibre u slot id f).nextId = s.nextId := rfl
@[simp] theorem State.modFibre_master (u slot id : Nat) (f : Fibre → Fibre) : (s.modFibre u slot id f).master = s.master := rfl
@[simp] theorem State.modFibre_nextTicket (u slot id : Nat) (f : Fibre → Fibre) : (s.modFibre u slot id f).nextTicket = s.nextTicket := rfl
@[simp] theorem State.modFibre_masterSince (u slot id : Nat) (f : Fibre → Fibre) : (s.modFibre u slot id f).masterSince = s.masterSince := rfl
@[simp] theorem State.modFibre_svcmode (u slot id : Nat) (f : Fibre → Fibre) : (s.modFibre u slot id f).svcmode = s.svcmode := rfl
@[simp] theorem State.modFibre_satus (u slot id : Nat) (f : Fibre → Fibre) : (s.modFibre u slot id f).satus = s.satus := rfl
@[simp] theorem State.modFibre_groupSeq (u slot id : Nat) (f : Fibre → Fibre) : (s.modFibre u slot id f).groupSeq = s.groupSeq := rfl
@[simp] theorem State.modFibre_headers (u slot id : Nat) (f : Fibre → Fibre) : (s.modFibre u slot id f).headers = s.headers := rfl
@[simp] theorem State.modFibre_fabricOut (u slot id : Nat) (f : Fibre → Fibre) : (s.modFibre u slot id f).fabricOut = s.fabricOut := rfl
@[simp] theorem State.modFibre_hostEvents (u slot id : Nat) (f : Fibre → Fibre) : (s.modFibre u slot id f).hostEvents = s.hostEvents := rfl
@[simp] theorem State.modFibre_hostSeq (u slot id : Nat) (f : Fibre → Fibre) : (s.modFibre u slot id f).hostSeq = s.hostSeq := rfl
@[simp] theorem State.modFibre_bootCount (u slot id : Nat) (f : Fibre → Fibre) : (s.modFibre u slot id f).bootCount = s.bootCount := rfl
@[simp] theorem State.modFibre_bootJoined (u slot id : Nat) (f : Fibre → Fibre) : (s.modFibre u slot id f).bootJoined = s.bootJoined := rfl
@[simp] theorem State.modFibre_bootCodes (u slot id : Nat) (f : Fibre → Fibre) : (s.modFibre u slot id f).bootCodes = s.bootCodes := rfl
@[simp] theorem State.modFibre_quotes (u slot id : Nat) (f : Fibre → Fibre) : (s.modFibre u slot id f).quotes = s.quotes := rfl
@[simp] theorem State.modFibre_msix (u slot id : Nat) (f : Fibre → Fibre) : (s.modFibre u slot id f).msix = s.msix := rfl
@[simp] theorem State.modFibre_hostWrites (u slot id : Nat) (f : Fibre → Fibre) : (s.modFibre u slot id f).hostWrites = s.hostWrites := rfl
@[simp] theorem State.modFibre_cur (u slot id : Nat) (f : Fibre → Fibre) : (s.modFibre u slot id f).cur = s.cur := rfl
@[simp] theorem State.modFibre_turn (u slot id : Nat) (f : Fibre → Fibre) : (s.modFibre u slot id f).turn = s.turn := rfl
@[simp] theorem State.modFibre_schedule (u slot id : Nat) (f : Fibre → Fibre) : (s.modFibre u slot id f).schedule = s.schedule := rfl
@[simp] theorem State.modFibre_freeCount (u slot id : Nat) (f : Fibre → Fibre) : (s.modFibre u slot id f).freeCount = s.freeCount := rfl

/-! ### mapCores -/

@[simp] theorem State.mapCores_pkg (p : Nat → Bool) (f : Core → Core) : (s.mapCores p f).pkg = s.pkg := rfl
@[simp] theorem State.mapCores_mem (p : Nat → Bool) (f : Core → Core) : (s.mapCores p f).mem = s.mem := rfl
@[simp] theorem State.mapCores_dies (p : Nat → Bool) (f : Core → Core) : (s.mapCores p f).dies = s.dies := rfl
@[simp] theorem State.mapCores_tasks (p : Nat → Bool) (f : Core → Core) : (s.mapCores p f).tasks = s.tasks := rfl
@[simp] theorem State.mapCores_nextTask (p : Nat → Bool) (f : Core → Core) : (s.mapCores p f).nextTask = s.nextTask := rfl
@[simp] theorem State.mapCores_launches (p : Nat → Bool) (f : Core → Core) : (s.mapCores p f).launches = s.launches := rfl
@[simp] theorem State.mapCores_nextLaunch (p : Nat → Bool) (f : Core → Core) : (s.mapCores p f).nextLaunch = s.nextLaunch := rfl
@[simp] theorem State.mapCores_heldStores (p : Nat → Bool) (f : Core → Core) : (s.mapCores p f).heldStores = s.heldStores := rfl
@[simp] theorem State.mapCores_checkpoint (p : Nat → Bool) (f : Core → Core) : (s.mapCores p f).checkpoint = s.checkpoint := rfl
@[simp] theorem State.mapCores_stopRaised (p : Nat → Bool) (f : Core → Core) : (s.mapCores p f).stopRaised = s.stopRaised := rfl
@[simp] theorem State.mapCores_hostRead (p : Nat → Bool) (f : Core → Core) : (s.mapCores p f).hostRead = s.hostRead := rfl
@[simp] theorem State.mapCores_rack (p : Nat → Bool) (f : Core → Core) : (s.mapCores p f).rack = s.rack := rfl
@[simp] theorem State.mapCores_restoreStatus (p : Nat → Bool) (f : Core → Core) : (s.mapCores p f).restoreStatus = s.restoreStatus := rfl
@[simp] theorem State.mapCores_flights (p : Nat → Bool) (f : Core → Core) : (s.mapCores p f).flights = s.flights := rfl
@[simp] theorem State.mapCores_nextId (p : Nat → Bool) (f : Core → Core) : (s.mapCores p f).nextId = s.nextId := rfl
@[simp] theorem State.mapCores_master (p : Nat → Bool) (f : Core → Core) : (s.mapCores p f).master = s.master := rfl
@[simp] theorem State.mapCores_nextTicket (p : Nat → Bool) (f : Core → Core) : (s.mapCores p f).nextTicket = s.nextTicket := rfl
@[simp] theorem State.mapCores_masterSince (p : Nat → Bool) (f : Core → Core) : (s.mapCores p f).masterSince = s.masterSince := rfl
@[simp] theorem State.mapCores_svcmode (p : Nat → Bool) (f : Core → Core) : (s.mapCores p f).svcmode = s.svcmode := rfl
@[simp] theorem State.mapCores_satus (p : Nat → Bool) (f : Core → Core) : (s.mapCores p f).satus = s.satus := rfl
@[simp] theorem State.mapCores_groupSeq (p : Nat → Bool) (f : Core → Core) : (s.mapCores p f).groupSeq = s.groupSeq := rfl
@[simp] theorem State.mapCores_headers (p : Nat → Bool) (f : Core → Core) : (s.mapCores p f).headers = s.headers := rfl
@[simp] theorem State.mapCores_fabricOut (p : Nat → Bool) (f : Core → Core) : (s.mapCores p f).fabricOut = s.fabricOut := rfl
@[simp] theorem State.mapCores_hostEvents (p : Nat → Bool) (f : Core → Core) : (s.mapCores p f).hostEvents = s.hostEvents := rfl
@[simp] theorem State.mapCores_hostSeq (p : Nat → Bool) (f : Core → Core) : (s.mapCores p f).hostSeq = s.hostSeq := rfl
@[simp] theorem State.mapCores_bootCount (p : Nat → Bool) (f : Core → Core) : (s.mapCores p f).bootCount = s.bootCount := rfl
@[simp] theorem State.mapCores_bootJoined (p : Nat → Bool) (f : Core → Core) : (s.mapCores p f).bootJoined = s.bootJoined := rfl
@[simp] theorem State.mapCores_bootCodes (p : Nat → Bool) (f : Core → Core) : (s.mapCores p f).bootCodes = s.bootCodes := rfl
@[simp] theorem State.mapCores_quotes (p : Nat → Bool) (f : Core → Core) : (s.mapCores p f).quotes = s.quotes := rfl
@[simp] theorem State.mapCores_msix (p : Nat → Bool) (f : Core → Core) : (s.mapCores p f).msix = s.msix := rfl
@[simp] theorem State.mapCores_hostWrites (p : Nat → Bool) (f : Core → Core) : (s.mapCores p f).hostWrites = s.hostWrites := rfl
@[simp] theorem State.mapCores_cur (p : Nat → Bool) (f : Core → Core) : (s.mapCores p f).cur = s.cur := rfl
@[simp] theorem State.mapCores_turn (p : Nat → Bool) (f : Core → Core) : (s.mapCores p f).turn = s.turn := rfl
@[simp] theorem State.mapCores_schedule (p : Nat → Bool) (f : Core → Core) : (s.mapCores p f).schedule = s.schedule := rfl
@[simp] theorem State.mapCores_freeCount (p : Nat → Bool) (f : Core → Core) : (s.mapCores p f).freeCount = s.freeCount := rfl

/-! ### bumpFree -/

@[simp] theorem State.bumpFree_pkg : (s.bumpFree).pkg = s.pkg := rfl
@[simp] theorem State.bumpFree_mem : (s.bumpFree).mem = s.mem := rfl
@[simp] theorem State.bumpFree_dies : (s.bumpFree).dies = s.dies := rfl
@[simp] theorem State.bumpFree_cores : (s.bumpFree).cores = s.cores := rfl
@[simp] theorem State.bumpFree_tasks : (s.bumpFree).tasks = s.tasks := rfl
@[simp] theorem State.bumpFree_nextTask : (s.bumpFree).nextTask = s.nextTask := rfl
@[simp] theorem State.bumpFree_launches : (s.bumpFree).launches = s.launches := rfl
@[simp] theorem State.bumpFree_nextLaunch : (s.bumpFree).nextLaunch = s.nextLaunch := rfl
@[simp] theorem State.bumpFree_heldStores : (s.bumpFree).heldStores = s.heldStores := rfl
@[simp] theorem State.bumpFree_checkpoint : (s.bumpFree).checkpoint = s.checkpoint := rfl
@[simp] theorem State.bumpFree_stopRaised : (s.bumpFree).stopRaised = s.stopRaised := rfl
@[simp] theorem State.bumpFree_hostRead : (s.bumpFree).hostRead = s.hostRead := rfl
@[simp] theorem State.bumpFree_rack : (s.bumpFree).rack = s.rack := rfl
@[simp] theorem State.bumpFree_restoreStatus : (s.bumpFree).restoreStatus = s.restoreStatus := rfl
@[simp] theorem State.bumpFree_flights : (s.bumpFree).flights = s.flights := rfl
@[simp] theorem State.bumpFree_nextId : (s.bumpFree).nextId = s.nextId := rfl
@[simp] theorem State.bumpFree_master : (s.bumpFree).master = s.master := rfl
@[simp] theorem State.bumpFree_nextTicket : (s.bumpFree).nextTicket = s.nextTicket := rfl
@[simp] theorem State.bumpFree_masterSince : (s.bumpFree).masterSince = s.masterSince := rfl
@[simp] theorem State.bumpFree_svcmode : (s.bumpFree).svcmode = s.svcmode := rfl
@[simp] theorem State.bumpFree_satus : (s.bumpFree).satus = s.satus := rfl
@[simp] theorem State.bumpFree_groupSeq : (s.bumpFree).groupSeq = s.groupSeq := rfl
@[simp] theorem State.bumpFree_headers : (s.bumpFree).headers = s.headers := rfl
@[simp] theorem State.bumpFree_fabricOut : (s.bumpFree).fabricOut = s.fabricOut := rfl
@[simp] theorem State.bumpFree_hostEvents : (s.bumpFree).hostEvents = s.hostEvents := rfl
@[simp] theorem State.bumpFree_hostSeq : (s.bumpFree).hostSeq = s.hostSeq := rfl
@[simp] theorem State.bumpFree_bootCount : (s.bumpFree).bootCount = s.bootCount := rfl
@[simp] theorem State.bumpFree_bootJoined : (s.bumpFree).bootJoined = s.bootJoined := rfl
@[simp] theorem State.bumpFree_bootCodes : (s.bumpFree).bootCodes = s.bootCodes := rfl
@[simp] theorem State.bumpFree_quotes : (s.bumpFree).quotes = s.quotes := rfl
@[simp] theorem State.bumpFree_msix : (s.bumpFree).msix = s.msix := rfl
@[simp] theorem State.bumpFree_hostWrites : (s.bumpFree).hostWrites = s.hostWrites := rfl
@[simp] theorem State.bumpFree_cur : (s.bumpFree).cur = s.cur := rfl
@[simp] theorem State.bumpFree_turn : (s.bumpFree).turn = s.turn := rfl
@[simp] theorem State.bumpFree_schedule : (s.bumpFree).schedule = s.schedule := rfl

/-! ### Reading what an update has written -/

@[simp] theorem State.die_setDie_self (d : Nat) (x : Die) : (s.setDie d x).die d = x := by simp [State.die, State.setDie]
theorem State.die_setDie_ne {d e : Nat} (x : Die) (h : e ≠ d) : (s.setDie d x).die e = s.die e := by
  exact sgetD_sset_ne s.dies x _ h
@[simp] theorem State.die_modDie_self (d : Nat) (f : Die → Die) : (s.modDie d f).die d = f (s.die d) := by simp [State.modDie]
theorem State.die_modDie_ne {d e : Nat} (f : Die → Die) (h : e ≠ d) : (s.modDie d f).die e = s.die e := by
  simp [State.modDie, State.die_setDie_ne s _ h]
@[simp] theorem State.core_setCore_self (u : Nat) (x : Core) : (s.setCore u x).core u = x := by simp [State.core, State.setCore]
theorem State.core_setCore_ne {u v : Nat} (x : Core) (h : v ≠ u) : (s.setCore u x).core v = s.core v := by
  exact sgetD_sset_ne s.cores x _ h
@[simp] theorem State.core_modCore_self (u : Nat) (f : Core → Core) : (s.modCore u f).core u = f (s.core u) := by
  simp [State.modCore]
theorem State.core_modCore_ne {u v : Nat} (f : Core → Core) (h : v ≠ u) : (s.modCore u f).core v = s.core v := by
  simp [State.modCore, State.core_setCore_ne s _ h]
@[simp] theorem State.core_modDie (d : Nat) (f : Die → Die) (u : Nat) : (s.modDie d f).core u = s.core u := rfl
@[simp] theorem State.die_modCore (u : Nat) (f : Core → Core) (d : Nat) : (s.modCore u f).die d = s.die d := rfl
@[simp] theorem State.die_modGroup (u slot : Nat) (f : Group → Group) (d : Nat) : (s.modGroup u slot f).die d = s.die d := rfl
@[simp] theorem State.die_modFibre (u slot id : Nat) (f : Fibre → Fibre) (d : Nat) : (s.modFibre u slot id f).die d = s.die d :=
  rfl
@[simp] theorem State.now_modCore (u : Nat) (f : Core → Core) (d : Nat) : (s.modCore u f).now d = s.now d := rfl
@[simp] theorem State.now_modGroup (u slot : Nat) (f : Group → Group) (d : Nat) : (s.modGroup u slot f).now d = s.now d := rfl
@[simp] theorem State.group_modDie (d : Nat) (f : Die → Die) (u slot : Nat) : (s.modDie d f).group u slot = s.group u slot := rfl

/-- Two changes of one core are one change. -/
@[simp] theorem State.modCore_modCore (u : Nat) (f g : Core → Core) :
    (s.modCore u f).modCore u g = s.modCore u fun c => g (f c) := by
  simp [State.modCore, State.setCore, State.core]
@[simp] theorem State.modDie_modDie (d : Nat) (f g : Die → Die) :
    (s.modDie d f).modDie d g = s.modDie d fun x => g (f x) := by
  simp [State.modDie, State.setDie, State.die]
@[simp] theorem State.modGroup_modGroup (u slot : Nat) (f g : Group → Group) :
    (s.modGroup u slot f).modGroup u slot g = s.modGroup u slot fun x => g (f x) := by
  simp [State.modGroup]
@[simp] theorem State.modFibre_modFibre (u slot id : Nat) (f g : Fibre → Fibre) :
    (s.modFibre u slot id f).modFibre u slot id g = s.modFibre u slot id fun x => g (f x) := by
  simp [State.modFibre]

@[simp] theorem State.group_modGroup_self (u slot : Nat) (f : Group → Group) :
    (s.modGroup u slot f).group u slot = (s.group u slot).map f := by
  simp [State.group, State.modGroup]
theorem State.group_modGroup_slot {u slot k : Nat} (f : Group → Group) (h : k ≠ slot) :
    (s.modGroup u slot f).group u k = s.group u k := by
  simp [State.group, State.modGroup, sget_smod_ne _ f h]
theorem State.group_modGroup_unit {u v : Nat} (slot k : Nat) (f : Group → Group) (h : v ≠ u) :
    (s.modGroup u slot f).group v k = s.group v k := by
  simp [State.group, State.modGroup, State.core_modCore_ne s _ h]
@[simp] theorem State.fibre_modFibre_self (u slot id : Nat) (f : Fibre → Fibre) :
    (s.modFibre u slot id f).fibre u slot id = (s.fibre u slot id).map f := by
  simp only [State.fibre, State.modFibre, State.group_modGroup_self]
  cases s.group u slot <;> simp
theorem State.fibre_modFibre_ne {u slot id j : Nat} (f : Fibre → Fibre) (h : j ≠ id) :
    (s.modFibre u slot id f).fibre u slot j = s.fibre u slot j := by
  simp only [State.fibre, State.modFibre, State.group_modGroup_self]
  cases s.group u slot <;> simp [sget_smod_ne _ f h]

end Sys2Proof.Machine
end

