-- ==== Sys2Proof/Laws/Run.lean ====
section
/-! SUPPORT. What an execution does to its lanes: the shared frame of every instruction, said once. -/

namespace Sys2Proof

open Machine

/-! ## Who takes part -/

theorem predBlocked_nil {g : Guard} {ls : List Lane} (h : ∀ ln ∈ ls, ln.f.predPend.getLsbD g.p.toNat = false) :
    predBlocked g ls = [] := by
  simp only [predBlocked, List.filter_eq_nil_iff]
  intro ln hl; simp [h ln hl]

theorem predFree_all {g : Guard} {ls : List Lane} (h : ∀ ln ∈ ls, ln.f.predPend.getLsbD g.p.toNat = false) :
    predFree g ls = ls := by
  simp only [predFree, List.filter_eq_self]
  intro ln hl; simp [h ln hl]

theorem mem_activeOf {g : Guard} {c : Ctx} {ln : Lane} : ln ∈ activeOf g c.lanes ↔ Active g c ln := by
  simp [activeOf, Active]

/-- The checks of lanes that all pass: nothing waits, nothing faults, and every lane's value is kept. -/
theorem checks_pass {α : Type} {check : Lane → Except Stop α} {V : Lane → α} (L : List Lane)
    (h : ∀ ln ∈ L, check ln = .ok (V ln)) :
    blockedOf (L.map fun ln => (ln, check ln)) = [] ∧ faultOf (L.map fun ln => (ln, check ln)) = none ∧
      passedOf (L.map fun ln => (ln, check ln)) = L.map fun ln => (ln, V ln) := by
  induction L with
  | nil => exact ⟨rfl, rfl, rfl⟩
  | cons a t ih =>
    have ha := h a (by simp)
    obtain ⟨i1, i2, i3⟩ := ih fun ln hl => h ln (by simp [hl])
    simp only [List.map_cons, ha]
    refine ⟨?_, ?_, ?_⟩
    · simpa [blockedOf] using i1
    · simpa [faultOf] using i2
    · simpa [passedOf] using i3

/-- Finding a fibre among the active lanes. -/
theorem find_active {g : Guard} {ls : List Lane} (h : (ls.map (·.id)).Nodup) (k : Nat) :
    (activeOf g ls).find? (fun ln => ln.id == k) =
      match ls.find? (fun ln => ln.id == k) with
      | none => none
      | some ln => if guardTrue g ln.f = true then some ln else none := by
  induction ls with
  | nil => rfl
  | cons a t ih =>
    simp only [List.map_cons, List.nodup_cons] at h
    have it := ih h.2
    unfold activeOf at it ⊢
    by_cases hk : a.id = k
    · subst hk
      have hn : t.find? (fun ln => ln.id == a.id) = none := by
        rw [List.find?_eq_none]
        intro x hx hxe
        exact h.1 (List.mem_map.mpr ⟨x, hx, by simpa using hxe⟩)
      rw [hn] at it
      by_cases hg : guardTrue g a.f = true
      · simp [hg]
      · simp only [Bool.not_eq_true] at hg
        simp only [List.filter_cons, hg, Bool.false_eq_true, if_false, it, List.find?_cons, BEq.rfl]
    · have hb : (a.id == k) = false := by simpa using hk
      by_cases hg : guardTrue g a.f = true
      · simp only [List.filter_cons, hg, if_true, List.find?_cons, hb, it]
      · simp only [Bool.not_eq_true] at hg
        simp only [List.filter_cons, hg, Bool.false_eq_true, if_false, List.find?_cons, hb, it]

theorem map_find_none {β : Type} (m : SMap β) (ls : List Lane) (h : ls = []) (F : Lane → β → β) :
    (m.map fun e => match ls.find? (fun ln => ln.id == e.1) with
      | none => e
      | some ln => (e.1, F ln e.2)) = m := by
  subst h; simp

theorem contains_ids (ls : List Lane) (k : Nat) :
    (ls.map (·.id)).contains k = (ls.find? fun ln => ln.id == k).isSome := by
  induction ls with
  | nil => rfl
  | cons a t ih =>
    simp only [List.map_cons, List.contains_cons, List.find?_cons, ih]
    by_cases hk : a.id = k
    · subst hk; simp
    · have h1 : (a.id == k) = false := by simpa using hk
      have h2 : (k == a.id) = false := by simpa using Ne.symm hk
      simp [h1, h2]

/-- Moving every fibre of the execution on. -/
theorem advance_done {s : State} {c : Ctx} {g : Guard} {len : Nat} {ids : List Nat}
    (h : ∀ k, ids.contains k = (c.lanes.find? fun ln => ln.id == k).isSome) :
    s.advance c len ids = lanesDone s c g len id fun _ f => f := by
  unfold State.advance lanesDone
  congr 1; funext gr
  simp only [id]
  congr 1
  apply List.map_congr_left
  intro e _
  rw [h e.1]
  cases c.lanes.find? (fun ln => ln.id == e.1) <;> simp

/-- An execution whose active lanes all pass: everyone moves on, and the effect acts on the active lanes. -/
theorem runLanes_pass {α : Type} {s : State} {g : Guard} {len : Nat} {c : Ctx} {check : Ctx → Lane → Except Stop α}
    {commit : Ctx → State → List (Lane × α) → State} {V : Lane → α} (h : Issued s g c)
    (hc : ∀ ln, Active g c ln → check c ln = .ok (V ln)) :
    runLanes s g len check commit =
      if activeOf g c.lanes = [] then lanesDone s c g len id fun _ f => f
      else commit c (lanesDone s c g len id fun _ f => f) ((activeOf g c.lanes).map fun ln => (ln, V ln)) := by
  obtain ⟨hb, hf, hp⟩ := checks_pass (check := check c) (activeOf g c.lanes) fun ln hl => hc ln (mem_activeOf.mp hl)
  unfold runLanes
  rw [h.ctx]
  simp only [predBlocked_nil h.settled, predFree_all h.settled, List.map_nil, State.blockAll, hb, hf, hp]
  have hids : ∀ k, ((c.lanes.filter fun ln => !guardTrue g ln.f).map (·.id) ++
      ((activeOf g c.lanes).map fun ln => (ln, V ln)).map (·.1.id)).contains k = (c.lanes.find? fun ln => ln.id == k).isSome := by
    intro k
    rw [← contains_ids]
    rw [Bool.eq_iff_iff, List.contains_iff_mem, List.contains_iff_mem]
    simp only [List.map_map, List.mem_append, List.mem_map, List.mem_filter, activeOf, Function.comp]
    constructor
    · rintro (⟨x, ⟨hx, -⟩, rfl⟩ | ⟨x, ⟨hx, -⟩, rfl⟩) <;> exact ⟨x, hx, rfl⟩
    · rintro ⟨x, hx, rfl⟩
      by_cases hg : guardTrue g x.f = true
      · exact .inr ⟨x, ⟨hx, hg⟩, rfl⟩
      · exact .inl ⟨x, ⟨hx, by simp [hg]⟩, rfl⟩
  rw [advance_done (g := g) hids]
  cases hl : activeOf g c.lanes with
  | nil => simp
  | cons a t => simp

/-! ## Effects on fibres -/

theorem writeRegs_vector (s : State) (u slot id : Nat) (ws : List (Nat × Nat × Word)) (h : ∀ w ∈ ws, w.1 = 0) :
    s.writeRegs u slot id ws = s.modFibre u slot id (fun f => { f with regs := putRegs f.regs ws }) ∨ ws = [] := by
  induction ws generalizing s with
  | nil => exact .inr rfl
  | cons w t ih =>
    left
    obtain ⟨cl, n, v⟩ := w
    have h0 : cl = 0 := h (cl, n, v) (by simp)
    subst h0
    have hw : s.writeReg u slot id 0 n v = s.modFibre u slot id fun f => { f with regs := sset f.regs n { val := v, st := .full } } := by
      rfl
    simp only [State.writeRegs, hw]
    rcases ih (s.modFibre u slot id fun f => { f with regs := sset f.regs n { val := v, st := .full } })
      (fun w hw => h w (by simp [hw])) with h1 | rfl
    · rw [h1, State.modFibre_modFibre]; rfl
    · rfl

/-- One lane's effect is one change of its fibre. -/
theorem applyEff_on (s : State) (c : Ctx) (ln : Lane) (e : Eff) (h : ∀ w ∈ e.regs, w.1 = 0) (hl : e.late = []) :
    s.applyEff c ln e = s.modFibre c.u c.slot ln.id (effOn e) := by
  simp only [State.applyEff, hl, List.isEmpty_nil, if_true]
  rcases writeRegs_vector s c.u c.slot ln.id e.regs h with h1 | h1
  · rw [h1, State.modFibre_modFibre]; rfl
  · rw [h1]
    simp only [State.writeRegs]
    congr 1
    funext f
    simp only [effOn, h1, putRegs] <;> rfl

/-- Changing distinct fibres one after another is one pass over the group. -/
theorem foldl_modFibre (u slot : Nat) (G : Lane → Fibre → Fibre) (L : List Lane) (s : State) (h : (L.map (·.id)).Nodup)
    (hne : L ≠ []) :
    L.foldl (fun s ln => s.modFibre u slot ln.id (G ln)) s =
      s.modGroup u slot fun gr =>
        { gr with
          fibres := gr.fibres.map fun e => match L.find? (fun ln => ln.id == e.1) with
            | none => e
            | some ln => (e.1, G ln e.2) } := by
  have hone : ∀ (s : State) (a : Lane), s.modFibre u slot a.id (G a) =
      s.modGroup u slot fun gr =>
        { gr with
          fibres := gr.fibres.map fun e => if a.id = e.1 then (e.1, G a e.2) else e } := by
    intro s a
    unfold State.modFibre
    congr 1; funext gr; congr 1
    unfold smod
    apply List.map_congr_left
    intro e _
    by_cases hk : e.1 = a.id
    · simp [hk]
    · simp [hk, Ne.symm hk]
  induction L generalizing s with
  | nil => exact absurd rfl hne
  | cons a t ih =>
    simp only [List.map_cons, List.nodup_cons] at h
    rw [List.foldl_cons, hone]
    by_cases ht : t = []
    · subst ht
      simp only [List.foldl_nil]
      congr 1; funext gr; congr 1
      apply List.map_congr_left
      intro e _
      by_cases hk : a.id = e.1
      · simp [hk]
      · have : (a.id == e.1) = false := by simpa using hk
        simp [hk, this]
    · rw [ih _ h.2 ht, State.modGroup_modGroup]
      congr 1; funext gr; congr 1
      rw [List.map_map]
      apply List.map_congr_left
      intro e _
      simp only [Function.comp]
      by_cases hk : a.id = e.1
      · have hn : t.find? (fun ln => ln.id == e.1) = none := by
          rw [List.find?_eq_none]
          intro x hx hxe
          exact h.1 (List.mem_map.mpr ⟨x, hx, by rw [hk]; simpa using hxe⟩)
        simp [hk, hn]
      · have hb : (a.id == e.1) = false := by simpa using hk
        simp only [hk, if_false, List.find?_cons, hb]

/-- Changing the active fibres after everyone has moved on. -/
theorem lanesDone_active {s : State} {c : Ctx} {g : Guard} {len : Nat} {us : SMap Reg → SMap Reg} {G : Lane → Fibre → Fibre}
    (h : (c.lanes.map (·.id)).Nodup) (hne : activeOf g c.lanes ≠ []) :
    (activeOf g c.lanes).foldl (fun s ln => s.modFibre c.u c.slot ln.id (G ln)) (lanesDone s c g len us fun _ f => f) =
      lanesDone s c g len us G := by
  have hn : ((activeOf g c.lanes).map (·.id)).Nodup := h.sublist (List.Sublist.map _ List.filter_sublist)
  rw [foldl_modFibre _ _ _ _ _ hn hne]
  unfold lanesDone
  rw [State.modGroup_modGroup]
  congr 1; funext gr; congr 1
  rw [List.map_map]
  apply List.map_congr_left
  intro e _
  simp only [Function.comp]
  cases hx : c.lanes.find? fun ln => ln.id == e.1 with
  | none =>
    have := find_active (g := g) h e.1
    rw [hx] at this
    simp only [this]
  | some ln =>
    have := find_active (g := g) h e.1
    rw [hx] at this
    by_cases hg : guardTrue g ln.f = true
    · simp only [hg, if_true] at this
      simp only [this, hg, if_true]
    · simp only [hg] at this
      simp only [hg]
      simp only [Bool.false_eq_true, if_false] at this ⊢
      simp only [this]

theorem lanesDone_idle {s : State} {c : Ctx} {g : Guard} {len : Nat} {us : SMap Reg → SMap Reg} {F G : Lane → Fibre → Fibre}
    (h : activeOf g c.lanes = []) : lanesDone s c g len us F = lanesDone s c g len us G := by
  unfold lanesDone
  congr 1; funext gr; congr 1
  apply List.map_congr_left
  intro e _
  cases hx : c.lanes.find? fun ln => ln.id == e.1 with
  | none => rfl
  | some ln =>
    have hm := List.mem_of_find?_eq_some hx
    by_cases hg : guardTrue g ln.f = true
    · have : ln ∈ activeOf g c.lanes := mem_activeOf.mpr ⟨hm, hg⟩
      rw [h] at this; cases this
    · simp only [hg]
      rfl

theorem foldl_applyEff (c : Ctx) (E : Lane → Eff) (L : List Lane) (s : State)
    (h : ∀ ln ∈ L, (∀ w ∈ (E ln).regs, w.1 = 0) ∧ (E ln).late = []) :
    (L.map fun ln => (ln, E ln)).foldl (fun s p => s.applyEff c p.1 p.2) s =
      L.foldl (fun s ln => s.modFibre c.u c.slot ln.id (effOn (E ln))) s := by
  induction L generalizing s with
  | nil => rfl
  | cons a t ih =>
    simp only [List.map_cons, List.foldl_cons]
    rw [applyEff_on _ _ _ _ (h a (by simp)).1 (h a (by simp)).2, ih _ fun ln hl => h ln (by simp [hl])]

/-- An execution whose effect is on its own fibres. -/
theorem runEff_done {s : State} {g : Guard} {len : Nat} {c : Ctx} {body : Ctx → Lane → Except Stop Eff} {E : Lane → Eff}
    (h : Issued s g c) (hb : ∀ ln, Active g c ln → body c ln = .ok (E ln))
    (hv : ∀ ln, Active g c ln → (∀ w ∈ (E ln).regs, w.1 = 0) ∧ (E ln).late = []) :
    runEff s g len false body = effDone s c g len false E := by
  unfold runEff effDone
  rw [runLanes_pass h hb]
  simp only [Bool.false_eq_true, if_false]
  by_cases hl : activeOf g c.lanes = []
  · rw [if_pos hl]; exact lanesDone_idle hl
  · rw [if_neg hl]
    simp only [commitOne, commitEffs, Bool.false_eq_true, if_false]
    rw [foldl_applyEff c E _ _ fun ln hm => hv ln (mem_activeOf.mp hm)]
    exact lanesDone_active h.distinct hl

theorem writeRegs_uniform (s : State) (u slot id : Nat) (ws : List (Nat × Nat × Word)) (h : ∀ w ∈ ws, w.1 = 1) :
    s.writeRegs u slot id ws = s.modGroup u slot (fun g => { g with uregs := putRegs g.uregs ws }) ∨ ws = [] := by
  induction ws generalizing s with
  | nil => exact .inr rfl
  | cons w t ih =>
    left
    obtain ⟨cl, n, v⟩ := w
    have h0 : cl = 1 := h (cl, n, v) (by simp)
    subst h0
    have hw : s.writeReg u slot id 1 n v = s.modGroup u slot fun g => { g with uregs := sset g.uregs n { val := v, st := .full } } := by
      rfl
    simp only [State.writeRegs, hw]
    rcases ih (s.modGroup u slot fun g => { g with uregs := sset g.uregs n { val := v, st := .full } })
      (fun w hw => h w (by simp [hw])) with h1 | rfl
    · rw [h1, State.modGroup_modGroup]; rfl
    · rfl

theorem find_guard (g : Guard) (ls : List Lane) : ls.find? (fun ln => guardTrue g ln.f) = (activeOf g ls).head? := by
  induction ls with
  | nil => rfl
  | cons a t ih =>
    by_cases hg : guardTrue g a.f = true
    · simp [activeOf, hg]
    · simp only [Bool.not_eq_true] at hg
      simp only [List.find?_cons, hg, activeOf, List.filter_cons, Bool.false_eq_true, if_false]
      exact ih

/-- The same with DU = 1: the first active lane's registers are the group's. -/
theorem runEff_done_uniform {s : State} {g : Guard} {len : Nat} {c : Ctx} {body : Ctx → Lane → Except Stop Eff} {E : Lane → Eff}
    (h : Issued s g c) (hb : ∀ ln, Active g c ln → body c ln = .ok (E ln))
    (hv : ∀ ln, Active g c ln → (∀ w ∈ (E ln).regs, w.1 = 1) ∧ (E ln).late = []) :
    runEff s g len true body = effDone s c g len true E := by
  unfold runEff effDone
  rw [runLanes_pass h hb]
  simp only [if_true, find_guard]
  cases hl : activeOf g c.lanes with
  | nil =>
    simp only [if_true, List.head?_nil]
    exact lanesDone_idle hl
  | cons a t =>
    have hm : ∀ ln ∈ a :: t, Active g c ln := fun ln hm => mem_activeOf.mp (hl ▸ hm)
    have hm' : ∀ ln ∈ t, Active g c ln := fun ln h' => hm ln (by simp [h'])
    simp only [List.cons_ne_nil, if_false, List.head?_cons, commitOne, if_true, List.map_cons]
    have hstep : ∀ s : State, s.applyEff c a (E a) =
        (s.modGroup c.u c.slot fun gr => { gr with uregs := putRegs gr.uregs (E a).regs }).modFibre c.u c.slot a.id
          (effOn { E a with regs := [] }) := by
      intro s
      have hv' := hv a (hm a (by simp))
      simp only [State.applyEff, hv'.2, List.isEmpty_nil, if_true]
      rcases writeRegs_uniform s c.u c.slot a.id (E a).regs hv'.1 with h1 | h1
      · rw [h1]; rfl
      · rw [h1]; simp only [State.writeRegs, putRegs]
        have : s.modGroup c.u c.slot (fun gr => { gr with uregs := gr.uregs }) = s.modGroup c.u c.slot fun gr => gr := rfl
        rw [this]
        simp only [State.modFibre, State.modGroup_modGroup]
        rfl
    have hrest : ∀ (L : List Lane) (s : State), (∀ ln ∈ L, (E ln).late = []) →
        (L.map fun ln => (ln, E ln)).foldl (fun s q => s.applyRest c q.1 q.2) s =
        L.foldl (fun s ln => s.modFibre c.u c.slot ln.id (effOn { E ln with regs := [] })) s := by
      intro L
      induction L with
      | nil => intro s _; rfl
      | cons b r ih =>
        intro s hL
        have hb : s.applyRest c b (E b) = s.modFibre c.u c.slot b.id (effOn { E b with regs := [] }) := by
          simp only [State.applyRest, hL b (by simp), List.isEmpty_nil, if_true]
          rw [applyEff_on _ _ _ _ (by simp) rfl]; rfl
        simp only [List.map_cons, List.foldl_cons]
        rw [hb, ih _ fun ln hm => hL ln (by simp [hm])]
    rw [hrest t _ fun ln hm => (hv ln (hm' ln hm)).2, hstep]
    have hus : (lanesDone s c g len id fun _ f => f).modGroup c.u c.slot
        (fun gr => { gr with uregs := putRegs gr.uregs (E a).regs }) =
        lanesDone s c g len (fun m => putRegs m (E a).regs) fun _ f => f := by
      unfold lanesDone; rw [State.modGroup_modGroup]; rfl
    rw [hus]
    have := lanesDone_active (s := s) (len := len) (us := fun m => putRegs m (E a).regs)
      (G := fun ln => effOn { E ln with regs := [] }) h.distinct (g := g) (by rw [hl]; simp)
    rw [hl] at this
    exact this

/-- Both cases of DU. -/
theorem runEff_eq {s : State} {g : Guard} {len : Nat} {du : Bool} {c : Ctx} {body : Ctx → Lane → Except Stop Eff} {E : Lane → Eff}
    (h : Issued s g c) (hb : ∀ ln, Active g c ln → body c ln = .ok (E ln))
    (hv : ∀ ln, Active g c ln → (∀ w ∈ (E ln).regs, w.1 = clsOf du) ∧ (E ln).late = []) :
    runEff s g len du body = effDone s c g len du E := by
  cases du
  · exact runEff_done h hb hv
  · exact runEff_done_uniform h hb hv

/-! ## Acts in lane order, and acts on the active fibres -/

/-- An execution whose commit goes through its lanes in order. -/
theorem runLanes_inOrder {α : Type} {s : State} {g : Guard} {len : Nat} {c : Ctx} {check : Ctx → Lane → Except Stop α}
    {commit : Ctx → State → List (Lane × α) → State} {V : Lane → α} (h : Issued s g c)
    (hc : ∀ ln, Active g c ln → check c ln = .ok (V ln)) (act : State → Lane → α → State)
    (hm : ∀ t l, commit c t l = l.foldl (fun s x => act s x.1 x.2) t) :
    Host.Outcome.next (runLanes s g len check commit) = ranInOrder s c g len V act := by
  unfold ranInOrder passedWith moved
  rw [runLanes_pass h hc]
  by_cases hl : activeOf g c.lanes = []
  · rw [if_pos hl, hl]; rfl
  · rw [if_neg hl, hm]

/-- An execution whose commit changes each active fibre on its own. -/
theorem runLanes_fibres {α : Type} {s : State} {g : Guard} {len : Nat} {c : Ctx} {check : Ctx → Lane → Except Stop α}
    {commit : Ctx → State → List (Lane × α) → State} {V : Lane → α} (h : Issued s g c)
    (hc : ∀ ln, Active g c ln → check c ln = .ok (V ln)) (G : Lane → Fibre → Fibre)
    (hm : commit c (moved s c g len) (passedWith g c V) =
      (activeOf g c.lanes).foldl (fun s ln => s.modFibre c.u c.slot ln.id (G ln)) (moved s c g len)) :
    runLanes s g len check commit = lanesDone s c g len id G := by
  rw [runLanes_pass h hc]
  by_cases hl : activeOf g c.lanes = []
  · rw [if_pos hl]; exact lanesDone_idle hl
  · rw [if_neg hl]
    unfold passedWith moved at hm
    rw [hm]
    exact lanesDone_active h.distinct hl

/-- Signing in lane order. -/
theorem commitSign_joined {α : Type} (sign : Ctx → State → Lane → α → SignEnd) (c : Ctx) (s : State) (l : List (Lane × α)) :
    commitSign sign c s l = l.foldl (fun s x => joined c s x.1 (sign c s x.1 x.2)) s := by
  induction l generalizing s with
  | nil => rfl
  | cons x t ih =>
    have e : commitSign sign c s (x :: t) = commitSign sign c (joined c s x.1 (sign c s x.1 x.2)) t := by
      unfold commitSign joined
      rw [List.foldl_cons]
      cases sign c s x.1 x.2 <;> rfl
    rw [e, ih, List.foldl_cons]

/-- The first active lane leads the active lanes. -/
theorem FirstActive.spec {g : Guard} {c : Ctx} {first : Lane} (hf : FirstActive g c first) :
    Active g c first ∧ ∃ l2, activeOf g c.lanes = first :: activeOf g l2 := by
  obtain ⟨l1, l2, hl, hg, hn⟩ := hf
  refine ⟨⟨by rw [hl]; simp, hg⟩, l2, ?_⟩
  rw [hl]
  simp only [activeOf, List.filter_append, List.filter_cons, hg, if_true]
  rw [List.filter_eq_nil_iff.mpr fun x hx => by simp [hn x hx]]; rfl

/-! ## Faults -/

theorem lanesOf_spec (g : Machine.Group) (pc : DWord) (l : Nat) (ids : List Nat) :
    ∀ ln ∈ lanesOf g pc l ids, sget g.fibres ln.id = some ln.f ∧ ln.f.pc = pc ∧ ln.f.canIssue = true := by
  induction ids generalizing l with
  | nil => intro ln h; simp [lanesOf] at h
  | cons i t ih =>
    intro ln h
    unfold lanesOf at h
    split at h
    · exact ih l ln h
    · rename_i f hf
      split at h
      · rename_i hc
        simp only [Bool.and_eq_true, decide_eq_true_eq] at hc
        rcases List.mem_cons.mp h with rfl | h
        · exact ⟨hf, hc.1, hc.2⟩
        · exact ih (l + 1) ln h
      · exact ih l ln h

/-- What a context says of its state: the group, and the fibres of its lanes. -/
theorem ctx_spec {s : State} {c : Ctx} (h : s.ctx = some c) :
    c.s = s ∧ s.group c.u c.slot = some c.g ∧ c.lanes ≠ [] ∧
      ∀ ln ∈ c.lanes, sget c.g.fibres ln.id = some ln.f ∧ ln.f.pc = c.pc ∧ ln.f.canIssue = true := by
  unfold State.ctx at h
  split at h
  · cases h
  · split at h
    · cases h
    · rename_i g hg
      split at h
      · split at h
        · cases h
        · rename_i ls hl
          cases h
          refine ⟨rfl, hg, hl, ?_⟩
          exact lanesOf_spec g _ 0 _
      · cases h

theorem takeFault_spec {s : State} {u slot reporter lane cause sub faddr : Nat} {stopped : List Nat} {fpc : DWord} {g : Machine.Group}
    {f : Fibre} (hg : s.group u slot = some g) (hf : sget g.fibres reporter = some f) :
    s.takeFault u slot stopped reporter lane cause sub faddr fpc =
      (s.modGroup u slot fun g =>
        { g with
          fibres := g.fibres.map fun e =>
            if stopped.contains e.1 then (e.1, faultFibre lane cause sub faddr fpc e.2) else e }).sendRecord (dieOf u)
        { tag := 0, fcause := fcauseWord lane sub cause, who := whoWord u slot reporter, faddr := BitVec.ofNat 64 faddr,
          fpc := fpc, domain := if cause = Cause.machineCheck || isSupCore u then 0 else domainOf g f, u := u, slot := slot,
          fibres := stopped } := by
  simp only [State.takeFault, hg, hf]

theorem blockedOf_nil {α : Type} {check : Lane → Except Stop α} (L : List Lane)
    (h : ∀ ln ∈ L, ∀ w, check ln ≠ .error (.block w)) : blockedOf (L.map fun ln => (ln, check ln)) = [] := by
  simp only [blockedOf, List.filterMap_eq_nil_iff, List.mem_map]
  rintro _ ⟨ln, hl, rfl⟩
  cases hc : check ln with
  | ok v => rfl
  | error e =>
    cases e with
    | fault k sb ad => rfl
    | block w => exact absurd hc (h ln hl w)

/-- The group of a context with the fibres `ids` at the next instruction. -/
def withPcs (c : Ctx) (len : Nat) (ids : List Nat) : Machine.Group :=
  { c.g with
    fibres := c.g.fibres.map fun e => if ids.contains e.1 then (e.1, { e.2 with pc := nextPc c.pc len }) else e }

/-- What is left of `runLanes` when no active lane waits and one of them faults. -/
theorem runLanes_fault {α : Type} {s : State} {g : Guard} {len : Nat} {c : Ctx} {check : Ctx → Lane → Except Stop α}
    {commit : Ctx → State → List (Lane × α) → State} {first : Lane} {cause sub addr : Nat} (h : Issued s g c)
    (hb : ∀ ln, Active g c ln → ∀ w, check c ln ≠ .error (.block w)) (ha : Active g c first)
    (hf : faultOf ((activeOf g c.lanes).map fun ln => (ln, check c ln)) = some (first, cause, sub, addr)) :
    runLanes s g len check commit = stoppedAt s c g len first cause sub addr := by
  have hbl := blockedOf_nil (check := check c) (activeOf g c.lanes) fun ln hl => hb ln (mem_activeOf.mp hl)
  obtain ⟨-, hgr, -, hl⟩ := ctx_spec h.ctx
  unfold runLanes
  rw [h.ctx]
  simp only [predBlocked_nil h.settled, predFree_all h.settled, List.map_nil, State.blockAll, hbl, hf]
  have hidle : ∀ k, (((c.lanes.filter fun ln => !guardTrue g ln.f).map (·.id)).contains k = true ↔
      ∃ ln, c.lanes.find? (fun ln => ln.id == k) = some ln ∧ ¬ guardTrue g ln.f = true) := by
    intro k
    have hd := h.distinct
    rw [List.contains_iff_mem]
    simp only [List.mem_map, List.mem_filter, Bool.not_eq_true']
    constructor
    · rintro ⟨ln, ⟨hm, hg⟩, rfl⟩
      have hs : (c.lanes.find? fun x => x.id == ln.id).isSome := by
        rw [← contains_ids, List.contains_iff_mem]; exact List.mem_map.mpr ⟨ln, hm, rfl⟩
      obtain ⟨x, hx⟩ := Option.isSome_iff_exists.mp hs
      have hxm := List.mem_of_find?_eq_some hx
      have hxi : x.id = ln.id := by simpa using List.find?_some hx
      have : x = ln := List.inj_on_of_nodup_map hd hxm hm hxi
      subst this
      exact ⟨x, hx, by simp [hg]⟩
    · rintro ⟨ln, hx, hg⟩
      exact ⟨ln, ⟨List.mem_of_find?_eq_some hx, by simpa using hg⟩, by simpa using List.find?_some hx⟩
  have hact : ∀ k, (((activeOf g c.lanes).map (·.id)).contains k = true ↔
      ∃ ln, c.lanes.find? (fun ln => ln.id == k) = some ln ∧ guardTrue g ln.f = true) := by
    intro k
    rw [contains_ids, find_active h.distinct]
    cases hx : c.lanes.find? fun ln => ln.id == k with
    | none => simp
    | some ln => by_cases hg : guardTrue g ln.f = true <;> simp [hg]
  have hfilter : ((activeOf g c.lanes).map (·.id)).filter (fun i => !([] : List Nat).contains i) = (activeOf g c.lanes).map (·.id) := by
    simp
  have hgr2 : (s.advance c len ((c.lanes.filter fun ln => !guardTrue g ln.f).map (·.id))).group c.u c.slot =
      some (withPcs c len ((c.lanes.filter fun ln => !guardTrue g ln.f).map (·.id))) := by
    simp [State.advance, hgr, withPcs]
  have hmap : ∀ (m : SMap Fibre) (p : Nat → Bool) (F : Fibre → Fibre) (k : Nat),
      sget (m.map fun e => if p e.1 then (e.1, F e.2) else e) k = (sget m k).map fun x => if p k then F x else x := by
    intro m p F k
    have := sget_map m k fun j x => if p j then F x else x
    rw [← this]
    congr 1
    apply List.map_congr_left
    intro e _
    by_cases hp : p e.1 <;> simp [hp]
  have hna : ((c.lanes.filter fun ln => !guardTrue g ln.f).map (·.id)).contains first.id = false := by
    rw [Bool.eq_false_iff]
    intro hc
    obtain ⟨x, hx, hg⟩ := (hidle _).mp hc
    have hxi : x.id = first.id := by simpa using List.find?_some hx
    have : x = first := List.inj_on_of_nodup_map h.distinct (List.mem_of_find?_eq_some hx) ha.1 hxi
    subst this
    exact hg ha.2
  have hff : sget (c.g.fibres.map fun e =>
        if ((c.lanes.filter fun ln => !guardTrue g ln.f).map (·.id)).contains e.1 then
          (e.1, { e.2 with pc := nextPc c.pc len }) else e) first.id = some first.f := by
    rw [hmap _ (fun k => ((c.lanes.filter fun ln => !guardTrue g ln.f).map (·.id)).contains k)
      (fun f => { f with pc := nextPc c.pc len })]
    rw [(hl first ha.1).1]; simp only [hna]; rfl
  rw [hfilter, takeFault_spec hgr2 hff]
  unfold stoppedAt State.advance
  rw [State.modGroup_modGroup]
  congr 1
  congr 1; funext gr; congr 1
  rw [List.map_map]
  apply List.map_congr_left
  intro e _
  simp only [Function.comp]
  cases hx : c.lanes.find? fun ln => ln.id == e.1 with
  | none =>
    have h1 : ((c.lanes.filter fun ln => !guardTrue g ln.f).map (·.id)).contains e.1 = false := by
      rw [Bool.eq_false_iff]; intro hc; obtain ⟨x, hx', _⟩ := (hidle _).mp hc; rw [hx] at hx'; cases hx'
    have h2 : ((activeOf g c.lanes).map (·.id)).contains e.1 = false := by
      rw [Bool.eq_false_iff]; intro hc; obtain ⟨x, hx', _⟩ := (hact _).mp hc; rw [hx] at hx'; cases hx'
    simp only [h1, h2, Bool.false_eq_true, if_false]
  | some ln =>
    by_cases hg : guardTrue g ln.f = true
    · have h1 : ((c.lanes.filter fun ln => !guardTrue g ln.f).map (·.id)).contains e.1 = false := by
        rw [Bool.eq_false_iff]; intro hc; obtain ⟨x, hx', hng⟩ := (hidle _).mp hc; rw [hx] at hx'; cases hx'; exact hng hg
      have h2 : ((activeOf g c.lanes).map (·.id)).contains e.1 = true := (hact _).mpr ⟨ln, hx, hg⟩
      simp only [h1, h2, Bool.false_eq_true, if_false, if_true, hg]
      rfl
    · have h1 : ((c.lanes.filter fun ln => !guardTrue g ln.f).map (·.id)).contains e.1 = true := (hidle _).mpr ⟨ln, hx, hg⟩
      have h2 : ((activeOf g c.lanes).map (·.id)).contains e.1 = false := by
        rw [Bool.eq_false_iff]; intro hc; obtain ⟨x, hx', hg'⟩ := (hact _).mp hc; rw [hx] at hx'; cases hx'; exact hg hg'
      simp only [h1, if_true, hg, if_false, h2, Bool.false_eq_true]

end Sys2Proof
end

