-- ==== Sys2Proof/Laws/Moulds.lean ====
section
/-! SUPPORT. One law for each shared frame of the arithmetic entries: what it answers when every active lane's operands are there. -/

namespace Sys2Proof

open Machine

theorem destWrites_cls (wide : Bool) (cls n : Nat) (v : DWord) : ∀ w ∈ destWrites wide cls n v, w.1 = cls := by
  intro w hw
  simp only [destWrites] at hw
  split at hw <;> simp at hw <;> rcases hw with rfl | rfl <;> rfl

theorem regWrites_cls (cls n : Nat) (vs : List Word) : ∀ w ∈ regWrites cls n vs, w.1 = cls := by
  induction vs generalizing n with
  | nil => intro w hw; simp [regWrites] at hw
  | cons v t ih =>
    intro w hw
    simp only [regWrites, List.mem_cons] at hw
    rcases hw with rfl | hw
    · rfl
    · exact ih (n + 1) w hw

variable {s : State} {c : Ctx} {o : OpT}

theorem mould_done {body : Ctx → Fibre → Except Stop DWord} {v : Lane → DWord} (h : Issued s o.g c) (hd : DestFree c o)
    (hb : ∀ ln, Active o.g c ln → body c ln.f = .ok (v ln)) : mould o s body = wrote s c o v := by
  unfold mould wrote
  congr 1
  apply runEff_eq h
  · intro ln hl
    rw [hb ln hl]
    show (do destsReady _ _ _ _ _; _) = _
    rw [hd ln hl]; rfl
  · exact fun ln _ => ⟨destWrites_cls _ _ _ _, rfl⟩

theorem mouldB_done {b : Lane → DWord} (h : Issued s o.g c) (hd : DestFree c o) (hb : ReadsB c o b) (r : Int → Int) :
    mouldB o s r = wrote s c o fun ln => intResult o.ty o.sat (r (intVal o.ty (b ln))) :=
  mould_done h hd fun ln hl => by rw [hb ln hl]; rfl

theorem mouldAB_done {a b : Lane → DWord} (h : Issued s o.g c) (hd : DestFree c o) (ha : ReadsA c o a) (hb : ReadsB c o b)
    (r : Int → Int → Int) :
    mouldAB o s r = wrote s c o fun ln => intResult o.ty o.sat (r (intVal o.ty (a ln)) (intVal o.ty (b ln))) :=
  mould_done h hd fun ln hl => by rw [ha ln hl, hb ln hl]; rfl

theorem mouldBits_done {a b : Lane → DWord} (h : Issued s o.g c) (hd : DestFree c o) (ha : ReadsA c o a) (hb : ReadsB c o b)
    (r : DWord → DWord → DWord) : mouldBits o s r = wrote s c o fun ln => r (a ln) (b ln) :=
  mould_done h hd fun ln hl => by rw [ha ln hl, hb ln hl]; rfl

theorem mouldABC_done {a b x : Lane → DWord} (h : Issued s o.g c) (hd : DestFree c o) (ha : ReadsA c o a) (hb : ReadsB c o b)
    (hx : ReadsC c o x) (r : DWord → DWord → DWord → DWord) :
    mouldABC o s r = wrote s c o fun ln => r (a ln) (b ln) (x ln) :=
  mould_done h hd fun ln hl => by rw [ha ln hl, hb ln hl, hx ln hl]; rfl

theorem mouldShift_done {a : Lane → DWord} {n : Lane → Word} (h : Issued s o.g c) (hd : DestFree c o) (ha : ReadsA c o a)
    (hn : ReadsB32 c o n) (r : DWord → Nat → DWord) : mouldShift o s r = wrote s c o fun ln => r (a ln) (n ln).toNat :=
  mould_done h hd fun ln hl => by rw [ha ln hl, hn ln hl]; rfl

/-- A uniform write of a pattern that differs only above the type's width is the same write. -/
theorem wrote_congr {v w : Lane → DWord} (h : ∀ ln, Active o.g c ln →
    destWrites (o.ty = 2) (clsOf o.du) o.d.toNat (v ln) = destWrites (o.ty = 2) (clsOf o.du) o.d.toNat (w ln)) :
    wrote s c o v = wrote s c o w := by
  unfold wrote effDone lanesDone
  congr 1
  by_cases hd : o.du = true
  · simp only [hd, if_true]
    congr 1; funext gr; congr 1
    cases hf : c.lanes.find? fun ln => guardTrue o.g ln.f with
    | none => rfl
    | some ln =>
      have hm := List.mem_of_find?_eq_some hf
      have hg := List.find?_some hf
      have := h ln ⟨hm, hg⟩
      rw [hd] at this
      simp only [this]
  · simp only [hd]
    simp only [Bool.false_eq_true, if_false]
    congr 1; funext gr; congr 1
    apply List.map_congr_left
    intro e _
    cases hf : c.lanes.find? fun ln => ln.id == e.1 with
    | none => rfl
    | some ln =>
      have hm := List.mem_of_find?_eq_some hf
      by_cases hg : guardTrue o.g ln.f = true
      · have := h ln ⟨hm, hg⟩
        simp only [hg, if_true, Bool.eq_false_iff.mpr hd] at this ⊢
        rw [this]
      · simp [hg]

theorem floatMould_done {body : Ctx → Fibre → Except Stop (Nat × BitVec 5)} {r : Lane → Nat × BitVec 5} (h : Issued s o.g c)
    (hd : DestsFree c o 1) (hb : ∀ ln, Active o.g c ln → body c ln.f = .ok (r ln)) :
    floatMould o s body = wroteFloat s c o r := by
  unfold floatMould wroteFloat
  congr 1
  apply runEff_eq h
  · intro ln hl
    have hd' := hd ln hl
    have hd1 : destReady c ln.f (clsOf o.du) o.d.toNat = .ok () := by
      simp only [destsReady] at hd'
      revert hd'
      cases destReady c ln.f (clsOf o.du) o.d.toNat <;> simp [bind, Except.bind]
    rw [hb ln hl]
    show (do destReady _ _ _ _; _) = _
    rw [hd1]; rfl
  · intro ln _
    refine ⟨?_, rfl⟩
    intro w hw; simp at hw; rw [hw]

theorem floatAB_done {a b : Lane → Word} (h : Issued s o.g c) (hd : DestsFree c o 1) (ha : ReadsA32 c o a) (hb : ReadsB32 c o b)
    (r : Val → Val → Nat × BitVec 5) :
    floatAB o s r = wroteFloat s c o fun ln =>
      flushOut (vecFmt o.ty) ln.f.ftz (r (inVal o.ty ln.f (a ln)) (inVal o.ty ln.f (b ln))) :=
  floatMould_done h hd fun ln hl => by rw [ha ln hl, hb ln hl]; rfl

theorem compareInt_done {a b : Lane → DWord} (h : Issued s o.g c) (ha : ReadsA c o a) (hb : ReadsB c o b)
    (hp : ∀ ln, Active o.g c ln → predReady ln.f (o.d.toNat % 8) = .ok ()) (r : Int → Int → Bool) :
    compareInt o s r = wrotePred s c o.g o.len (o.d.toNat % 8) fun ln => r (intVal o.ty (a ln)) (intVal o.ty (b ln)) := by
  unfold compareInt wrotePred
  congr 1
  apply runEff_done h
  · intro ln hl
    rw [ha ln hl, hb ln hl]
    show (do predReady _ _; _) = _
    rw [hp ln hl]; rfl
  · exact fun ln _ => ⟨by simp, rfl⟩

/-! ## Long-latency producers -/

theorem modFibre_same {s : State} {u slot id : Nat} {f : Core → Core} {k : Fibre → Fibre} (hk : ∀ x, k x = x) :
    (s.modCore u f).modFibre u slot id k = s.modCore u f := by
  simp only [State.modFibre, State.modGroup, State.modCore_modCore]
  congr 1; funext c
  rw [smod_same _ _ fun g => by rw [smod_same _ _ hk]]

theorem applyEff_late {s : State} {c : Ctx} {ln : Lane} {f : Core → Core} {cls d : Nat} {v : Word} {fl : BitVec 5} :
    (s.modCore c.u f).applyEff c ln { late := [(cls, d, v)], lateFlags := fl, holdsFlags := true } =
      ((s.modCore c.u f).setEmpty c.u c.slot ln.id cls d).addReturn c.u
        { id := 0, slot := c.slot, fibre := ln.id, dests := [(cls, d, v)], flags := fl, holdsFlags := true } := by
  simp only [State.applyEff, State.writeRegs, List.isEmpty_cons, Bool.false_eq_true, if_false, State.emptyRegs]
  rw [modFibre_same (fun x => by simp)]

/-- Every state of a fold over producers is a change of the core. -/
theorem addReturn_modCore (s : State) (u : Nat) (r : Return) :
    ∃ (s' : State) (f : Core → Core), s.addReturn u r = s'.modCore u f := ⟨_, _, rfl⟩

theorem lanesDone_modCore (s : State) (c : Ctx) (g : Guard) (len : Nat) (us : SMap Reg → SMap Reg) (F : Lane → Fibre → Fibre) :
    ∃ (s' : State) (f : Core → Core), lanesDone s c g len us F = s'.modCore c.u f := by
  unfold lanesDone State.modGroup
  exact ⟨_, _, rfl⟩

theorem foldl_late {c : Ctx} {cls d : Nat} (V : Lane → Word × BitVec 5) (L : List Lane) (s : State)
    (h : ∃ (s' : State) (f : Core → Core), s = s'.modCore c.u f) :
    (L.map fun ln => (ln, ({ late := [(cls, d, (V ln).1)], lateFlags := (V ln).2, holdsFlags := true } : Eff))).foldl
        (fun s p => s.applyEff c p.1 p.2) s =
      owes s c cls d (L.map fun ln => (ln, V ln)) := by
  induction L generalizing s with
  | nil => rfl
  | cons a t ih =>
    obtain ⟨s', f, rfl⟩ := h
    simp only [List.map_cons, List.foldl_cons, owes]
    rw [applyEff_late, ih _ (addReturn_modCore _ _ _)]
    rfl

theorem foldl_rest {c : Ctx} {cls d : Nat} (V : Lane → Word × BitVec 5) (L : List Lane) (s : State)
    (h : ∃ (s' : State) (f : Core → Core), s = s'.modCore c.u f) :
    (L.map fun ln => (ln, ({ late := [(cls, d, (V ln).1)], lateFlags := (V ln).2, holdsFlags := true } : Eff))).foldl
        (fun s q => s.applyRest c q.1 q.2) s =
      (L.map fun ln => (ln, V ln)).foldl (fun s x => s.addReturn c.u
        { id := 0, slot := c.slot, fibre := x.1.id, dests := [], flags := x.2.2, holdsFlags := true }) s := by
  induction L generalizing s with
  | nil => rfl
  | cons a t ih =>
    obtain ⟨s', f, rfl⟩ := h
    simp only [List.map_cons, List.foldl_cons]
    have : (s'.modCore c.u f).applyRest c a { late := [(cls, d, (V a).1)], lateFlags := (V a).2, holdsFlags := true } =
        (s'.modCore c.u f).addReturn c.u
          { id := 0, slot := c.slot, fibre := a.id, dests := [], flags := (V a).2, holdsFlags := true } := by
      have e : (s'.modCore c.u f).applyEff c a
          { late := [], lateFlags := 0, holdsFlags := true, regs := [], preds := [], flags := 0, pc := none } = s'.modCore c.u f := by
        simp only [State.applyEff, State.writeRegs, List.isEmpty_nil, if_true]
        exact modFibre_same fun x => by simp
      simp only [State.applyRest, List.isEmpty_cons, Bool.false_eq_true, if_false]
      rw [e]
    rw [this]
    exact ih _ (addReturn_modCore _ _ _)

/-- The answer of the special-function entries when every active lane's operand is there. -/
theorem sfuMould_done {b : Lane → Word} (h : Issued s o.g c) (hb : ReadsB32 c o b) (hd : DestsFree c o 1)
    (r : Bool → Word → Word × BitVec 5) :
    sfuMould o s r = .next ((if o.du then owesOnce else owes) (moved s c o.g o.len) c (clsOf o.du) o.d.toNat
      (passedWith o.g c fun ln => r ln.f.ftz (BitVec.ofNat 32 (flushIn fmtF32 ln.f.ftz (b ln).toNat)))) := by
  have hb' : ∀ ln, Active o.g c ln → (do
      let b ← srcB c ln.f o
      destReady c ln.f (clsOf o.du) o.d.toNat
      let v := r ln.f.ftz (BitVec.ofNat 32 (flushIn fmtF32 ln.f.ftz b.toNat))
      return { late := [(clsOf o.du, o.d.toNat, v.1)], lateFlags := v.2, holdsFlags := true } : Except Stop Eff) =
      .ok { late := [(clsOf o.du, o.d.toNat, (r ln.f.ftz (BitVec.ofNat 32 (flushIn fmtF32 ln.f.ftz (b ln).toNat))).1)],
            lateFlags := (r ln.f.ftz (BitVec.ofNat 32 (flushIn fmtF32 ln.f.ftz (b ln).toNat))).2, holdsFlags := true } := by
    intro ln hl
    have hd' := hd ln hl
    have hd1 : destReady c ln.f (clsOf o.du) o.d.toNat = .ok () := by
      simp only [destsReady] at hd'
      revert hd'
      cases destReady c ln.f (clsOf o.du) o.d.toNat <;> simp [bind, Except.bind]
    rw [hb ln hl]
    show (do destReady _ _ _ _; _) = _
    rw [hd1]; rfl
  unfold sfuMould runEff
  congr 1
  rw [runLanes_pass h hb']
  by_cases he : activeOf o.g c.lanes = []
  · cases o.du <;> simp [he, passedWith, owesOnce, owes, moved]
  · simp only [he, if_false, commitOne, commitEffs, passedWith, moved]
    have hm := lanesDone_modCore s c o.g o.len id fun _ f => f
    cases hdu : o.du
    · simp only [Bool.false_eq_true, if_false]
      exact foldl_late (fun ln => r ln.f.ftz (BitVec.ofNat 32 (flushIn fmtF32 ln.f.ftz (b ln).toNat))) _ _ hm
    · obtain ⟨a, t, hat⟩ := List.exists_cons_of_ne_nil he
      simp only [if_true, hat, List.map_cons, owesOnce]
      obtain ⟨s', f, hs'⟩ := hm
      rw [hs', applyEff_late, foldl_rest (fun ln => r ln.f.ftz (BitVec.ofNat 32 (flushIn fmtF32 ln.f.ftz (b ln).toNat))) _ _
        (addReturn_modCore _ _ _)]
      rfl

end Sys2Proof
end

