-- ==== Sys2Proof/Laws/PerInstr.lean ====
section
/-! SUPPORT. What each instruction's row of the opcode table says of its encoding, constructor by constructor. -/

namespace Sys2Proof.Laws.OpcodeShape

/-- An instruction that the opcode map encodes has an opcode of nine bits, and the formats which the map lists for that opcode hold
its operands and its length (R117, R123). An event has no encoding, and the statement asks nothing of it. -/
def Statement (i : Instr) : Prop :=
  ∀ opc ops, i.view = some (opc, ops) →
    opc < 512 ∧ instrOf opc ops = some i ∧
      ∃ f, opcodeFormats opc = some f ∧ ops.fits f = true ∧ (i.lengthOk = true → f.allows ops.len = true)

theorem allows_t (o : OpT) : FormatSet.ti.allows (Operands.len (.t o)) = true := by
  simp only [Operands.len]; split <;> rfl
theorem allows_i (o : OpT) (h : o.lit.isSome = true) : FormatSet.i.allows (Operands.len (.t o)) = true := by
  simp only [Operands.len, h, if_true]; rfl
theorem allows_m (o : OpM) : FormatSet.mml.allows (Operands.len (.m o)) = true := by
  simp only [Operands.len]; split <;> rfl

theorem nop (o : OpN) : Statement (.nop o) := by
  intro opc ops h; cases h; exact ⟨by decide, rfl, _, rfl, rfl, fun _ => rfl⟩
theorem bkpt (o : OpN) : Statement (.bkpt o) := by
  intro opc ops h; cases h; exact ⟨by decide, rfl, _, rfl, rfl, fun _ => rfl⟩
theorem trap (o : OpU) : Statement (.trap o) := by
  intro opc ops h; cases h; exact ⟨by decide, rfl, _, rfl, rfl, fun _ => rfl⟩
theorem syscall (o : OpU) : Statement (.syscall o) := by
  intro opc ops h; cases h; exact ⟨by decide, rfl, _, rfl, rfl, fun _ => rfl⟩
theorem bra (o : OpJ) : Statement (.bra o) := by
  intro opc ops h; cases h; exact ⟨by decide, rfl, _, rfl, rfl, fun _ => rfl⟩
theorem brx (o : OpU) : Statement (.brx o) := by
  intro opc ops h; cases h; exact ⟨by decide, rfl, _, rfl, rfl, fun _ => rfl⟩
theorem call (o : OpJ) : Statement (.call o) := by
  intro opc ops h; cases h; exact ⟨by decide, rfl, _, rfl, rfl, fun _ => rfl⟩
theorem ret (o : OpN) : Statement (.ret o) := by
  intro opc ops h; cases h; exact ⟨by decide, rfl, _, rfl, rfl, fun _ => rfl⟩
theorem eret (o : OpN) : Statement (.eret o) := by
  intro opc ops h; cases h; exact ⟨by decide, rfl, _, rfl, rfl, fun _ => rfl⟩
theorem exit (o : OpN) : Statement (.exit o) := by
  intro opc ops h; cases h; exact ⟨by decide, rfl, _, rfl, rfl, fun _ => rfl⟩
theorem spawn (o : OpJ) : Statement (.spawn o) := by
  intro opc ops h; cases h; exact ⟨by decide, rfl, _, rfl, rfl, fun _ => rfl⟩
theorem yield (o : OpN) : Statement (.yield o) := by
  intro opc ops h; cases h; exact ⟨by decide, rfl, _, rfl, rfl, fun _ => rfl⟩
theorem bcol (o : OpJ) : Statement (.bcol o) := by
  intro opc ops h; cases h; exact ⟨by decide, rfl, _, rfl, rfl, fun _ => rfl⟩
theorem colrd (o : OpT) : Statement (.colrd o) := by
  intro opc ops h; cases h; exact ⟨by decide, rfl, _, rfl, rfl, fun _ => allows_t o⟩
theorem mfsr (o : OpS) : Statement (.mfsr o) := by
  intro opc ops h; cases h; exact ⟨by decide, rfl, _, rfl, rfl, fun _ => rfl⟩
theorem mtsr (o : OpS) : Statement (.mtsr o) := by
  intro opc ops h; cases h; exact ⟨by decide, rfl, _, rfl, rfl, fun _ => rfl⟩
theorem barGrp (o : OpN) : Statement (.barGrp o) := by
  intro opc ops h; cases h; exact ⟨by decide, rfl, _, rfl, rfl, fun _ => rfl⟩
theorem barGang (o : OpN) : Statement (.barGang o) := by
  intro opc ops h; cases h; exact ⟨by decide, rfl, _, rfl, rfl, fun _ => rfl⟩
theorem signInit (o : OpT) : Statement (.signInit o) := by
  intro opc ops h; cases h; exact ⟨by decide, rfl, _, rfl, rfl, fun _ => allows_t o⟩
theorem signArv (o : OpT) : Statement (.signArv o) := by
  intro opc ops h; cases h; exact ⟨by decide, rfl, _, rfl, rfl, fun _ => allows_t o⟩
theorem signWait (o : OpT) : Statement (.signWait o) := by
  intro opc ops h; cases h; exact ⟨by decide, rfl, _, rfl, rfl, fun _ => allows_t o⟩
theorem rgn (o : OpG) : Statement (.rgn o) := by
  intro opc ops h; cases h; exact ⟨by decide, rfl, _, rfl, rfl, fun _ => rfl⟩
theorem gcall (o : OpT) : Statement (.gcall o) := by
  intro opc ops h; cases h; exact ⟨by decide, rfl, _, rfl, rfl, allows_i o⟩
theorem gret (o : OpN) : Statement (.gret o) := by
  intro opc ops h; cases h; exact ⟨by decide, rfl, _, rfl, rfl, fun _ => rfl⟩
theorem migr (o : OpM) : Statement (.migr o) := by
  intro opc ops h; cases h; exact ⟨by decide, rfl, _, rfl, rfl, fun _ => allows_m o⟩
theorem plop (o : OpP) : Statement (.plop o) := by
  intro opc ops h; cases h; exact ⟨by decide, rfl, _, rfl, rfl, fun _ => rfl⟩
theorem mov (o : OpU) : Statement (.mov o) := by
  intro opc ops h; cases h; exact ⟨by decide, rfl, _, rfl, rfl, fun _ => rfl⟩
theorem movi (o : OpT) : Statement (.movi o) := by
  intro opc ops h; cases h; exact ⟨by decide, rfl, _, rfl, rfl, allows_i o⟩
theorem sel (o : OpT) : Statement (.sel o) := by
  intro opc ops h; cases h; exact ⟨by decide, rfl, _, rfl, rfl, fun _ => allows_t o⟩
theorem dcinit (o : OpT) : Statement (.dcinit o) := by
  intro opc ops h; cases h; exact ⟨by decide, rfl, _, rfl, rfl, fun _ => allows_t o⟩
theorem dcadd (o : OpT) : Statement (.dcadd o) := by
  intro opc ops h; cases h; exact ⟨by decide, rfl, _, rfl, rfl, fun _ => allows_t o⟩
theorem dcwait (o : OpT) : Statement (.dcwait o) := by
  intro opc ops h; cases h; exact ⟨by decide, rfl, _, rfl, rfl, fun _ => allows_t o⟩
theorem tenq (o : OpT) : Statement (.tenq o) := by
  intro opc ops h; cases h; exact ⟨by decide, rfl, _, rfl, rfl, fun _ => allows_t o⟩
theorem tdeq (o : OpT) : Statement (.tdeq o) := by
  intro opc ops h; cases h; exact ⟨by decide, rfl, _, rfl, rfl, fun _ => allows_t o⟩
theorem tdone (o : OpN) : Statement (.tdone o) := by
  intro opc ops h; cases h; exact ⟨by decide, rfl, _, rfl, rfl, fun _ => rfl⟩
theorem cbacq (o : OpT) : Statement (.cbacq o) := by
  intro opc ops h; cases h; exact ⟨by decide, rfl, _, rfl, rfl, fun _ => allows_t o⟩
theorem cbrel (o : OpT) : Statement (.cbrel o) := by
  intro opc ops h; cases h; exact ⟨by decide, rfl, _, rfl, rfl, fun _ => allows_t o⟩
theorem msend (o : OpT) : Statement (.msend o) := by
  intro opc ops h; cases h; exact ⟨by decide, rfl, _, rfl, rfl, fun _ => allows_t o⟩
theorem mrecv (o : OpT) : Statement (.mrecv o) := by
  intro opc ops h; cases h; exact ⟨by decide, rfl, _, rfl, rfl, fun _ => allows_t o⟩
theorem tinv (o : OpM) : Statement (.tinv o) := by
  intro opc ops h; cases h; exact ⟨by decide, rfl, _, rfl, rfl, fun _ => allows_m o⟩
theorem lpin (o : OpM) : Statement (.lpin o) := by
  intro opc ops h; cases h; exact ⟨by decide, rfl, _, rfl, rfl, fun _ => allows_m o⟩
theorem lunpin (o : OpM) : Statement (.lunpin o) := by
  intro opc ops h; cases h; exact ⟨by decide, rfl, _, rfl, rfl, fun _ => allows_m o⟩
theorem cflush (o : OpM) : Statement (.cflush o) := by
  intro opc ops h; cases h; exact ⟨by decide, rfl, _, rfl, rfl, fun _ => allows_m o⟩
theorem cinv (o : OpM) : Statement (.cinv o) := by
  intro opc ops h; cases h; exact ⟨by decide, rfl, _, rfl, rfl, fun _ => allows_m o⟩
theorem add (o : OpT) : Statement (.add o) := by
  intro opc ops h; cases h; exact ⟨by decide, rfl, _, rfl, rfl, fun _ => allows_t o⟩
theorem sub (o : OpT) : Statement (.sub o) := by
  intro opc ops h; cases h; exact ⟨by decide, rfl, _, rfl, rfl, fun _ => allows_t o⟩
theorem mul (o : OpT) : Statement (.mul o) := by
  intro opc ops h; cases h; exact ⟨by decide, rfl, _, rfl, rfl, fun _ => allows_t o⟩
theorem mulhi (o : OpT) : Statement (.mulhi o) := by
  intro opc ops h; cases h; exact ⟨by decide, rfl, _, rfl, rfl, fun _ => allows_t o⟩
theorem mad (o : OpT) : Statement (.mad o) := by
  intro opc ops h; cases h; exact ⟨by decide, rfl, _, rfl, rfl, fun _ => allows_t o⟩
theorem abs (o : OpT) : Statement (.abs o) := by
  intro opc ops h; cases h; exact ⟨by decide, rfl, _, rfl, rfl, fun _ => allows_t o⟩
theorem neg (o : OpT) : Statement (.neg o) := by
  intro opc ops h; cases h; exact ⟨by decide, rfl, _, rfl, rfl, fun _ => allows_t o⟩
theorem min (o : OpT) : Statement (.min o) := by
  intro opc ops h; cases h; exact ⟨by decide, rfl, _, rfl, rfl, fun _ => allows_t o⟩
theorem max (o : OpT) : Statement (.max o) := by
  intro opc ops h; cases h; exact ⟨by decide, rfl, _, rfl, rfl, fun _ => allows_t o⟩
theorem and (o : OpT) : Statement (.and o) := by
  intro opc ops h; cases h; exact ⟨by decide, rfl, _, rfl, rfl, fun _ => allows_t o⟩
theorem or (o : OpT) : Statement (.or o) := by
  intro opc ops h; cases h; exact ⟨by decide, rfl, _, rfl, rfl, fun _ => allows_t o⟩
theorem xor (o : OpT) : Statement (.xor o) := by
  intro opc ops h; cases h; exact ⟨by decide, rfl, _, rfl, rfl, fun _ => allows_t o⟩
theorem not (o : OpU) : Statement (.not o) := by
  intro opc ops h; cases h; exact ⟨by decide, rfl, _, rfl, rfl, fun _ => rfl⟩
theorem shl (o : OpT) : Statement (.shl o) := by
  intro opc ops h; cases h; exact ⟨by decide, rfl, _, rfl, rfl, fun _ => allows_t o⟩
theorem shr (o : OpT) : Statement (.shr o) := by
  intro opc ops h; cases h; exact ⟨by decide, rfl, _, rfl, rfl, fun _ => allows_t o⟩
theorem shra (o : OpT) : Statement (.shra o) := by
  intro opc ops h; cases h; exact ⟨by decide, rfl, _, rfl, rfl, fun _ => allows_t o⟩
theorem rot (o : OpT) : Statement (.rot o) := by
  intro opc ops h; cases h; exact ⟨by decide, rfl, _, rfl, rfl, fun _ => allows_t o⟩
theorem bfi (o : OpT) : Statement (.bfi o) := by
  intro opc ops h; cases h; exact ⟨by decide, rfl, _, rfl, rfl, fun _ => allows_t o⟩
theorem bfx (o : OpT) : Statement (.bfx o) := by
  intro opc ops h; cases h; exact ⟨by decide, rfl, _, rfl, rfl, fun _ => allows_t o⟩
theorem brev (o : OpU) : Statement (.brev o) := by
  intro opc ops h; cases h; exact ⟨by decide, rfl, _, rfl, rfl, fun _ => rfl⟩
theorem clz (o : OpU) : Statement (.clz o) := by
  intro opc ops h; cases h; exact ⟨by decide, rfl, _, rfl, rfl, fun _ => rfl⟩
theorem popc (o : OpU) : Statement (.popc o) := by
  intro opc ops h; cases h; exact ⟨by decide, rfl, _, rfl, rfl, fun _ => rfl⟩
theorem lea (o : OpT) : Statement (.lea o) := by
  intro opc ops h; cases h; exact ⟨by decide, rfl, _, rfl, rfl, fun _ => allows_t o⟩
theorem idp4 (o : OpT) : Statement (.idp4 o) := by
  intro opc ops h; cases h; exact ⟨by decide, rfl, _, rfl, rfl, fun _ => allows_t o⟩
theorem cmpEq (o : OpT) : Statement (.cmpEq o) := by
  intro opc ops h; cases h; exact ⟨by decide, rfl, _, rfl, rfl, fun _ => allows_t o⟩
theorem cmpNe (o : OpT) : Statement (.cmpNe o) := by
  intro opc ops h; cases h; exact ⟨by decide, rfl, _, rfl, rfl, fun _ => allows_t o⟩
theorem cmpLt (o : OpT) : Statement (.cmpLt o) := by
  intro opc ops h; cases h; exact ⟨by decide, rfl, _, rfl, rfl, fun _ => allows_t o⟩
theorem cmpLe (o : OpT) : Statement (.cmpLe o) := by
  intro opc ops h; cases h; exact ⟨by decide, rfl, _, rfl, rfl, fun _ => allows_t o⟩
theorem cmpGt (o : OpT) : Statement (.cmpGt o) := by
  intro opc ops h; cases h; exact ⟨by decide, rfl, _, rfl, rfl, fun _ => allows_t o⟩
theorem cmpGe (o : OpT) : Statement (.cmpGe o) := by
  intro opc ops h; cases h; exact ⟨by decide, rfl, _, rfl, rfl, fun _ => allows_t o⟩
theorem fadd (o : OpT) : Statement (.fadd o) := by
  intro opc ops h; cases h; exact ⟨by decide, rfl, _, rfl, rfl, fun _ => allows_t o⟩
theorem fsub (o : OpT) : Statement (.fsub o) := by
  intro opc ops h; cases h; exact ⟨by decide, rfl, _, rfl, rfl, fun _ => allows_t o⟩
theorem fmul (o : OpT) : Statement (.fmul o) := by
  intro opc ops h; cases h; exact ⟨by decide, rfl, _, rfl, rfl, fun _ => allows_t o⟩
theorem ffma (o : OpT) : Statement (.ffma o) := by
  intro opc ops h; cases h; exact ⟨by decide, rfl, _, rfl, rfl, fun _ => allows_t o⟩
theorem fmin (o : OpT) : Statement (.fmin o) := by
  intro opc ops h; cases h; exact ⟨by decide, rfl, _, rfl, rfl, fun _ => allows_t o⟩
theorem fmax (o : OpT) : Statement (.fmax o) := by
  intro opc ops h; cases h; exact ⟨by decide, rfl, _, rfl, rfl, fun _ => allows_t o⟩
theorem fcvt (o : OpT) : Statement (.fcvt o) := by
  intro opc ops h; cases h; exact ⟨by decide, rfl, _, rfl, rfl, fun _ => allows_t o⟩
theorem frnd (o : OpT) : Statement (.frnd o) := by
  intro opc ops h; cases h; exact ⟨by decide, rfl, _, rfl, rfl, fun _ => allows_t o⟩
theorem fcmpEq (o : OpT) : Statement (.fcmpEq o) := by
  intro opc ops h; cases h; exact ⟨by decide, rfl, _, rfl, rfl, fun _ => allows_t o⟩
theorem fcmpNe (o : OpT) : Statement (.fcmpNe o) := by
  intro opc ops h; cases h; exact ⟨by decide, rfl, _, rfl, rfl, fun _ => allows_t o⟩
theorem fcmpLt (o : OpT) : Statement (.fcmpLt o) := by
  intro opc ops h; cases h; exact ⟨by decide, rfl, _, rfl, rfl, fun _ => allows_t o⟩
theorem fcmpLe (o : OpT) : Statement (.fcmpLe o) := by
  intro opc ops h; cases h; exact ⟨by decide, rfl, _, rfl, rfl, fun _ => allows_t o⟩
theorem fcmpGt (o : OpT) : Statement (.fcmpGt o) := by
  intro opc ops h; cases h; exact ⟨by decide, rfl, _, rfl, rfl, fun _ => allows_t o⟩
theorem fcmpGe (o : OpT) : Statement (.fcmpGe o) := by
  intro opc ops h; cases h; exact ⟨by decide, rfl, _, rfl, rfl, fun _ => allows_t o⟩
theorem fcmpUn (o : OpT) : Statement (.fcmpUn o) := by
  intro opc ops h; cases h; exact ⟨by decide, rfl, _, rfl, rfl, fun _ => allows_t o⟩
theorem fcmpOrd (o : OpT) : Statement (.fcmpOrd o) := by
  intro opc ops h; cases h; exact ⟨by decide, rfl, _, rfl, rfl, fun _ => allows_t o⟩
theorem pack (o : OpT) : Statement (.pack o) := by
  intro opc ops h; cases h; exact ⟨by decide, rfl, _, rfl, rfl, fun _ => allows_t o⟩
theorem unpack (o : OpT) : Statement (.unpack o) := by
  intro opc ops h; cases h; exact ⟨by decide, rfl, _, rfl, rfl, fun _ => allows_t o⟩
theorem rcp (o : OpT) : Statement (.rcp o) := by
  intro opc ops h; cases h; exact ⟨by decide, rfl, _, rfl, rfl, fun _ => allows_t o⟩
theorem rsq (o : OpT) : Statement (.rsq o) := by
  intro opc ops h; cases h; exact ⟨by decide, rfl, _, rfl, rfl, fun _ => allows_t o⟩
theorem sqrt (o : OpT) : Statement (.sqrt o) := by
  intro opc ops h; cases h; exact ⟨by decide, rfl, _, rfl, rfl, fun _ => allows_t o⟩
theorem ex2 (o : OpT) : Statement (.ex2 o) := by
  intro opc ops h; cases h; exact ⟨by decide, rfl, _, rfl, rfl, fun _ => allows_t o⟩
theorem lg2 (o : OpT) : Statement (.lg2 o) := by
  intro opc ops h; cases h; exact ⟨by decide, rfl, _, rfl, rfl, fun _ => allows_t o⟩
theorem sin (o : OpT) : Statement (.sin o) := by
  intro opc ops h; cases h; exact ⟨by decide, rfl, _, rfl, rfl, fun _ => allows_t o⟩
theorem cos (o : OpT) : Statement (.cos o) := by
  intro opc ops h; cases h; exact ⟨by decide, rfl, _, rfl, rfl, fun _ => allows_t o⟩
theorem shflIdx (o : OpT) : Statement (.shflIdx o) := by
  intro opc ops h; cases h; exact ⟨by decide, rfl, _, rfl, rfl, fun _ => allows_t o⟩
theorem shflUp (o : OpT) : Statement (.shflUp o) := by
  intro opc ops h; cases h; exact ⟨by decide, rfl, _, rfl, rfl, fun _ => allows_t o⟩
theorem shflDown (o : OpT) : Statement (.shflDown o) := by
  intro opc ops h; cases h; exact ⟨by decide, rfl, _, rfl, rfl, fun _ => allows_t o⟩
theorem shflXor (o : OpT) : Statement (.shflXor o) := by
  intro opc ops h; cases h; exact ⟨by decide, rfl, _, rfl, rfl, fun _ => allows_t o⟩
theorem voteAny (o : OpT) : Statement (.voteAny o) := by
  intro opc ops h; cases h; exact ⟨by decide, rfl, _, rfl, rfl, fun _ => allows_t o⟩
theorem voteAll (o : OpT) : Statement (.voteAll o) := by
  intro opc ops h; cases h; exact ⟨by decide, rfl, _, rfl, rfl, fun _ => allows_t o⟩
theorem voteBallot (o : OpT) : Statement (.voteBallot o) := by
  intro opc ops h; cases h; exact ⟨by decide, rfl, _, rfl, rfl, fun _ => allows_t o⟩
theorem reduxAdd (o : OpT) : Statement (.reduxAdd o) := by
  intro opc ops h; cases h; exact ⟨by decide, rfl, _, rfl, rfl, fun _ => allows_t o⟩
theorem reduxMin (o : OpT) : Statement (.reduxMin o) := by
  intro opc ops h; cases h; exact ⟨by decide, rfl, _, rfl, rfl, fun _ => allows_t o⟩
theorem reduxMax (o : OpT) : Statement (.reduxMax o) := by
  intro opc ops h; cases h; exact ⟨by decide, rfl, _, rfl, rfl, fun _ => allows_t o⟩
theorem reduxAnd (o : OpT) : Statement (.reduxAnd o) := by
  intro opc ops h; cases h; exact ⟨by decide, rfl, _, rfl, rfl, fun _ => allows_t o⟩
theorem reduxOr (o : OpT) : Statement (.reduxOr o) := by
  intro opc ops h; cases h; exact ⟨by decide, rfl, _, rfl, rfl, fun _ => allows_t o⟩
theorem reduxXor (o : OpT) : Statement (.reduxXor o) := by
  intro opc ops h; cases h; exact ⟨by decide, rfl, _, rfl, rfl, fun _ => allows_t o⟩
theorem scanAdd (o : OpT) : Statement (.scanAdd o) := by
  intro opc ops h; cases h; exact ⟨by decide, rfl, _, rfl, rfl, fun _ => allows_t o⟩
theorem scanMin (o : OpT) : Statement (.scanMin o) := by
  intro opc ops h; cases h; exact ⟨by decide, rfl, _, rfl, rfl, fun _ => allows_t o⟩
theorem scanMax (o : OpT) : Statement (.scanMax o) := by
  intro opc ops h; cases h; exact ⟨by decide, rfl, _, rfl, rfl, fun _ => allows_t o⟩
theorem scanAnd (o : OpT) : Statement (.scanAnd o) := by
  intro opc ops h; cases h; exact ⟨by decide, rfl, _, rfl, rfl, fun _ => allows_t o⟩
theorem scanOr (o : OpT) : Statement (.scanOr o) := by
  intro opc ops h; cases h; exact ⟨by decide, rfl, _, rfl, rfl, fun _ => allows_t o⟩
theorem scanXor (o : OpT) : Statement (.scanXor o) := by
  intro opc ops h; cases h; exact ⟨by decide, rfl, _, rfl, rfl, fun _ => allows_t o⟩
theorem ld (o : OpM) : Statement (.ld o) := by
  intro opc ops h; cases h; exact ⟨by decide, rfl, _, rfl, rfl, fun _ => allows_m o⟩
theorem st (o : OpM) : Statement (.st o) := by
  intro opc ops h; cases h; exact ⟨by decide, rfl, _, rfl, rfl, fun _ => allows_m o⟩
theorem stm (o : OpM) : Statement (.stm o) := by
  intro opc ops h; cases h; exact ⟨by decide, rfl, _, rfl, rfl, fun _ => allows_m o⟩
theorem fence (o : OpM) : Statement (.fence o) := by
  intro opc ops h; cases h; exact ⟨by decide, rfl, _, rfl, rfl, fun _ => allows_m o⟩
theorem cpy (o : OpM) : Statement (.cpy o) := by
  intro opc ops h; cases h; exact ⟨by decide, rfl, _, rfl, rfl, fun _ => allows_m o⟩
theorem cpyCb (o : OpM) : Statement (.cpyCb o) := by
  intro opc ops h; cases h; exact ⟨by decide, rfl, _, rfl, rfl, fun _ => allows_m o⟩
theorem ridge (o : OpM) : Statement (.ridge o) := by
  intro opc ops h; cases h; exact ⟨by decide, rfl, _, rfl, rfl, fun _ => allows_m o⟩
theorem atomAdd (o : OpM) : Statement (.atomAdd o) := by
  intro opc ops h; cases h; exact ⟨by decide, rfl, _, rfl, rfl, fun _ => allows_m o⟩
theorem atomMin (o : OpM) : Statement (.atomMin o) := by
  intro opc ops h; cases h; exact ⟨by decide, rfl, _, rfl, rfl, fun _ => allows_m o⟩
theorem atomMax (o : OpM) : Statement (.atomMax o) := by
  intro opc ops h; cases h; exact ⟨by decide, rfl, _, rfl, rfl, fun _ => allows_m o⟩
theorem atomAnd (o : OpM) : Statement (.atomAnd o) := by
  intro opc ops h; cases h; exact ⟨by decide, rfl, _, rfl, rfl, fun _ => allows_m o⟩
theorem atomOr (o : OpM) : Statement (.atomOr o) := by
  intro opc ops h; cases h; exact ⟨by decide, rfl, _, rfl, rfl, fun _ => allows_m o⟩
theorem atomXor (o : OpM) : Statement (.atomXor o) := by
  intro opc ops h; cases h; exact ⟨by decide, rfl, _, rfl, rfl, fun _ => allows_m o⟩
theorem atomExch (o : OpM) : Statement (.atomExch o) := by
  intro opc ops h; cases h; exact ⟨by decide, rfl, _, rfl, rfl, fun _ => allows_m o⟩
theorem atomCas (o : OpM) : Statement (.atomCas o) := by
  intro opc ops h; cases h; exact ⟨by decide, rfl, _, rfl, rfl, fun _ => allows_m o⟩
theorem redAdd (o : OpM) : Statement (.redAdd o) := by
  intro opc ops h; cases h; exact ⟨by decide, rfl, _, rfl, rfl, fun _ => allows_m o⟩
theorem redMin (o : OpM) : Statement (.redMin o) := by
  intro opc ops h; cases h; exact ⟨by decide, rfl, _, rfl, rfl, fun _ => allows_m o⟩
theorem redMax (o : OpM) : Statement (.redMax o) := by
  intro opc ops h; cases h; exact ⟨by decide, rfl, _, rfl, rfl, fun _ => allows_m o⟩
theorem redAnd (o : OpM) : Statement (.redAnd o) := by
  intro opc ops h; cases h; exact ⟨by decide, rfl, _, rfl, rfl, fun _ => allows_m o⟩
theorem redOr (o : OpM) : Statement (.redOr o) := by
  intro opc ops h; cases h; exact ⟨by decide, rfl, _, rfl, rfl, fun _ => allows_m o⟩
theorem redXor (o : OpM) : Statement (.redXor o) := by
  intro opc ops h; cases h; exact ⟨by decide, rfl, _, rfl, rfl, fun _ => allows_m o⟩
theorem dsopAdd (o : OpM) : Statement (.dsopAdd o) := by
  intro opc ops h; cases h; exact ⟨by decide, rfl, _, rfl, rfl, fun _ => allows_m o⟩
theorem dsopMin (o : OpM) : Statement (.dsopMin o) := by
  intro opc ops h; cases h; exact ⟨by decide, rfl, _, rfl, rfl, fun _ => allows_m o⟩
theorem dsopMax (o : OpM) : Statement (.dsopMax o) := by
  intro opc ops h; cases h; exact ⟨by decide, rfl, _, rfl, rfl, fun _ => allows_m o⟩
theorem dsopAnd (o : OpM) : Statement (.dsopAnd o) := by
  intro opc ops h; cases h; exact ⟨by decide, rfl, _, rfl, rfl, fun _ => allows_m o⟩
theorem dsopOr (o : OpM) : Statement (.dsopOr o) := by
  intro opc ops h; cases h; exact ⟨by decide, rfl, _, rfl, rfl, fun _ => allows_m o⟩
theorem dsopXor (o : OpM) : Statement (.dsopXor o) := by
  intro opc ops h; cases h; exact ⟨by decide, rfl, _, rfl, rfl, fun _ => allows_m o⟩
theorem dsopFma (o : OpM) : Statement (.dsopFma o) := by
  intro opc ops h; cases h; exact ⟨by decide, rfl, _, rfl, rfl, fun _ => allows_m o⟩
theorem dsredAdd (o : OpM) : Statement (.dsredAdd o) := by
  intro opc ops h; cases h; exact ⟨by decide, rfl, _, rfl, rfl, fun _ => allows_m o⟩
theorem dsredMin (o : OpM) : Statement (.dsredMin o) := by
  intro opc ops h; cases h; exact ⟨by decide, rfl, _, rfl, rfl, fun _ => allows_m o⟩
theorem dsredMax (o : OpM) : Statement (.dsredMax o) := by
  intro opc ops h; cases h; exact ⟨by decide, rfl, _, rfl, rfl, fun _ => allows_m o⟩
theorem dsredAnd (o : OpM) : Statement (.dsredAnd o) := by
  intro opc ops h; cases h; exact ⟨by decide, rfl, _, rfl, rfl, fun _ => allows_m o⟩
theorem dsredOr (o : OpM) : Statement (.dsredOr o) := by
  intro opc ops h; cases h; exact ⟨by decide, rfl, _, rfl, rfl, fun _ => allows_m o⟩
theorem dsredXor (o : OpM) : Statement (.dsredXor o) := by
  intro opc ops h; cases h; exact ⟨by decide, rfl, _, rfl, rfl, fun _ => allows_m o⟩
theorem dsredAddRet (o : OpM) : Statement (.dsredAddRet o) := by
  intro opc ops h; cases h; exact ⟨by decide, rfl, _, rfl, rfl, fun _ => allows_m o⟩
theorem dsredMinRet (o : OpM) : Statement (.dsredMinRet o) := by
  intro opc ops h; cases h; exact ⟨by decide, rfl, _, rfl, rfl, fun _ => allows_m o⟩
theorem dsredMaxRet (o : OpM) : Statement (.dsredMaxRet o) := by
  intro opc ops h; cases h; exact ⟨by decide, rfl, _, rfl, rfl, fun _ => allows_m o⟩
theorem dsredAndRet (o : OpM) : Statement (.dsredAndRet o) := by
  intro opc ops h; cases h; exact ⟨by decide, rfl, _, rfl, rfl, fun _ => allows_m o⟩
theorem dsredOrRet (o : OpM) : Statement (.dsredOrRet o) := by
  intro opc ops h; cases h; exact ⟨by decide, rfl, _, rfl, rfl, fun _ => allows_m o⟩
theorem dsredXorRet (o : OpM) : Statement (.dsredXorRet o) := by
  intro opc ops h; cases h; exact ⟨by decide, rfl, _, rfl, rfl, fun _ => allows_m o⟩
theorem mma (o : OpX) : Statement (.mma o) := by
  intro opc ops h; cases h; exact ⟨by decide, rfl, _, rfl, rfl, fun _ => rfl⟩
theorem adrain (o : OpX) : Statement (.adrain o) := by
  intro opc ops h; cases h; exact ⟨by decide, rfl, _, rfl, rfl, fun _ => rfl⟩
theorem adrainByp (o : OpX) : Statement (.adrainByp o) := by
  intro opc ops h; cases h; exact ⟨by decide, rfl, _, rfl, rfl, fun _ => rfl⟩
theorem azero (o : OpX) : Statement (.azero o) := by
  intro opc ops h; cases h; exact ⟨by decide, rfl, _, rfl, rfl, fun _ => rfl⟩
theorem tld (o : OpX) : Statement (.tld o) := by
  intro opc ops h; cases h; exact ⟨by decide, rfl, _, rfl, rfl, fun _ => rfl⟩
theorem tst (o : OpX) : Statement (.tst o) := by
  intro opc ops h; cases h; exact ⟨by decide, rfl, _, rfl, rfl, fun _ => rfl⟩
theorem txp (o : OpX) : Statement (.txp o) := by
  intro opc ops h; cases h; exact ⟨by decide, rfl, _, rfl, rfl, fun _ => rfl⟩
theorem tperm (o : OpX) : Statement (.tperm o) := by
  intro opc ops h; cases h; exact ⟨by decide, rfl, _, rfl, rfl, fun _ => rfl⟩
theorem trred (o : OpX) : Statement (.trred o) := by
  intro opc ops h; cases h; exact ⟨by decide, rfl, _, rfl, rfl, fun _ => rfl⟩
theorem illegalEncoding (err : _) : Statement (.illegalEncoding err) := by intro opc ops h; cases h
theorem lineFill (u : _) (line : _) (x1 : _) (x2 : _) : Statement (.lineFill u line x1 x2) := by intro opc ops h; cases h
theorem longLatencyReturn (u : _) (idx : _) (ecc : _) : Statement (.longLatencyReturn u idx ecc) := by intro opc ops h; cases h
theorem waitResume (u : _) (slot : _) (fibre : _) : Statement (.waitResume u slot fibre) := by intro opc ops h; cases h
theorem issueOpportunity (u : _) (gather : _) : Statement (.issueOpportunity u gather) := by intro opc ops h; cases h
theorem colwaitResume (u : _) (slot : _) : Statement (.colwaitResume u slot) := by intro opc ops h; cases h
theorem drowsyEntry (u : _) (slot : _) : Statement (.drowsyEntry u slot) := by intro opc ops h; cases h
theorem storeApply (die : _) (idx : _) : Statement (.storeApply die idx) := by intro opc ops h; cases h
theorem leaseExpiry (u : _) (line : _) : Statement (.leaseExpiry u line) := by intro opc ops h; cases h
theorem scTicket (idx : _) : Statement (.scTicket idx) := by intro opc ops h; cases h
theorem directoryRequest (die : _) (line : _) (core : _) (kind : _) : Statement (.directoryRequest die line core kind) := by intro opc ops h; cases h
theorem invack (die : _) (line : _) (core : _) : Statement (.invack die line core) := by intro opc ops h; cases h
theorem ownerAck (die : _) (line : _) (core : _) : Statement (.ownerAck die line core) := by intro opc ops h; cases h
theorem putRequest (die : _) (line : _) (core : _) : Statement (.putRequest die line core) := by intro opc ops h; cases h
theorem invReceive (die : _) (line : _) (core : _) : Statement (.invReceive die line core) := by intro opc ops h; cases h
theorem fwdGets (die : _) (line : _) (core : _) : Statement (.fwdGets die line core) := by intro opc ops h; cases h
theorem fwdGetx (die : _) (line : _) (core : _) : Statement (.fwdGetx die line core) := by intro opc ops h; cases h
theorem grantOrData (die : _) (line : _) (core : _) : Statement (.grantOrData die line core) := by intro opc ops h; cases h
theorem putack (die : _) (line : _) (core : _) : Statement (.putack die line core) := by intro opc ops h; cases h
theorem dsmBankOperation (die : _) (idx : _) : Statement (.dsmBankOperation die idx) := by intro opc ops h; cases h
theorem copyRegister (u : _) (idx : _) : Statement (.copyRegister u idx) := by intro opc ops h; cases h
theorem copyLaneComplete (u : _) (idx : _) : Statement (.copyLaneComplete u idx) := by intro opc ops h; cases h
theorem cbClaim (u : _) (idx : _) : Statement (.cbClaim u idx) := by intro opc ops h; cases h
theorem cbSlotFilled (u : _) (slot : _) (block : _) : Statement (.cbSlotFilled u slot block) := by intro opc ops h; cases h
theorem copySourceError (u : _) (idx : _) (piece : _) : Statement (.copySourceError u idx piece) := by intro opc ops h; cases h
theorem matrixEntryStart (u : _) : Statement (.matrixEntryStart u) := by intro opc ops h; cases h
theorem matrixEntryComplete (u : _) (idx : _) : Statement (.matrixEntryComplete u idx) := by intro opc ops h; cases h
theorem drainWriteComplete (u : _) (idx : _) : Statement (.drainWriteComplete u idx) := by intro opc ops h; cases h
theorem tldComplete (u : _) (idx : _) (bad : _) : Statement (.tldComplete u idx bad) := by intro opc ops h; cases h
theorem tstComplete (u : _) (idx : _) : Statement (.tstComplete u idx) := by intro opc ops h; cases h
theorem watchedStore (vf : _) (slot : _) (value : _) : Statement (.watchedStore vf slot value) := by intro opc ops h; cases h
theorem pendingLaunchEntry (die : _) : Statement (.pendingLaunchEntry die) := by intro opc ops h; cases h
theorem tenqEntry (die : _) : Statement (.tenqEntry die) := by intro opc ops h; cases h
theorem taskDispatch (u : _) : Statement (.taskDispatch u) := by intro opc ops h; cases h
theorem reservingTimeout (task : _) : Statement (.reservingTimeout task) := by intro opc ops h; cases h
theorem reservationComplete (task : _) : Statement (.reservationComplete task) := by intro opc ops h; cases h
theorem hintTimeout (task : _) : Statement (.hintTimeout task) := by intro opc ops h; cases h
theorem deferredGroupStart (u : _) (slot : _) : Statement (.deferredGroupStart u slot) := by intro opc ops h; cases h
theorem groupEnd (u : _) (slot : _) : Statement (.groupEnd u slot) := by intro opc ops h; cases h
theorem taskDrainComplete (task : _) : Statement (.taskDrainComplete task) := by intro opc ops h; cases h
theorem launchComplete (launch : _) : Statement (.launchComplete launch) := by intro opc ops h; cases h
theorem startBlockGo (die : _) (sc : _) : Statement (.startBlockGo die sc) := by intro opc ops h; cases h
theorem registerPortRead (die : _) : Statement (.registerPortRead die) := by intro opc ops h; cases h
theorem registerPortWrite (die : _) : Statement (.registerPortWrite die) := by intro opc ops h; cases h
theorem responseResume (die : _) (tag : _) : Statement (.responseResume die tag) := by intro opc ops h; cases h
theorem responseSkip (die : _) (tag : _) : Statement (.responseSkip die tag) := by intro opc ops h; cases h
theorem responseRedirect (die : _) (tag : _) (target : _) : Statement (.responseRedirect die tag target) := by intro opc ops h; cases h
theorem responseKill (die : _) (tag : _) : Statement (.responseKill die tag) := by intro opc ops h; cases h
theorem preqRequest (die : _) (domain : _) (cores : _) : Statement (.preqRequest die domain cores) := by intro opc ops h; cases h
theorem preqRelease (die : _) (domain : _) : Statement (.preqRelease die domain) := by intro opc ops h; cases h
theorem graceTimerExpiry (die : _) (domain : _) : Statement (.graceTimerExpiry die domain) := by intro opc ops h; cases h
theorem saveTimerExpiry (die : _) (domain : _) : Statement (.saveTimerExpiry die domain) := by intro opc ops h; cases h
theorem savedTaskRestore (task : _) : Statement (.savedTaskRestore task) := by intro opc ops h; cases h
theorem discardRestart (task : _) : Statement (.discardRestart task) := by intro opc ops h; cases h
theorem vfReset (vf : _) : Statement (.vfReset vf) := by intro opc ops h; cases h
theorem shootdownRetract (die : _) : Statement (.shootdownRetract die) := by intro opc ops h; cases h
theorem shootdownCommit (die : _) : Statement (.shootdownCommit die) := by intro opc ops h; cases h
theorem retractReceive (die : _) (sd : _) : Statement (.retractReceive die sd) := by intro opc ops h; cases h
theorem retractAck (die : _) (sd : _) : Statement (.retractAck die sd) := by intro opc ops h; cases h
theorem retractAckReceive (die : _) (sd : _) : Statement (.retractAckReceive die sd) := by intro opc ops h; cases h
theorem commitReceive (die : _) (sd : _) : Statement (.commitReceive die sd) := by intro opc ops h; cases h
theorem shootdownTimeout (die : _) (sd : _) : Statement (.shootdownTimeout die sd) := by intro opc ops h; cases h
theorem satusDeliver (idx : _) : Statement (.satusDeliver idx) := by intro opc ops h; cases h
theorem walkComplete (u : _) (pasid : _) (va : _) (domain : _) : Statement (.walkComplete u pasid va domain) := by intro opc ops h; cases h
theorem hostWalkReply (u : _) (pasid : _) (va : _) (domain : _) (entry : _) : Statement (.hostWalkReply u pasid va domain entry) := by intro opc ops h; cases h
theorem migrationCommit (u : _) (slot : _) : Statement (.migrationCommit u slot) := by intro opc ops h; cases h
theorem heartbeat (die : _) : Statement (.heartbeat die) := by intro opc ops h; cases h
theorem linkSilenceTimeout (die : _) (nbr : _) : Statement (.linkSilenceTimeout die nbr) := by intro opc ops h; cases h
theorem linkUncorrectableError (die : _) (nbr : _) : Statement (.linkUncorrectableError die nbr) := by intro opc ops h; cases h
theorem fatalErrorSignal (die : _) (nbr : _) : Statement (.fatalErrorSignal die nbr) := by intro opc ops h; cases h
theorem suspicionReport (die : _) (nbr : _) : Statement (.suspicionReport die nbr) := by intro opc ops h; cases h
theorem masterSilenceTimeout : Statement (.masterSilenceTimeout) := by intro opc ops h; cases h
theorem diefail (die : _) (failed : _) : Statement (.diefail die failed) := by intro opc ops h; cases h
theorem masterReceive (die : _) (newMaster : _) : Statement (.masterReceive die newMaster) := by intro opc ops h; cases h
theorem islandReset (die : _) (k : _) : Statement (.islandReset die k) := by intro opc ops h; cases h
theorem islandPowerGate (die : _) (k : _) : Statement (.islandPowerGate die k) := by intro opc ops h; cases h
theorem islandPowerUp (die : _) (k : _) : Statement (.islandPowerUp die k) := by intro opc ops h; cases h
theorem clampDrainTimeout (die : _) (k : _) : Statement (.clampDrainTimeout die k) := by intro opc ops h; cases h
theorem partitionSet (die : _) (k : _) (part : _) : Statement (.partitionSet die k part) := by intro opc ops h; cases h
theorem svccapWrite (die : _) (value : _) : Statement (.svccapWrite die value) := by intro opc ops h; cases h
theorem leasecfgWrite (die : _) (value : _) : Statement (.leasecfgWrite die value) := by intro opc ops h; cases h
theorem dsmOwnerWrite (die : _) (seg : _) (value : _) : Statement (.dsmOwnerWrite die seg value) := by intro opc ops h; cases h
theorem slotMapWrite (u : _) (slot : _) (value : _) : Statement (.slotMapWrite u slot value) := by intro opc ops h; cases h
theorem courseTableWrite (die : _) (course : _) (value : _) : Statement (.courseTableWrite die course value) := by intro opc ops h; cases h
theorem markScrubPending (die : _) (first : _) (count : _) : Statement (.markScrubPending die first count) := by intro opc ops h; cases h
theorem scrubStep (die : _) : Statement (.scrubStep die) := by intro opc ops h; cases h
theorem patrolScrub (die : _) (line : _) : Statement (.patrolScrub die line) := by intro opc ops h; cases h
theorem softError (err : _) : Statement (.softError err) := by intro opc ops h; cases h
theorem fabricWriteReceive (pkt : _) : Statement (.fabricWriteReceive pkt) := by intro opc ops h; cases h
theorem ridgeReceive (pkt : _) : Statement (.ridgeReceive pkt) := by intro opc ops h; cases h
theorem ridgeApply (die : _) (course : _) : Statement (.ridgeApply die course) := by intro opc ops h; cases h
theorem atomicPacketReceive (pkt : _) : Statement (.atomicPacketReceive pkt) := by intro opc ops h; cases h
theorem atomicResponseReceive (pkt : _) : Statement (.atomicResponseReceive pkt) := by intro opc ops h; cases h
theorem loadPacketReceive (pkt : _) : Statement (.loadPacketReceive pkt) := by intro opc ops h; cases h
theorem resendRequestReceive (pkt : _) : Statement (.resendRequestReceive pkt) := by intro opc ops h; cases h
theorem digestReceive (u : _) (slot : _) (low : _) (broken : _) (mark : _) : Statement (.digestReceive u slot low broken mark) := by intro opc ops h; cases h
theorem digestPeriod (die : _) : Statement (.digestPeriod die) := by intro opc ops h; cases h
theorem lostPacketTimeout (die : _) (course : _) : Statement (.lostPacketTimeout die course) := by intro opc ops h; cases h
theorem confirmationTimeout (u : _) (slot : _) : Statement (.confirmationTimeout u slot) := by intro opc ops h; cases h
theorem atomicResendTimeout (u : _) (slot : _) (tag : _) : Statement (.atomicResendTimeout u slot tag) := by intro opc ops h; cases h
theorem courseAllocation (pkt : _) : Statement (.courseAllocation pkt) := by intro opc ops h; cases h
theorem courseClose (pkt : _) : Statement (.courseClose pkt) := by intro opc ops h; cases h
theorem dieStart (die : _) (pass : _) : Statement (.dieStart die pass) := by intro opc ops h; cases h
theorem masterElection : Statement (.masterElection) := by intro opc ops h; cases h
theorem quoteRequest (pf : _) (nonceAddr : _) (resultAddr : _) (nonce : _) : Statement (.quoteRequest pf nonceAddr resultAddr nonce) := by intro opc ops h; cases h
theorem supplySag (die : _) : Statement (.supplySag die) := by intro opc ops h; cases h
theorem supplyRecovery (die : _) : Statement (.supplyRecovery die) := by intro opc ops h; cases h
theorem checkpointHold : Statement (.checkpointHold) := by intro opc ops h; cases h
theorem checkpointStopped : Statement (.checkpointStopped) := by intro opc ops h; cases h
theorem checkpointRelease : Statement (.checkpointRelease) := by intro opc ops h; cases h
theorem restoreCommand (pf : _) (pkg : _) (diecaps : _) (image : _) : Statement (.restoreCommand pf pkg diecaps image) := by intro opc ops h; cases h
theorem registerWrite (die : _) (off : _) (value : _) (size : _) : Statement (.registerWrite die off value size) := by intro opc ops h; cases h
theorem leaseGrant (die : _) (idx : _) : Statement (.leaseGrant die idx) := by intro opc ops h; cases h
theorem homeStoreArrival (die : _) (idx : _) : Statement (.homeStoreArrival die idx) := by intro opc ops h; cases h
theorem linkCreditReturn (u : _) (slot : _) (bytes : _) (cwnd : _) : Statement (.linkCreditReturn u slot bytes cwnd) := by intro opc ops h; cases h
theorem hostMemoryAccess (die : _) (off : _) (size : _) (write : _) : Statement (.hostMemoryAccess die off size write) := by intro opc ops h; cases h
theorem clockSlowing (die : _) (k : _) (fstep : _) : Statement (.clockSlowing die k fstep) := by intro opc ops h; cases h
theorem islandResetEnd (die : _) (k : _) : Statement (.islandResetEnd die k) := by intro opc ops h; cases h

end Sys2Proof.Laws.OpcodeShape
end

