-- ==== Sys2Proof/Tests/Slice0.lean ====
section
/-! SUPPORT. Tests: a witness for every statement that has hypotheses, the words of every instruction written out from the
encodings of the spec, ill-formed terms, and single steps whose results are the spec's worked examples. -/

namespace Sys2Proof.Tests

open Sys2Proof Sys2Proof.Machine

/-! ## Small states -/

/-- A guard that every lane meets. -/
def always : Guard := ⟨false, 7⟩
/-- A vector source without the wait bit. -/
def reg (r : BitVec 8) : Src := ⟨false, r⟩
/-- Operands of format T on vector registers. -/
def opT (ty : BitVec 4) (d a b : BitVec 8) (c : BitVec 9) : OpT :=
  { g := always, d := d, a := reg a, b := reg b, c := c, ty := ty, rnd := 0, sat := false, ua := false, ub := false, uc := false,
    du := false, rsv := 0, lit := none }
/-- Operands of format M on vector registers. -/
def opM (space : BitVec 2) (ty : BitVec 4) (size : BitVec 3) (d a b : BitVec 8) : OpM :=
  { g := always, d := d, a := reg a, b := reg b, ty := ty, raw := false, space := space, scope := 0, ord := 0, size := size, ua := false,
    ub := false, off := 0, off32 := none }
/-- A header: 16 vector registers, 8 uniform registers, one fibre, two banks, and one tile and accumulator. -/
def hdr : Header :=
  { kent := 0x1000, kscr := 65536, kgrps := 1, kfibs := 1, kregs := 16, kuni := 8, ktiles := 2, kaccs := 1, kconv := 4, trapClass := false,
    kframe := 0, hints := [] }
/-- A fibre at 0x1000 whose first registers hold the values. -/
def fib (vs : List Word) : Fibre := { pc := 0x1000, regs := vs.zipIdx.map fun e => (e.2, { val := e.1, st := .full }) }
/-- A group with one fibre. -/
def grp (f : Fibre) : Machine.Group := { hdr := hdr, banks := [0, 1], ptiles := [0, 1], paccs := [0], fibres := [(0, f)] }
/-- The package with one group, in slot 0 of core `u`, whose fibre 0 is being issued. -/
def runs (u : Nat) (g : Machine.Group) : State :=
  { State.reset with cores := [(u, { slots := [(0, g)] })], cur := some { u := u, slot := 0, fibres := [0], pc := 0x1000 } }
/-- The context of that execution. -/
def ctxOf (u : Nat) (g : Machine.Group) (f : Fibre) : Ctx :=
  { s := runs u g, u := u, slot := 0, g := g, pc := 0x1000, lanes := [⟨0, 0, f⟩] }

theorem active_of {c : Ctx} {g : Guard} {ln : Lane} {P : Lane → Prop} (hl : c.lanes = [ln]) (h : P ln) : ∀ x, Active g c x → P x := by
  rintro x ⟨hm, -⟩
  rw [hl, List.mem_singleton] at hm
  exact hm ▸ h
theorem some_of {c : Ctx} {g : Guard} {ln : Lane} (hl : c.lanes = [ln]) (h : guardTrue g ln.f = true) : ∃ x, Active g c x :=
  ⟨ln, by rw [hl]; exact List.mem_singleton.mpr rfl, h⟩
theorem issued_of {s : State} {c : Ctx} {g : Guard} {ln : Lane} (hc : s.ctx = some c) (hl : c.lanes = [ln])
    (hp : ln.f.predPend.getLsbD g.p.toNat = false) : Issued s g c :=
  ⟨hc, by rw [hl]; simp, fun x hm => by
    rw [hl, List.mem_singleton] at hm
    exact hm ▸ hp⟩
theorem first_of {c : Ctx} {g : Guard} {ln : Lane} (hl : c.lanes = [ln]) (h : guardTrue g ln.f = true) : FirstActive g c ln :=
  ⟨[], [], hl, h, fun _ hx => nomatch hx⟩

/-- A fetch line of NOPs whose BTM mask marks each of its fifteen parcels, with the parity of R100. -/
def nopLine : Line := (List.replicate 15 0x00003800) ++ [0x00007FFF]
/-- A leaf that maps the first 64 KiB to physical address 0 with every access allowed. -/
def page0 (d : Nat) : TlbEntry := { probeEntry with domain := d }
/-- The package of `runs` with that page in the core's translation cache and the line of address 0x1000 in its instruction
cache. -/
def fetches (u : Nat) (g : Machine.Group) (x : Line) : State :=
  { State.reset with
    cores := [(u, { slots := [(0, g)], tlb := [page0 g.domain], icache := [(64, x)] })]
    cur := some { u := u, slot := 0, fibres := [0], pc := 0x1000 } }
/-- The registers 5, 7, 9, 11. -/
def f0 : Fibre := fib [5, 7, 9, 11]
def s0 : State := runs 0 (grp f0)
def c0 : Ctx := ctxOf 0 (grp f0) f0
theorem issued0 : Issued s0 always c0 := issued_of rfl rfl rfl
/-- A second guard, which no lane meets. -/
def never : Guard := ⟨true, 7⟩
def l0 : Lane := ⟨0, 0, f0⟩

/-- The translation of an address of that page. -/
def pageAt (pa : Nat) : Page := { pa := pa, fmt := 0, blk := 0, first := 0, size := 65536, scoff := 0, key := 0, reps := [] }

/-- An answer that is a value. -/
def passes {α : Type} : Except Stop α → Bool
  | .ok _ => true
  | .error _ => false
theorem of_passes {α : Type} {x : Except Stop α} (h : passes x = true) : ∃ v, x = .ok v := by
  cases x with
  | ok v => exact ⟨v, rfl⟩
  | error _ => cases h
/-! ## The hypotheses of the statements can be met: decoding and the step -/

theorem witness_DecodeEncodeRoundTrip :
    ∃ (i : Instr) (p0 p1 p2 : Word) (k : Nat), i.wf = true ∧ encode i = some (p0, p1, p2) ∧ k + parcelCount p0 ≤ 15 :=
  ⟨.add (opT 0 2 0 1 0), _, _, _, 13, by decide, rfl, by decide⟩

theorem witness_EncodeDecodeRoundTrip :
    ∃ (i : Instr) (conv k : Nat) (p0 p1 p2 : Word), decodeAt conv k p0 p1 p2 = .ok i := ⟨_, 4, 13, 0x0184BA01, 0x088C0105, 0, rfl⟩

theorem witness_DecodeChecks :
    (∃ p0 : Word, (field 0 2 p0).toNat = 3) ∧
    (∃ (k : Nat) (p0 : Word), (field 0 2 p0).toNat ≠ 3 ∧ 15 < k + (field 0 2 p0).toNat + 1) ∧
    (∃ (k : Nat) (p0 : Word), (field 0 2 p0).toNat ≠ 3 ∧ k + (field 0 2 p0).toNat + 1 ≤ 15 ∧
      opcodeFormats (field 2 9 p0).toNat = none) ∧
    (∃ (k : Nat) (p0 : Word) (f : FormatSet), (field 0 2 p0).toNat ≠ 3 ∧ k + (field 0 2 p0).toNat + 1 ≤ 15 ∧
      opcodeFormats (field 2 9 p0).toNat = some f ∧ f.allows (field 0 2 p0).toNat = false) ∧
    (∃ (k : Nat) (p0 p1 p2 : Word) (f : FormatSet) (i : Instr), (field 0 2 p0).toNat ≠ 3 ∧ k + (field 0 2 p0).toNat + 1 ≤ 15 ∧
      opcodeFormats (field 2 9 p0).toNat = some f ∧ f.allows (field 0 2 p0).toNat = true ∧
      instrOf (field 2 9 p0).toNat (operandsOf f (field 0 2 p0).toNat p0 p1 p2) = some i) ∧
    (∃ (x : Line) (k conv : Nat) (i : Instr), decodeLine conv x k = .ok i ∧ supervisorOnly i = true) ∧
    ∃ (x : Line) (k conv : Nat) (i : Instr), decodeLine conv x k = .ok i ∧ supervisorOnly i = false :=
  ⟨⟨3, rfl⟩, ⟨14, 1, by decide, by decide⟩, ⟨0, 0x7FC, by decide, by decide, rfl⟩, ⟨0, 0x3801, _, by decide, by decide, rfl, rfl⟩,
    ⟨13, 0x0184BA01, 0x088C0105, 0, _, _, by decide, by decide, rfl, rfl, rfl⟩, ⟨[0x3820], 0, 4, _, rfl, rfl⟩,
    ⟨nopLine, 14, 4, _, rfl, rfl⟩⟩

/-- ADD of v0 and v1, in parcels 0 and 1. -/
def addLine : Line := [0x8002B901, 0x00000101] ++ nopLine.drop 2
theorem witness_StepRunsDecoded :
    (∃ (s s1 : State) (sh : Sheaf) (x : Line) (k conv : Nat) (sup : Bool) (i : Instr), OwnTurn s s1 ∧ s1.cur = some sh ∧
      fetchSheaf s1 = .line x k conv sup ∧ decodeFor x k conv sup = .ok i) ∧
    (∃ (s s1 : State) (sh : Sheaf) (x : Line) (k conv : Nat) (sup : Bool) (e : DecodeError) (t : State), OwnTurn s s1 ∧
      s1.cur = some sh ∧ fetchSheaf s1 = .line x k conv sup ∧ decodeFor x k conv sup = .error e ∧
      exec (.illegalEncoding e) s1 = .next t) ∧
    (∃ (s s1 : State) (sh : Sheaf) (u line : Nat), OwnTurn s s1 ∧ s1.cur = some sh ∧ fetchSheaf s1 = .miss u line) ∧
    (∃ (s s1 : State) (sh : Sheaf) (cause a : Nat), OwnTurn s s1 ∧ s1.cur = some sh ∧ fetchSheaf s1 = .fault cause a) ∧
    (∃ (s s1 : State) (sh : Sheaf) (w : Wait), OwnTurn s s1 ∧ s1.cur = some sh ∧ fetchSheaf s1 = .wait w) ∧
    (∃ (s : State) (i : Instr) (t : List Input), s.schedule = .event i :: t ∧ i.view = none) ∧
    (∃ (s : State) (i : Input) (t : List Input), s.schedule = i :: t ∧ (∀ e, i ≠ .event e) ∧ i ≠ .issue) ∧
    (∃ i : Instr, transferGuard i = none) ∧
    ∃ s s1 : State, OwnTurn s s1 ∧ s1.cur = none :=
  ⟨⟨fetches 0 (grp f0) addLine, _, _, _, _, _, _, _, .inl ⟨rfl, rfl⟩, rfl, rfl, rfl⟩,
    ⟨fetches 0 (grp f0) (0xFFFFFFFF :: nopLine.drop 1), _, _, _, _, _, _, _, _, .inl ⟨rfl, rfl⟩, rfl, rfl, rfl, rfl⟩,
    ⟨{ fetches 0 (grp f0) addLine with cores := [(0, { slots := [(0, grp f0)], tlb := [page0 0] })] }, _, _, _, _, .inl ⟨rfl, rfl⟩, rfl, rfl⟩,
    ⟨runs 32 (grp { f0 with pc := 0x1000 }), _, _, _, _, .inl ⟨rfl, rfl⟩, rfl, rfl⟩,
    ⟨{ runs 0 (grp f0) with svcmode := 1 }, _, _, _, .inl ⟨rfl, rfl⟩, rfl, rfl⟩,
    ⟨{ State.reset with schedule := [.event (.heartbeat 0)] }, _, _, rfl, rfl⟩,
    ⟨{ State.reset with schedule := [.windowLoad 0] }, _, _, rfl, fun _ => by rintro ⟨⟩, by rintro ⟨⟩⟩, ⟨.add (opT 0 2 0 1 0), rfl⟩,
    ⟨{ State.reset with schedule := [.issue] }, _, .inr ⟨[], rfl, rfl⟩, rfl⟩⟩

theorem witness_InactiveExecution :
    ∃ (i : Instr) (opc : Nat) (ops : Operands) (s : State) (c : Ctx), i.view = some (opc, ops) ∧ opc ≠ 0 ∧
      (opc < 0x0F0 ∨ isSupCore c.u = false) ∧ Issued s ops.guard c ∧ ∀ ln ∈ c.lanes, guardTrue ops.guard ln.f = false :=
  ⟨.add { opT 0 2 0 1 0 with g := never }, _, _, s0, c0, rfl, by decide, .inl (by decide), issued_of rfl rfl rfl,
    fun ln hm => by obtain rfl : ln = l0 := by { simpa [c0, ctxOf, l0] using hm }; rfl⟩

theorem witness_EffectFrame : ∃ (s : State) (c : Ctx), s.ctx = some c ∧ (c.lanes.map (·.id)).Nodup := ⟨s0, c0, rfl, by decide⟩

theorem witness_OutcomeFrame :
    ∃ (i : Instr) (opc : Nat) (ops : Operands) (s t : State) (c : Ctx), i.view = some (opc, ops) ∧
      (opc ≤ 0x007 ∨ opc = 0x00B ∨ opc = 0x00D ∨ (0x019 ≤ opc ∧ opc ≤ 0x01C) ∨ (0x040 ≤ opc ∧ opc ≤ 0x098)) ∧ s.ctx = some c ∧
      exec i s = .next t :=
  ⟨.add (opT 0 2 0 1 0), 0x40, _, s0, _, c0, rfl, by decide, rfl, rfl⟩

/-- v0 is empty. -/
def fEmpty : Fibre := { f0 with regs := [(0, { val := 5, st := .empty }), (1, { val := 7 })] }
theorem witness_PreciseFault :
    ∃ (s : State) (c : Ctx) (o : OpT) (l1 l2 : List Lane) (first : Lane) (cause sub addr : Nat),
      Issued s o.g c ∧ c.lanes = l1 ++ first :: l2 ∧ Active o.g c first ∧
      srcTyped c first.f (o.ty = 2) o.ua o.a = .error (.fault cause sub addr) ∧
      (∀ ln ∈ l1, guardTrue o.g ln.f = true → (∃ a, srcTyped c ln.f (o.ty = 2) o.ua o.a = .ok a) ∧
        (∃ b, srcBTyped c ln.f (o.ty = 2) o = .ok b) ∧
        destsReady c ln.f (clsOf o.du) o.d.toNat (if o.ty = 2 then 2 else 1) = .ok ()) ∧
      ∀ ln, Active o.g c ln → ∀ w, srcTyped c ln.f (o.ty = 2) o.ua o.a ≠ .error (.block w) ∧
        srcBTyped c ln.f (o.ty = 2) o ≠ .error (.block w) ∧
        destsReady c ln.f (clsOf o.du) o.d.toNat (if o.ty = 2 then 2 else 1) ≠ .error (.block w) :=
  ⟨runs 0 (grp fEmpty), ctxOf 0 (grp fEmpty) fEmpty, opT 0 2 0 1 0, [], [], ⟨0, 0, fEmpty⟩, 0x09, 0, 0, issued_of rfl rfl rfl, rfl,
    ⟨by simp [ctxOf], rfl⟩, rfl, by simp,
    active_of rfl (P := fun ln => ∀ w, _) fun w => ⟨by rintro ⟨⟩, by rintro ⟨⟩, by rintro ⟨⟩⟩⟩

theorem witness_WaitingReader :
    (∃ (s : State) (c : Ctx) (o : OpU) (ln : Lane) (v : Word), Issued s o.g c ∧ c.lanes = [ln] ∧ guardTrue o.g ln.f = true ∧
      inWindow c.g ln.f 0 o.a.r.toNat = true ∧ ln.f.reg o.a.r.toNat = { val := v, st := .empty } ∧ o.a.w = true) ∧
    ∃ (s : State) (c : Ctx) (o : OpU) (ln : Lane) (v : Word), Issued s o.g c ∧ c.lanes = [ln] ∧ guardTrue o.g ln.f = true ∧
      inWindow c.g ln.f 0 o.a.r.toNat = true ∧ ln.f.reg o.a.r.toNat = { val := v, st := .empty } ∧ o.a.w = false :=
  ⟨⟨runs 0 (grp fEmpty), ctxOf 0 (grp fEmpty) fEmpty, { g := always, d := 2, a := ⟨true, 0⟩ }, _, _, issued_of rfl rfl rfl, rfl, rfl, rfl,
    rfl, rfl⟩,
    ⟨runs 0 (grp fEmpty), ctxOf 0 (grp fEmpty) fEmpty, { g := always, d := 2, a := ⟨false, 0⟩ }, _, _, issued_of rfl rfl rfl, rfl, rfl,
    rfl, rfl, rfl⟩⟩

theorem witness_IllegalEncodingStops :
    ∃ (s : State) (c : Ctx) (first : Lane) (rest : List Lane), s.ctx = some c ∧ (c.lanes.map (·.id)).Nodup ∧ c.lanes = first :: rest :=
  ⟨s0, c0, _, _, rfl, by decide, rfl⟩

theorem witness_FaultReport :
    (∃ lane sub cause : Nat, lane < 32 ∧ sub < 256 ∧ cause < 256) ∧
    (∃ u slot fibre : Nat, slot < 32 ∧ fibre < 1024 ∧ u % 64 < 32 ∧ u % 64 < 36) ∧
    (∃ u slot fibre : Nat, slot < 32 ∧ fibre < 1024 ∧ 32 ≤ u % 64 ∧ u % 64 < 36) ∧
    (∃ (s : State) (r : Record), (s.svcmode.getLsbD 1 && r.fcause.toNat % 256 == 0x04) = false) ∧
    (∃ (s : State) (d : Nat) (r : Record), (s.svcmode.getLsbD 1 && r.fcause.toNat % 256 == 0x04) = true ∧ stepPassed s d 7 = true) ∧
    (∃ r : Record, uncharged r = true) ∧ (∃ (s : State) (d : Nat), stepPassed s d 7 = false) ∧
    ∃ (s : State) (d : Nat) (r : Record), ∃ x ∈ (s.die d).records, uncharged x = false ∧ x.domain = r.domain :=
  ⟨⟨31, 255, 255, by decide⟩, ⟨31, 31, 1023, by decide⟩, ⟨35, 31, 1023, by decide⟩,
    ⟨State.reset, { tag := 0, fcause := 4, who := 0, faddr := 0, fpc := 0, domain := 0 }, rfl⟩,
    ⟨{ State.reset with svcmode := 2 }, 0, { tag := 0, fcause := 4, who := 0, faddr := 0, fpc := 0, domain := 0 }, rfl, by decide⟩,
    ⟨{ tag := 0, fcause := 0x1D, who := 0x80000000, faddr := 0, fpc := 0, domain := 0 }, by decide⟩,
    ⟨{ State.reset with dies := [(0, { Die.reset with passed := 0 })] }, 0, by decide⟩,
    ⟨{ State.reset with dies := [(0, { Die.reset with records := [{ tag := 0, fcause := 4, who := 0, faddr := 0, fpc := 0, domain := 0 }] })] }, 0,
      { tag := 0, fcause := 4, who := 0, faddr := 0, fpc := 0, domain := 0 }, _, List.mem_singleton.mpr rfl, by decide, rfl⟩⟩

theorem witness_StepKeepsMemoryForm : ∃ s t : State, Inv s ∧ step s = .next t := ⟨State.reset, _, rfl, rfl⟩

theorem witness_MemoryBytes :
    (∃ m : List Host.Cell, Memory.wf m = true ∧ m ≠ []) ∧ (∃ (x a n : Nat), x < a ∨ a + n ≤ x) ∧ (∃ k n : Nat, k < n) ∧
    ∃ (s : State) (pa : Nat), plainPa pa = true ∧ Memory.wf s.mem = true :=
  ⟨⟨[(0, 1), (0xFFFFFFFFFFFFF, 255)], by decide, by decide⟩, ⟨7, 4, 3, by decide⟩, ⟨7, 8, by decide⟩, ⟨State.reset, 0x2000, by decide, rfl⟩⟩

theorem witness_ResetState :
    (∃ d : Nat, d < 8) ∧ (∃ f : Fibre, f.regs = []) ∧ (∃ g : Machine.Group, g.tcs = []) ∧ ∃ g : Machine.Group, g.convs = [] :=
  ⟨⟨7, by decide⟩, ⟨{ pc := 0 }, rfl⟩, ⟨grp f0, rfl⟩, ⟨grp f0, rfl⟩⟩

theorem witness_SourceRegisterStates :
    (∃ (c : Ctx) (f : Fibre) (cls n : Nat), inWindow c.g f cls n = false) ∧
    (∃ (c : Ctx) (f : Fibre) (cls n : Nat) (v : Word), inWindow c.g f cls n = true ∧ regGet c.g f cls n = { val := v, st := .full }) ∧
    (∃ (c : Ctx) (f : Fibre) (cls n : Nat) (v : Word), inWindow c.g f cls n = true ∧ regGet c.g f cls n = { val := v, st := .empty }) ∧
    (∃ (c : Ctx) (f : Fibre) (cls n : Nat) (v : Word) (k : Nat), inWindow c.g f cls n = true ∧
      regGet c.g f cls n = { val := v, st := .poisoned k }) ∧
    (∃ (c : Ctx) (f : Fibre) (n : Nat), inWindow c.g f 0 n = true ∧ sget f.regs n = none) ∧
    ∃ (c : Ctx) (f : Fibre) (n : Nat), inWindow c.g f 1 n = true ∧ sget c.g.uregs n = none :=
  ⟨⟨c0, f0, 0, 16, rfl⟩, ⟨c0, f0, 0, 0, 5, rfl, rfl⟩, ⟨c0, fEmpty, 0, 0, 5, rfl, rfl⟩,
    ⟨c0, { f0 with regs := [(0, { val := 5, st := .poisoned 0x1D })] }, 0, 0, 5, 0x1D, rfl, rfl⟩, ⟨c0, f0, 15, rfl, rfl⟩,
    ⟨c0, f0, 7, rfl, rfl⟩⟩

/-! ## Arithmetic, moves, comparisons and transfers -/

theorem witness_IntegerResultExact :
    (∃ ty : BitVec 4, ty = 0 ∨ ty = 1 ∨ ty = 2) ∧ (∃ (ty : BitVec 4) (x : Int), intLo ty ≤ x ∧ x ≤ intHi ty) ∧
    (∃ (ty : BitVec 4) (x : Int), x < intLo ty) ∧ ∃ (ty : BitVec 4) (x : Int), intHi ty < x :=
  ⟨⟨2, by decide⟩, ⟨0, -2147483648, by decide⟩, ⟨1, -1, by decide⟩, ⟨0, 2147483648, by decide⟩⟩

/-- Every typed entry with one, two or three sources. -/
theorem witness_typed : ∃ (s : State) (c : Ctx) (o : OpT) (a b x : Lane → DWord), Issued s o.g c ∧ DestFree c o ∧ ReadsA c o a ∧
    ReadsB c o b ∧ ReadsC c o x :=
  ⟨s0, c0, opT 0 2 0 1 2, fun _ => 5, fun _ => 7, fun _ => 9, issued0, active_of rfl rfl, active_of rfl rfl, active_of rfl rfl, active_of rfl rfl⟩
/-- The same for .i64, whose sources and destination are pairs. -/
theorem witness_typed64 : ∃ (s : State) (c : Ctx) (o : OpT) (a b x : Lane → DWord), o.ty = 2 ∧ Issued s o.g c ∧ DestFree c o ∧
    ReadsA c o a ∧ ReadsB c o b ∧ ReadsC c o x :=
  ⟨s0, c0, opT 2 14 0 2 0, fun _ => 0x700000005, fun _ => 0xB00000009, fun _ => 0x700000005, rfl, issued0, active_of rfl rfl, active_of rfl rfl,
    active_of rfl rfl, active_of rfl rfl⟩
/-- Entries whose sources are 32-bit registers. -/
theorem witness_words : ∃ (s : State) (c : Ctx) (o : OpT) (a b z : Lane → Word), Issued s o.g c ∧ DestsFree c o 1 ∧ ReadsA32 c o a ∧
    ReadsB32 c o b ∧ ∀ ln, Active o.g c ln → srcField c ln.f o.uc (srcC o) = .ok (z ln) :=
  ⟨s0, c0, opT 3 2 0 1 2, fun _ => 5, fun _ => 7, fun _ => 9, issued0, active_of rfl rfl, active_of rfl rfl, active_of rfl rfl, active_of rfl rfl⟩

theorem witness_IntegerArithmetic :
    (∃ (s : State) (c : Ctx) (o : OpT) (a b x : Lane → DWord), Issued s o.g c ∧ DestFree c o ∧ ReadsA c o a ∧ ReadsB c o b ∧
      ReadsC c o x) ∧
    (∃ (s : State) (c : Ctx) (o : OpT) (a : Lane → DWord) (b : Lane → Word), Issued s o.g c ∧ DestFree c o ∧ ReadsA c o a ∧
      ReadsB32 c o b) ∧
    ∃ ty : BitVec 4, ty = 0 ∨ ty = 2 :=
  ⟨witness_typed, ⟨s0, c0, opT 0 2 0 1 3, fun _ => 5, fun _ => 7, issued0, active_of rfl rfl, active_of rfl rfl, active_of rfl rfl⟩,
    ⟨2, .inr rfl⟩⟩

theorem witness_BitwiseAndShifts :
    (∃ (s : State) (c : Ctx) (o : OpT) (a b x : Lane → DWord), Issued s o.g c ∧ DestFree c o ∧ ReadsA c o a ∧ ReadsB c o b ∧
      ReadsC c o x) ∧
    (∃ o : OpT, o.ty = 0) ∧
    (∃ (s : State) (c : Ctx) (o : OpT) (a : Lane → DWord) (n : Lane → Word), Issued s o.g c ∧ DestFree c o ∧ ReadsA c o a ∧
      ReadsB32 c o n) ∧
    ∃ (o : OpT) (i : Nat), i < intWidth o.ty :=
  ⟨witness_typed, ⟨opT 0 0 0 0 0, rfl⟩,
    ⟨s0, c0, opT 0 2 0 1 0, fun _ => 5, fun _ => 7, issued0, active_of rfl rfl, active_of rfl rfl, active_of rfl rfl⟩,
    ⟨opT 2 0 0 0 0, 63, by decide⟩⟩

theorem witness_UnaryEntries : ∃ (s : State) (c : Ctx) (o : OpU) (a : Lane → Word), Issued s o.g c ∧
    ∀ ln, Active o.g c ln → srcField c ln.f false o.a = .ok (a ln) ∧ destReady c ln.f 0 o.d.toNat = .ok () :=
  ⟨s0, c0, { g := always, d := 15, a := reg 3 }, fun _ => 11, issued0, active_of rfl ⟨rfl, rfl⟩⟩

theorem witness_MoviSelPlop :
    (∃ (s : State) (c : Ctx) (o : OpT) (l : Word), Issued s o.g c ∧ DestFree c o ∧ o.lit = some l) ∧
    (∃ (s : State) (c : Ctx) (o : OpT) (a b : Lane → DWord), Issued s o.g c ∧ DestFree c o ∧ ReadsA c o a ∧ ReadsB c o b ∧
      ∀ ln, Active o.g c ln → predReady ln.f (o.c.toNat % 8) = .ok ()) ∧
    (∃ (s : State) (c : Ctx) (o : OpP), Issued s o.g c ∧ ∀ ln, Active o.g c ln → predReady ln.f o.pa.toNat = .ok () ∧
      predReady ln.f o.pb.toNat = .ok () ∧ predReady ln.f o.pd.toNat = .ok ()) ∧
    (∃ n k : Nat, n < 7 ∧ k < 8) ∧ (∃ (s : State) (c : Ctx), s.ctx = some c ∧ (c.lanes.map (·.id)).Nodup) ∧
    ∃ (conv : Nat) (o : OpT), illegalField conv (.sel { o with du := false }) = none :=
  ⟨⟨s0, c0, { opT 4 2 0 0 0 with lit := some 0xFFFF3F80 }, _, issued0, active_of rfl rfl, rfl⟩,
    ⟨s0, c0, opT 0 2 0 1 10, fun _ => 5, fun _ => 7, issued0, active_of rfl rfl, active_of rfl rfl, active_of rfl rfl, active_of rfl rfl⟩,
    ⟨s0, c0, { g := always, pd := 7, pa := 7, pb := 0, lut := 0x88 }, issued0, active_of rfl ⟨rfl, rfl, rfl⟩⟩, ⟨6, 7, by decide⟩,
    ⟨s0, c0, rfl, by decide⟩, ⟨16, opT 2 254 0 2 15, by decide⟩⟩

theorem witness_IntegerCompare : (∃ (s : State) (c : Ctx) (o : OpT) (a b : Lane → DWord), Issued s o.g c ∧ ReadsA c o a ∧ ReadsB c o b ∧
      ∀ ln, Active o.g c ln → predReady ln.f (o.d.toNat % 8) = .ok ()) ∧
    (∃ o : OpT, 8 ≤ o.d.toNat) ∧ ∃ (conv : Nat) (o : OpT), illegalField conv (.cmpGe { o with du := false }) = none :=
  ⟨⟨s0, c0, opT 0 7 0 1 0, fun _ => 5, fun _ => 7, issued0, active_of rfl rfl, active_of rfl rfl, active_of rfl rfl⟩,
    ⟨opT 0 8 0 1 0, by decide⟩, ⟨16, opT 2 7 254 0 0, by decide⟩⟩

/-- The row of .e2m1, the smallest format. -/
def e2m1Row : FormatRow := ⟨fmtE2M1, 1, 2, 1, 0x7, 0x7, false⟩
theorem e2m1_mem : e2m1Row ∈ formatRows := by simp [formatRows, e2m1Row]
/-- Its largest finite value is 6. -/
theorem e2m1_top : IsRat (value e2m1Row.fmt e2m1Row.top) false 6 := ⟨3, 1, by decide, by norm_num [ratOf]⟩

theorem witness_ExactArithmetic :
    (∃ p ∈ formatRows, ∃ e m : Nat, e < 2 ^ p.eb ∧ m < 2 ^ p.mb ∧ p.ieee = true ∧ e = 2 ^ p.eb - 1) ∧
    (∃ p ∈ formatRows, ∃ e m : Nat, e < 2 ^ p.eb ∧ m < 2 ^ p.mb ∧ p.fmt = fmtE4M3 ∧ e = 15 ∧ m = 7) ∧
    (∃ p ∈ formatRows, ∃ e m : Nat, e < 2 ^ p.eb ∧ m < 2 ^ p.mb ∧ e = 0) ∧ (∃ c : Nat, c < 255) ∧
    (∃ (f : Fmt) (code : Nat), (value f code).isInf = true) ∧
    (∃ p ∈ formatRows, ∃ (m : Nat) (e : Int) (big : ℚ), 0 < m ∧ IsRat (value p.fmt p.top) false big ∧
      big < ratOf false (roundUnits .rne false m e (max (e + (m.log2 : Int) - p.mb) (1 - (p.bias : Int) - p.mb))).1
        (max (e + (m.log2 : Int) - p.mb) (1 - (p.bias : Int) - p.mb))) ∧
    (∃ p ∈ formatRows, ∃ (m : Nat) (e : Int) (big : ℚ), 0 < m ∧ IsRat (value p.fmt p.top) false big ∧
      ratOf false (roundUnits .rne false m e (max (e + (m.log2 : Int) - p.mb) (1 - (p.bias : Int) - p.mb))).1
        (max (e + (m.log2 : Int) - p.mb) (1 - (p.bias : Int) - p.mb)) ≤ big) ∧
    ∃ (n1 n2 : Bool) (m1 m2 : Nat) (e1 e2 : Int), ratOf n1 m1 e1 + ratOf n2 m2 e2 ≠ 0 :=
  ⟨⟨⟨fmtF32, 23, 8, 127, 0x7F7FFFFF, 0x7F800000, true⟩, by simp [formatRows], 255, 0, by decide⟩,
    ⟨⟨fmtE4M3, 3, 4, 7, 0x7E, 0x7F, false⟩, by simp [formatRows], 15, 7, by decide⟩, ⟨e2m1Row, e2m1_mem, 0, 1, by decide⟩, ⟨254, by decide⟩,
    ⟨fmtF16, 0x7C00, by decide⟩,
    ⟨e2m1Row, e2m1_mem, 9, 0, 6, by decide, e2m1_top, by
      show (6 : ℚ) < ratOf false 2 2
      norm_num [ratOf]⟩,
    ⟨e2m1Row, e2m1_mem, 1, 0, 6, by decide, e2m1_top, by
      show ratOf false 2 (-1) ≤ 6
      norm_num [ratOf]⟩,
    ⟨false, false, 1, 0, 0, 0, by norm_num [ratOf]⟩⟩

theorem witness_FloatArithmetic :
    (∃ (s : State) (c : Ctx) (o : OpT) (a b z : Lane → Word), Issued s o.g c ∧ DestsFree c o 1 ∧ ReadsA32 c o a ∧ ReadsB32 c o b ∧
      ∀ ln, Active o.g c ln → srcField c ln.f o.uc (srcC o) = .ok (z ln)) ∧
    (∃ m : Nat, 0 < m) ∧ ∃ (f : Fmt) (a : Nat), (value f a).isNan = true :=
  ⟨witness_words, ⟨1, by decide⟩, ⟨fmtF32, 0x7F800001, by decide⟩⟩

theorem witness_FloatCompare : (∃ (s : State) (c : Ctx) (o : OpT) (a b : Lane → Word), Issued s o.g c ∧ ReadsA32 c o a ∧ ReadsB32 c o b ∧
      ∀ ln, Active o.g c ln → predReady ln.f (o.d.toNat % 8) = .ok ()) ∧
    (∃ o : OpT, 8 ≤ o.d.toNat) ∧ ∃ (conv : Nat) (o : OpT), illegalField conv (.fcmpOrd { o with du := false }) = none :=
  ⟨⟨s0, c0, opT 3 2 0 1 0, fun _ => 5, fun _ => 7, issued0, active_of rfl rfl, active_of rfl rfl, active_of rfl rfl⟩,
    ⟨opT 3 8 0 1 0, by decide⟩, ⟨16, opT 5 7 255 0 0, by decide⟩⟩

theorem witness_Conversions :
    (∃ (s : State) (c : Ctx) (o : OpT) (x : Lane → DWord), Issued s o.g c ∧ DestFree c o ∧
      ∀ ln, Active o.g c ln → srcBTyped c ln.f (decide (fcvtSrc o = 2)) o = .ok (x ln)) ∧
    (∃ (s : State) (c : Ctx) (o : OpT) (b : Lane → Word), Issued s o.g c ∧ DestsFree c o 1 ∧ ReadsB32 c o b) ∧
    (∃ (s : State) (c : Ctx) (o : OpT) (xs : Lane → List Word) (old : Lane → Word), o.ty = 10 ∧ Issued s o.g c ∧ DestsFree c o 1 ∧
      ∀ ln, Active o.g c ln → srcRegs c ln.f (clsOf o.ua) o.a.r.toNat o.a.w (packN o.ty) = .ok (xs ln) ∧
        (o.ty = 10 → srcReg c ln.f (clsOf o.du) o.d.toNat true = .ok (old ln))) ∧
    (∃ (s : State) (c : Ctx) (o : OpT) (b : Lane → Word), Issued s o.g c ∧ DestsFree c o (packN o.ty) ∧ ReadsB32 c o b) ∧
    (∃ o : OpT, isFloatTy (fcvtSrc o) = true ∧ isFloatTy o.ty = true ∧
      (∃ q, value (vecFmt (fcvtSrc o)) 0x7FC00000 = .nan q) ∧ (∃ n, value (vecFmt (fcvtSrc o)) 0x7F800000 = .inf n) ∧
      ∃ n m e, value (vecFmt (fcvtSrc o)) 0x3F800000 = .fin n m e) ∧
    (∃ o : OpT, isFloatTy (fcvtSrc o) = false ∧ isFloatTy o.ty = true) ∧ (∃ o : OpT, isFloatTy (fcvtSrc o) = false ∧ isFloatTy o.ty = false) ∧
    (∃ o : OpT, isFloatTy (fcvtSrc o) = true ∧ isFloatTy o.ty = false) ∧
    (∃ f ∈ [fmtF32, fmtBF16, fmtF16], (∃ q, value f 0x7C01 = .nan q) ∧ (∃ n, value f 0xFC00 = .inf n) ∧ ∃ n m e, value f 0x3C01 = .fin n m e) ∧
    (∃ (o : OpT) (f : Fmt), typeFmt o.ty.toNat = some f ∧ 4 ≤ o.ty.toNat ∧ f.nan ≠ none ∧ f.inf ≠ none ∧
      (∃ code, code < 2 ^ packedBits o.ty ∧ ∃ q, value f (flushIn f false code) = .nan q) ∧
      (∃ code, code < 2 ^ packedBits o.ty ∧ ∃ n, value f (flushIn f false code) = .inf n) ∧
      ∃ code, code < 2 ^ packedBits o.ty ∧ ∃ n m e, value f (flushIn f false code) = .fin n m e) ∧
    (∃ (o : OpT) (f : Fmt), typeFmt o.ty.toNat = some f ∧ 4 ≤ o.ty.toNat ∧ f.nan = none ∧ f.inf = none) ∧
    (∃ x : Word, ∃ q, value fmtF32 (flushIn fmtF32 true x.toNat) = .nan q) ∧ (∃ x : Word, ∃ n, value fmtF32 (flushIn fmtF32 true x.toNat) = .inf n) ∧
    ∃ x : Word, ∃ n m e, value fmtF32 (flushIn fmtF32 true x.toNat) = .fin n m e :=
  ⟨⟨s0, c0, opT 3 2 0 1 0, fun _ => 7, issued0, active_of rfl rfl, active_of rfl rfl⟩,
    ⟨s0, c0, opT 3 2 0 1 0, fun _ => 7, issued0, active_of rfl rfl, active_of rfl rfl⟩,
    ⟨s0, c0, opT 10 4 0 1 0, fun _ => [5, 7, 9, 11], fun _ => 0, rfl, issued0, active_of rfl rfl, active_of rfl ⟨rfl, fun _ => rfl⟩⟩,
    ⟨s0, c0, opT 10 4 0 1 0, fun _ => 7, issued0, active_of rfl rfl, active_of rfl rfl⟩,
    ⟨opT 3 0 0 0 3, by decide, by decide, ⟨_, rfl⟩, ⟨_, rfl⟩, _, _, _, rfl⟩, ⟨opT 3 0 0 0 0, by decide⟩, ⟨opT 1 0 0 0 2, by decide⟩,
    ⟨opT 0 0 0 0 4, by decide⟩, ⟨fmtF16, by simp, ⟨_, rfl⟩, ⟨_, rfl⟩, _, _, _, rfl⟩,
    ⟨opT 7 0 0 0 0, fmtE5M2, rfl, by decide, by decide, by decide, ⟨255, by decide, _, rfl⟩, ⟨124, by decide, _, rfl⟩, 0, by decide, _, _, _, rfl⟩,
    ⟨opT 10 0 0 0 0, fmtE2M1, rfl, by decide, by decide, by decide⟩, ⟨0x7F800001, _, rfl⟩, ⟨0xFF800000, _, rfl⟩, ⟨1, _, _, _, rfl⟩⟩

theorem witness_SpecialFunctions :
    (∃ (s : State) (c : Ctx) (o : OpT) (b : Lane → Word), Issued s o.g c ∧ DestsFree c o 1 ∧ ReadsB32 c o b) ∧
    ∃ x : Word, (value fmtF32 x.toNat).isNan = true :=
  ⟨⟨s0, c0, opT 3 2 0 1 0, fun _ => 7, issued0, active_of rfl rfl, active_of rfl rfl⟩, ⟨0x7FC00000, by decide⟩⟩

/-- The package in which fibre 0 runs the line of NOPs at 0x1000. -/
def sN : State := fetches 0 (grp f0) nopLine
def cN : Ctx := { c0 with s := sN }
theorem issuedN : Issued sN always cN := issued_of rfl rfl rfl
/-- The same with a bit set in the line of address 0x2000, whose parity then fails. -/
def sBroken : State := { sN with mem := [(0x2000, 1)] }
/-- A fibre whose v0 and v1 hold the address 0x1038. -/
def fRet : Fibre := fib [0x1038, 0]
def cR : Ctx := { ctxOf 0 (grp fRet) fRet with s := fetches 0 (grp fRet) nopLine }
theorem issuedR : Issued (fetches 0 (grp fRet) nopLine) always cR := issued_of rfl rfl rfl

set_option maxRecDepth 20000 in
theorem witness_TransferTargets :
    (∃ (c : Ctx) (f : Fibre) (va : Nat) (p : Page), fetchPage c.s c.u c.g f va = .ok p ∧ va % 4 = 0 ∧ va / 4 % 16 < 15 ∧
      va / 4 % 16 ∈ lineStarts (coreLine c.s c.u p.pa) ∧ (lineParcel (coreLine c.s c.u p.pa) 15).getLsbD (va / 4 % 16) = true) ∧
    (∃ (c : Ctx) (f : Fibre) (va : Nat) (p : Page), fetchPage c.s c.u c.g f va = .ok p ∧ fetchBroken c.s c.u p.pa = false ∧
      ¬ va / 4 % 16 < 15) ∧
    (∃ (c : Ctx) (f : Fibre) (va : Nat) (p : Page), fetchPage c.s c.u c.g f va = .ok p ∧ fetchBroken c.s c.u p.pa = false ∧ va % 4 ≠ 0) ∧
    (∃ (c : Ctx) (f : Fibre) (va : Nat) (p : Page), fetchPage c.s c.u c.g f va = .ok p ∧ fetchBroken c.s c.u p.pa = true) ∧
    (∃ (c : Ctx) (f : Fibre) (va cause sub addr : Nat), fetchPage c.s c.u c.g f va = .error (.fault cause sub addr)) ∧
    (∃ (c : Ctx) (f : Fibre) (va : Nat) (w : Wait), fetchPage c.s c.u c.g f va = .error (.block w)) ∧
    ∃ (x : Line) (k : Nat), k ∈ lineStarts x ∧ k + parcelCount (lineParcel x k) < 15 ∧ k ≠ 0 :=
  ⟨⟨cN, f0, 0x1038, pageAt 0x1000, by decide, by decide, by decide, by decide, rfl⟩,
    ⟨cN, f0, 0x103C, pageAt 0x1000, by decide, rfl, by decide⟩, ⟨cN, f0, 0x1002, pageAt 0x1000, by decide, rfl, by decide⟩,
    ⟨{ cN with s := sBroken }, f0, 0x2000, pageAt 0x2000, by decide, by decide⟩,
    ⟨c0, f0, 2 ^ 63, 5, 0, 2 ^ 63, by decide⟩, ⟨{ c0 with s := { s0 with svcmode := 1 } }, f0, 0x1000, _, rfl⟩, ⟨nopLine, 13, by decide⟩⟩

theorem witness_Branches :
    (∃ (s : State) (c : Ctx) (o : OpJ), Issued s o.g c ∧
      (∀ ln, Active o.g c ln → transferCheck c ln.f (c.pc + BitVec.ofInt 64 (4 * o.disp.toInt)).toNat = .ok ()) ∧
      ∀ ln, Active o.g c ln → 2 ≤ vecCount c.g ln.f ∧ destsReady c ln.f 0 0 2 = .ok ()) ∧
    (∃ (s : State) (c : Ctx) (o : OpU) (t : Lane → DWord), Issued s o.g c ∧
      ∀ ln, Active o.g c ln → srcPair c ln.f false o.a = .ok (t ln) ∧ transferCheck c ln.f (t ln).toNat = .ok ()) ∧
    (∃ (s : State) (c : Ctx) (o : OpN) (t : Lane → DWord), Issued s o.g c ∧
      ∀ ln, Active o.g c ln → srcPairReg c ln.f 0 0 true = .ok (t ln) ∧ transferCheck c ln.f (t ln).toNat = .ok ()) ∧
    (∃ (s : State) (c : Ctx) (o : OpJ) (thr : Lane → Word), Issued s o.g c ∧ ∀ ln, Active o.g c ln →
      slotCheck s c.u (domainOf c.g ln.f) (o.d.toNat % 64) = .ok () ∧ srcField c ln.f false o.a = .ok (thr ln) ∧
      (((colWord s c.u (o.d.toNat % 64)).extractLsb' 0 28).toNat < (thr ln).toNat →
        transferCheck c ln.f (c.pc + BitVec.ofInt 64 (4 * o.disp.toInt)).toNat = .ok ())) ∧
    (∃ (s : State) (c : Ctx) (o : OpN) (first : Lane), Issued s o.g c ∧ FirstActive o.g c first ∧
      ∀ ln, Active o.g c ln → vecCount c.g ln.f < 2 ∧ ln.f.reg 0 = { val := 0, st := .full }) ∧
    ∃ (s : State) (c : Ctx) (o : OpJ) (first : Lane), Issued s o.g c ∧ FirstActive o.g c first ∧
      ∀ ln, Active o.g c ln → vecCount c.g ln.f < 2 :=
  ⟨⟨sN, cN, { g := always, d := 0, a := reg 0, disp := -2#32 + 16 }, issuedN, active_of rfl rfl, active_of rfl ⟨by decide, rfl⟩⟩,
    ⟨_, cR, { g := always, d := 0, a := reg 0 }, fun _ => 0x1038, issuedR, active_of rfl ⟨rfl, rfl⟩⟩,
    ⟨_, cR, { g := always, rsv := 0 }, fun _ => 0x1038, issuedR, active_of rfl ⟨rfl, rfl⟩⟩,
    ⟨runs 32 (grp f0), ctxOf 32 (grp f0) f0, { g := always, d := 63, a := reg 9, disp := 2 }, fun _ => 0, issued_of rfl rfl rfl,
      active_of rfl ⟨rfl, rfl, fun h => absurd h (Nat.not_lt_zero _)⟩⟩,
    ⟨runs 0 { grp { pc := 0x1000 } with hdr := { hdr with kregs := 0 } }, ctxOf 0 { grp { pc := 0x1000 } with hdr := { hdr with kregs := 0 } } { pc := 0x1000 },
      { g := always, rsv := 0 }, _, issued_of rfl rfl rfl, first_of rfl rfl, active_of rfl ⟨by decide, rfl⟩⟩,
    ⟨runs 0 { grp { pc := 0x1000 } with hdr := { hdr with kregs := 0 } }, ctxOf 0 { grp { pc := 0x1000 } with hdr := { hdr with kregs := 0 } } { pc := 0x1000 },
      { g := always, d := 0, a := reg 0, disp := 2 }, _, issued_of rfl rfl rfl, first_of rfl rfl, active_of rfl (P := fun ln => vecCount _ ln.f < 2) (by decide)⟩⟩

/-- A supervisor fibre with an address to return to. -/
def fEret : Fibre := { f0 with sup := true, fpc := 0x4000000000000000 }
theorem witness_TrapsAndReturns :
    (∃ (s : State) (c : Ctx) (o : OpN) (first : Lane), Issued s o.g c ∧ FirstActive o.g c first) ∧
    (∃ (s : State) (c : Ctx) (o : OpU) (first : Lane), Issued s o.g c ∧ FirstActive o.g c first) ∧
    (∃ (s : State) (c : Ctx) (o : OpN), Issued s o.g c ∧
      ∀ ln, Active o.g c ln → ln.f.saving = false → transferCheck c ln.f ln.f.fpc.toNat = .ok ()) ∧
    (∃ (s : State) (c : Ctx) (o : OpT) (n : Lane → Word), Issued s o.g c ∧ DestsFree c o 1 ∧ ReadsB32 c o n ∧
      ∀ ln, Active o.g c ln → (n ln).toNat ≤ 63 ∧ slotCheck s c.u (domainOf c.g ln.f) (n ln).toNat = .ok ()) ∧
    ∃ (s : State) (c : Ctx) (o : OpT) (n : Lane → Word) (first : Lane), Issued s o.g c ∧ DestsFree c o 1 ∧ ReadsB32 c o n ∧
      FirstActive o.g c first ∧ ∀ ln, Active o.g c ln → 63 < (n ln).toNat :=
  ⟨⟨s0, c0, { g := always, rsv := 0 }, _, issued0, first_of rfl rfl⟩, ⟨s0, c0, { g := always, d := 7, a := reg 0 }, _, issued0, first_of rfl rfl⟩,
    ⟨runs 32 (grp fEret), ctxOf 32 (grp fEret) fEret, { g := always, rsv := 0 }, issued_of rfl rfl rfl,
      active_of rfl fun _ => rfl⟩,
    ⟨runs 32 (grp (fib [63])), ctxOf 32 (grp (fib [63])) (fib [63]), opT 0 2 0 0 0, fun _ => 63, issued_of rfl rfl rfl, active_of rfl rfl,
      active_of rfl rfl, active_of rfl ⟨by decide, rfl⟩⟩,
    ⟨runs 0 (grp (fib [64])), ctxOf 0 (grp (fib [64])) (fib [64]), opT 0 2 0 0 0, fun _ => 64, _, issued_of rfl rfl rfl, active_of rfl rfl,
      active_of rfl rfl, first_of rfl rfl, active_of rfl (P := fun _ => 63 < (64 : Word).toNat) (by decide)⟩⟩

/-! ## Signing, barriers, regions, gates and migration -/

/-- A signing of c1 by fibre 0, and groups in which c1 expects 33, 2 with one other signer of another operation, and 2. -/
def signReq : SignReq := { cv := 1, key := [0x013], cross := true, signer := { fibre := 0, x := 0, y := 0, p := false, d := 0 } }
def fSigned : Fibre := { f0 with signs := 2 }
def gConv33 : Machine.Group := { grp f0 with convs := [(1, { e := 33 })] }
def gConvKey : Machine.Group :=
  { grp f0 with convs := [(1, { e := 2, signers := [{ fibre := 5, x := 0, y := 0, p := false, d := 0 }], key := [1] })] }
def gConv2 : Machine.Group := { grp f0 with convs := [(1, { e := 2 })] }
theorem witness_Signing :
    (∃ (s : State) (c : Ctx) (o : OpT) (n : Lane → Word), Issued s o.g c ∧ (∀ ln, Active o.g c ln → ln.f.gate = none) ∧
      ReadsB32 c o n) ∧
    (∃ (c : Ctx) (s : State) (id : Nat) (r : SignReq) (g : Machine.Group) (f : Fibre), s.group c.u c.slot = some g ∧
      sget g.fibres id = some f ∧ r.signer.fibre = id ∧ f.signs.getLsbD r.cv = true) ∧
    (∃ (c : Ctx) (s : State) (id : Nat) (r : SignReq) (g : Machine.Group) (f : Fibre), s.group c.u c.slot = some g ∧
      sget g.fibres id = some f ∧ r.signer.fibre = id ∧ f.signs.getLsbD r.cv = false ∧ r.cross = true ∧ 32 < (g.conv r.cv).e) ∧
    (∃ (c : Ctx) (s : State) (id : Nat) (r : SignReq) (g : Machine.Group) (f : Fibre), s.group c.u c.slot = some g ∧
      sget g.fibres id = some f ∧ r.signer.fibre = id ∧ f.signs.getLsbD r.cv = false ∧ ¬ (r.cross = true ∧ 32 < (g.conv r.cv).e) ∧
      (g.conv r.cv).signers ≠ [] ∧ (g.conv r.cv).key ≠ r.key) ∧
    (∃ (c : Ctx) (s : State) (id : Nat) (r : SignReq) (g : Machine.Group) (f : Fibre), s.group c.u c.slot = some g ∧
      sget g.fibres id = some f ∧ r.signer.fibre = id ∧ f.signs.getLsbD r.cv = false ∧ ¬ (r.cross = true ∧ 32 < (g.conv r.cv).e) ∧
      (g.conv r.cv).signers = [] ∧ (g.conv r.cv).signers.length + 1 < (g.conv r.cv).e ∧ f.gate = none) ∧
    ∃ (c : Ctx) (s : State) (id : Nat) (r : SignReq) (g : Machine.Group) (f : Fibre), s.group c.u c.slot = some g ∧
      sget g.fibres id = some f ∧ r.signer.fibre = id ∧ f.signs.getLsbD r.cv = false ∧ ¬ (r.cross = true ∧ 32 < (g.conv r.cv).e) ∧
      (g.conv r.cv).signers = [] ∧ (g.conv r.cv).e ≤ (g.conv r.cv).signers.length + 1 :=
  ⟨⟨s0, c0, opT 0 2 0 1 1, fun _ => 7, issued0, active_of rfl rfl, active_of rfl rfl⟩,
    ⟨c0, runs 0 (grp fSigned), 0, signReq, grp fSigned, fSigned, rfl, rfl, rfl, rfl⟩, ⟨c0, runs 0 gConv33, 0, signReq, gConv33, f0, rfl, rfl, rfl, rfl, rfl, by decide⟩,
    ⟨c0, runs 0 gConvKey, 0, signReq, gConvKey, f0, rfl, rfl, rfl, rfl, by decide, by decide, by decide⟩,
    ⟨c0, runs 0 gConv2, 0, signReq, gConv2, f0, rfl, rfl, rfl, rfl, by decide, rfl, by decide, rfl⟩,
    ⟨c0, s0, 0, signReq, grp f0, f0, rfl, rfl, rfl, rfl, by decide, rfl, by decide⟩⟩

theorem witness_CrossLane :
    (∃ (s : State) (c : Ctx) (o : OpT) (x y : Lane → Word), Issued s o.g c ∧ (∀ ln, Active o.g c ln → ln.f.gate = none ∧
      ln.f.signs.getLsbD (o.c.toNat % 16) = false ∧ destsReady c ln.f 0 o.d.toNat 1 = .ok ()) ∧ ReadsA32 c o x ∧ ReadsB32 c o y) ∧
    (∃ (s : State) (c : Ctx) (o : OpT), Issued s o.g c ∧ (∀ ln, Active o.g c ln → ln.f.gate = none ∧
        ln.f.signs.getLsbD (o.c.toNat % 16) = false ∧ destsReady c ln.f 0 o.d.toNat 1 = .ok ()) ∧
      ∀ ln, Active o.g c ln → ln.f.predPend.getLsbD (o.c.toNat / 16 % 8) = false) ∧
    (∃ (s : State) (c : Ctx) (o : OpT), Issued s o.g c ∧ ∀ ln, Active o.g c ln → ln.f.gate = none ∧
      ln.f.signs.getLsbD (o.c.toNat % 16) = false ∧ ln.f.predPend.getLsbD (o.c.toNat / 16 % 8) = false ∧
      ln.f.predPend.getLsbD (o.d.toNat % 8) = false) ∧
    (∃ (s : State) (c : Ctx) (o : OpT) (a : Lane → DWord), o.ty = 2 ∧ Issued s o.g c ∧ (∀ ln, Active o.g c ln → ln.f.gate = none ∧
      ln.f.signs.getLsbD (o.c.toNat % 16) = false ∧ destsReady c ln.f 0 o.d.toNat 2 = .ok ()) ∧ ReadsA c o a) ∧
    ∃ (ty : BitVec 4) (xs : List DWord), xs ≠ [] ∧ (ty = 0 ∨ ty = 1 ∨ ty = 2) ∧ (∀ x ∈ xs, x.toNat < 2 ^ intWidth ty) ∧
      ∃ i, i < intWidth ty :=
  ⟨⟨s0, c0, opT 0 2 0 1 1, fun _ => 5, fun _ => 7, issued0, active_of rfl ⟨rfl, rfl, rfl⟩, active_of rfl rfl, active_of rfl rfl⟩,
    ⟨s0, c0, opT 0 2 0 1 0x71, issued0, active_of rfl ⟨rfl, rfl, rfl⟩, active_of rfl rfl⟩,
    ⟨s0, c0, opT 0 7 0 1 0x71, issued0, active_of rfl ⟨rfl, rfl, rfl, rfl⟩⟩,
    ⟨s0, c0, opT 2 4 0 2 1, fun _ => 0x700000005, rfl, issued0, active_of rfl ⟨rfl, rfl, rfl⟩, active_of rfl rfl⟩,
    ⟨0, [0xFFFFFFFF, 0], by decide, by decide, by simp [intWidth], 31, by decide⟩⟩

/-- A fibre at BAR.grp, and one at BAR.gang. -/
def fBar (gang : Bool) : Fibre := { f0 with wait := some (.barrier gang) }
/-- A supervisor group runs under physical addressing: every address is its own translation. -/
def gSup (f : Fibre) : Machine.Group := { grp f with phys := true, hdr := { hdr with kframe := 128, kfibs := 2 } }
/-- A user group with no frames and room for a second fibre. -/
def g2 (f : Fibre) : Machine.Group := { grp f with hdr := { hdr with kfibs := 2 } }

/-- A group whose header gives frames of 128 bytes, on a core whose translation cache maps address 0 of its domain. -/
def gFrame (f : Fibre) : Machine.Group := { grp f with hdr := { hdr with kframe := 128, kfibs := 2 } }
def sFrame (g : Machine.Group) : State := fetches 0 g nopLine
def cFrame (g : Machine.Group) (f : Fibre) : Ctx := { ctxOf 0 g f with s := sFrame g }

/-- The package at time 5. -/
def sLate : State := { s0 with dies := [(0, { Die.reset with time := 5 })] }
def cLate : Ctx := { c0 with s := sLate }
/-- A gang of two groups, on cores of dies 0 and 1, whose fibres are at BAR.gang. -/
def gGang : Machine.Group := { grp (fBar true) with task := some 0 }
def twoGroups : State :=
  { State.reset with
    cores := [(0, { slots := [(0, gGang)] }), (32, { slots := [(1, gGang)] })]
    tasks := [(0, { st := .running, khdr := 0, arg := 0, waitc := 0, donec := 0, queue := 0, prio := 0, kind := 1, domain := 0, launch := 0,
                    pasid := 0, hdr := hdr, groups := [(0, 0), (32, 1)] })] }
set_option maxRecDepth 8000 in
theorem witness_BarriersAndFibres :
    (∃ (s : State) (c : Ctx) (o : OpN) (gang : Bool), gang = true ∧ Issued s o.g c ∧ (∃ ln, Active o.g c ln) ∧
      ∀ ln, Active o.g c ln → releaseCheck c ln 4 = .ok () ∧ allReturned s c.u c.slot ln.id = true) ∧
    (∃ (s : State) (c : Ctx) (o : OpN) (gang : Bool), gang = false ∧ Issued s o.g c ∧ (∃ ln, Active o.g c ln) ∧
      ∀ ln, Active o.g c ln → releaseCheck c ln 2 = .ok () ∧ allReturned s c.u c.slot ln.id = true) ∧
    (∃ (s : State) (u slot : Nat) (g : Machine.Group), s.group u slot = some g ∧ (u, slot) ∈ gangPlaces s u slot g ∧
      (gangPlaces s u slot g).Nodup ∧ (∃ e ∈ liveFibres g, True) ∧ ∀ e ∈ liveFibres g, e.2.wait = some (.barrier false)) ∧
    (∃ (s : State) (u slot : Nat) (g : Machine.Group), s.group u slot = some g ∧ (u, slot) ∈ gangPlaces s u slot g ∧
      (gangPlaces s u slot g).Nodup ∧
      (∃ h, (∃ p ∈ gangPlaces s u slot g, s.group p.1 p.2 = some h) ∧ ∃ e ∈ liveFibres h, True) ∧
      ∀ h, (∃ p ∈ gangPlaces s u slot g, s.group p.1 p.2 = some h) → ∀ e ∈ liveFibres h, e.2.wait = some (.barrier true)) ∧
    (∃ (s : State) (u slot : Nat) (g : Machine.Group), s.group u slot = some g ∧ (u, slot) ∈ gangPlaces s u slot g ∧
      (gangPlaces s u slot g).Nodup ∧ (∃ e ∈ liveFibres g, e.2.wait ≠ some (.barrier false)) ∧
      ∃ h, (∃ p ∈ gangPlaces s u slot g, s.group p.1 p.2 = some h) ∧ ∃ e ∈ liveFibres h, e.2.wait ≠ some (.barrier true)) ∧
    (∃ (s : State) (c : Ctx) (o : OpN) (page : Lane → Option Page), Issued s o.g c ∧ (∃ ln, Active o.g c ln) ∧
      convShort c.g ((activeOf o.g c.lanes).map (·.id)) = none ∧
      ∀ ln, Active o.g c ln → (c.g.hdr.kframe = 0 → page ln = none) ∧
        (c.g.hdr.kframe ≠ 0 → ∃ p, page ln = some p ∧ holdCheck c ln = .ok () ∧ frameCheck c ln.f ln.id 64 = .ok p ∧ frameSlot c p = none)) ∧
    (∃ (s : State) (u slot : Nat) (g : Machine.Group) (id j : Nat), s.group u slot = some g ∧ j ≠ id) ∧
    ∃ (s : State) (c : Ctx) (o : OpJ) (v : Lane → Word) (slotOf : Lane → Option (Nat × Option Page)), Issued s o.g c ∧
      ∀ ln, Active o.g c ln → srcField c ln.f false o.a = .ok (v ln) ∧ destReady c ln.f 0 o.d.toNat = .ok () ∧
        targetCheck c ln.f (c.pc + BitVec.ofInt 64 (4 * o.disp.toInt)).toNat = .ok () ∧
        match (freeSlots s c.u c.slot c.g)[((activeOf o.g c.lanes).takeWhile fun x => x.id != ln.id).length]? with
        | none => slotOf ln = none
        | some id =>
          (c.g.hdr.kframe = 0 → slotOf ln = some (id, none)) ∧
          (c.g.hdr.kframe ≠ 0 → ∃ p, holdCheck c ln = .ok () ∧ frameCheck c ln.f id (Nat.min c.g.hdr.kframe 128) = .ok p ∧ frameSlot c p = none ∧
            slotOf ln = some (id, some p)) :=
  ⟨⟨sLate, cLate, { g := always, rsv := 0 }, true, rfl,
      issued_of rfl rfl rfl, some_of rfl rfl,
      active_of rfl ⟨rfl, rfl⟩⟩,
    ⟨s0, c0, { g := always, rsv := 0 }, false, rfl, issued0, some_of rfl rfl, active_of rfl ⟨rfl, rfl⟩⟩,
    ⟨runs 0 (grp (fBar false)), 0, 0, _, rfl, by decide, by decide, ⟨(0, fBar false), by decide, trivial⟩, by decide⟩,
    ⟨twoGroups, 0, 0, _, rfl, by decide, by decide, ⟨_, ⟨(32, 1), by decide, rfl⟩, ⟨(0, fBar true), by decide, trivial⟩⟩, by
      rintro h ⟨p, hp, hh⟩
      obtain rfl | rfl : p = (0, 0) ∨ p = (32, 1) := by simpa [twoGroups, gangPlaces, gGang, sget] using hp
      all_goals
        obtain rfl := Option.some.inj hh
        decide⟩,
    ⟨s0, 0, 0, _, rfl, by decide, by decide, ⟨(0, f0), by decide, by decide⟩, _, ⟨(0, 0), by decide, rfl⟩, (0, f0), by decide, by decide⟩,
    ⟨sFrame (gFrame f0), cFrame (gFrame f0) f0, { g := always, rsv := 0 }, fun _ => some (pageAt 0), issued_of rfl rfl rfl,
      some_of rfl rfl, rfl, active_of rfl ⟨fun h => absurd h (by decide), fun _ => ⟨pageAt 0, rfl, rfl, by decide, rfl⟩⟩⟩,
    ⟨s0, 0, 0, _, 0, 1, rfl, by decide⟩,
    ⟨sFrame (gFrame f0), cFrame (gFrame f0) f0, { g := always, d := 2, a := reg 1, disp := 2 }, fun _ => 7, fun _ => some (1, some (pageAt 128)),
      issued_of rfl rfl rfl, active_of rfl ⟨rfl, rfl, by decide, fun h => absurd h (by decide), fun _ => ⟨pageAt 128, rfl, by decide, rfl, rfl⟩⟩⟩⟩

/-- A domain whose gate table, of one gate, lies at 0x2000, the gate's descriptor, and the target domain's set. -/
def gateDie : Die :=
  { Die.reset with
    ctl := sset (sset Die.reset.ctl (0x6000600028 / 8) 0x2000) (0x6000600030 / 8) 1 }
def sGate (granules : DWord) (g : Machine.Group) : State :=
  { State.reset with
    dies := (List.range 8).map fun d => (d, gateDie)
    mem := [(0x2000, 0x04), (0x2001, 0x10), (0x2008, 1), (0x200B, 8), (0x200C, 1)]
    cores := [(0, { slots := [(0, g)], tlb := [page0 0], icache := [(64, nopLine)],
                    dparts := [(1, { reg := 0x8080000000640000 ||| granules })] })]
    cur := some { u := 0, slot := 0, fibres := [0], pc := 0x1000 } }
def theCall : GateCall := { num := 0, entry := 0x1004, tdom := 1, tset := 1, nres := 0, gregs := 8, args := [] }
/-- A fibre inside that gate, whose v0 is its result. -/
def fGate : Fibre :=
  { fib [5] with gate := some { ret := 0x1008, callPc := 0x1000, vd := 8, nres := 1, num := 0, tdom := 1, tset := 1, gregs := 8,
                                base := 100, callerRegs := [], callerBase := 0 } }
/-- A fibre that has arrived at a migration to the home `h`. -/
def fMigr (h : Nat) : Fibre := { f0 with wait := some (.migrate 0x1000 h 0x1008 0) }
def gMigr (hs : List Nat) : Machine.Group :=
  { grp f0 with task := some 0, fibres := hs.zipIdx.map fun e => (e.2, fMigr e.1) }
/-- The task of that group, with a landing slot on die 1. -/
def migrTask : Task :=
  { st := .running, khdr := 0, arg := 0, waitc := 0, donec := 0, queue := 0, prio := 0, kind := 1, domain := 0, launch := 0, pasid := 0,
    hdr := hdr, landing := [(64, 3)] }

set_option maxRecDepth 8000 in
theorem witness_RegionsGatesMigration_rgn :
    ∃ (s : State) (c : Ctx) (o : OpG) (vs : Lane → List Word) (page : Lane → Page), Issued s o.g c ∧ 128 ≤ c.g.hdr.kframe ∧
      ∀ ln, Active o.g c ln → readLiveIns c ln.f (((List.range 32).filter fun i => o.mask.getLsbD i).map (o.base.toNat + ·)) =
        .ok (vs ln) ∧ ln.f.gate = none ∧ ln.f.predPend = 0 ∧ holdCheck c ln = .ok () ∧
        frameCheck c ln.f ln.id 128 = .ok (page ln) ∧ frameSlot c (page ln) = none :=
  ⟨sFrame (gFrame f0), cFrame (gFrame f0) f0, { g := always, base := 1, rsv := 0, mask := 3 }, fun _ => [7, 9], fun _ => pageAt 0,
      issued_of rfl rfl rfl, by decide, active_of rfl ⟨rfl, rfl, rfl, rfl, by decide, rfl⟩⟩

/-- gcall.0 v8. -/
def gateOp : OpT := { opT 15 8 0 0 0 with lit := some 0 }
set_option maxRecDepth 20000 in
theorem witness_RegionsGatesMigration_gcall :
    ∃ (s : State) (c : Ctx) (o : OpT) (x : Lane → GateCall), Issued (noteGates o s) o.g c ∧
      ∀ ln, Active o.g c ln → gcallCheck o c ln = .ok (x ln) :=
  have ⟨x, hx⟩ := of_passes (show passes (gcallCheck gateOp { c0 with s := noteGates gateOp (sGate 8 (grp f0)) } l0) = true by decide)
  ⟨sGate 8 (grp f0), { c0 with s := noteGates gateOp (sGate 8 (grp f0)) }, gateOp, fun _ => x, issued_of (by rfl) rfl rfl, active_of rfl hx⟩

theorem witness_RegionsGatesMigration_gateBusy :
    ∃ (c : Ctx) (s : State) (ln : Lane) (x : GateCall) (set : Nat) (p : Dpart) (f : Fibre), dpartOf s c.u x.tdom = some (set, p) ∧
      s.fibre c.u c.slot ln.id = some f ∧ findRun (vecHeld (s.core c.u)) p.vbase p.vgran (x.gregs / 8) = none :=
  ⟨c0, sGate 0 (grp f0), l0, theCall, _, _, _, rfl, rfl, rfl⟩

theorem witness_RegionsGatesMigration_gateFree :
    ∃ (c : Ctx) (s : State) (ln : Lane) (x : GateCall) (set base : Nat) (p : Dpart) (f : Fibre), dpartOf s c.u x.tdom = some (set, p) ∧
      s.fibre c.u c.slot ln.id = some f ∧ findRun (vecHeld (s.core c.u)) p.vbase p.vgran (x.gregs / 8) = some base :=
  ⟨c0, sGate 8 (grp f0), l0, theCall, _, _, _, _, rfl, rfl, rfl⟩

theorem witness_RegionsGatesMigration_gret :
    ∃ (s : State) (c : Ctx) (o : OpN) (k : Lane → Gate) (vs : Lane → List Word), Issued s o.g c ∧
      ∀ ln, Active o.g c ln → ln.f.gate = some (k ln) ∧ srcRegs c ln.f 0 0 true (k ln).nres = .ok (vs ln) ∧
        (k ln).vd + (k ln).nres ≤ granules8 c.g.hdr.kregs ∧
        (∀ i, i < (k ln).nres → (ln.f.ownReg ((k ln).vd + i)).pending = false) ∧
        (∀ r ∈ (s.core c.u).returns, ¬ (r.slot = c.slot ∧ r.fibre = ln.id)) ∧
        transferCheck c { ln.f with gate := none, regs := (k ln).callerRegs, windowBase := (k ln).callerBase, pc := (k ln).ret,
                                    preds := (k ln).callerPreds, predPend := (k ln).callerPend, flags := (k ln).callerFlags,
                                    ftz := (k ln).callerFtz } (k ln).ret.toNat = .ok () :=
  ⟨fetches 0 (grp fGate) nopLine, { ctxOf 0 (grp fGate) fGate with s := fetches 0 (grp fGate) nopLine }, { g := always, rsv := 0 },
      fun _ => _, fun _ => [5], issued_of rfl rfl rfl,
      fun ln hl => by
        obtain rfl : ln = ⟨0, 0, fGate⟩ := by simpa [ctxOf] using hl.1
        exact ⟨rfl, rfl, by decide, by decide, by intro r hr; simp [fetches, State.core, sgetD, sget, ctxOf] at hr, rfl⟩⟩

theorem witness_RegionsGatesMigration_gretOutside :
    ∃ (s : State) (c : Ctx) (o : OpN) (first : Lane), Issued s o.g c ∧ FirstActive o.g c first ∧
      ∀ ln, Active o.g c ln → ln.f.gate = none :=
  ⟨s0, c0, { g := always, rsv := 0 }, _, issued0, first_of rfl rfl, active_of rfl rfl⟩

theorem witness_RegionsGatesMigration_migr :
    ∃ (s : State) (c : Ctx) (o : OpM) (a : Lane → Nat) (home : Lane → Nat), Issued s o.g c ∧ isSupCore c.u = false ∧
      (∃ ln, Active o.g c ln) ∧ ∀ ln, Active o.g c ln → ln.f.gate = none ∧ addr64 c ln.f o 1 = .ok (a ln) ∧
        ∃ p, translate s c.u (whoOf s c.u c.g ln.f) (a ln) .load 1 true = .ok p ∧
          home ln = if paPkg p.pa = s.pkg then paDie p.pa else 8 :=
  ⟨_, cR, opM 0 15 0 2 0 0, fun _ => 0x1038, fun _ => 0, issuedR, rfl, some_of rfl rfl,
      active_of rfl ⟨rfl, rfl, pageAt 0x1038, rfl, rfl⟩⟩

theorem witness_RegionsGatesMigration_homesDiffer :
    ∃ (s : State) (u slot h : Nat) (t : List Nat) (g : Machine.Group), s.group u slot = some g ∧ g.canIssue = true ∧
      migrArrived g = true ∧ migrHomes g = h :: t ∧ ∃ j ∈ t, j ≠ h :=
  ⟨runs 0 (gMigr [1, 8]), 0, 0, 1, [8], _, rfl, rfl, rfl, rfl, 8, by decide, by decide⟩

theorem witness_RegionsGatesMigration_homeLost :
    ∃ (s : State) (u slot h : Nat) (t : List Nat) (g : Machine.Group), s.group u slot = some g ∧ g.canIssue = true ∧
      migrArrived g = true ∧ migrHomes g = h :: t ∧ (∀ j ∈ t, j = h) ∧ (dieLost s (dieOf u)).testBit h = true :=
  ⟨{ runs 0 (gMigr [1]) with dies := (List.range 8).map fun d => (d, if d = 1 then { Die.reset with judged := true, alive := false } else { Die.reset with ctl := sset Die.reset.ctl (0x6000800040 / 8) 2 }) },
      0, 0, 1, [], _, rfl, rfl, rfl, rfl, by simp, by decide⟩

theorem witness_RegionsGatesMigration_homeHere :
    ∃ (s : State) (u slot h : Nat) (t : List Nat) (g : Machine.Group), s.group u slot = some g ∧ g.canIssue = true ∧
      migrArrived g = true ∧ migrHomes g = h :: t ∧ (∀ j ∈ t, j = h) ∧ (dieLost s (dieOf u)).testBit h = false ∧ h = dieOf u :=
  ⟨runs 0 (gMigr [0, 0]), 0, 0, 0, [0], _, rfl, rfl, rfl, rfl, by simp, by decide, by decide⟩

theorem witness_RegionsGatesMigration_noLanding :
    ∃ (s : State) (u slot h : Nat) (t : List Nat) (g : Machine.Group), s.group u slot = some g ∧ g.canIssue = true ∧
      migrArrived g = true ∧ migrHomes g = h :: t ∧ (∀ j ∈ t, j = h) ∧ (dieLost s (dieOf u)).testBit h = false ∧ h ≠ dieOf u ∧
      landingOn s g h = none :=
  ⟨runs 0 (gMigr [1]), 0, 0, 1, [], _, rfl, rfl, rfl, rfl, by simp, by decide, by decide, rfl⟩

theorem witness_RegionsGatesMigration_landingTaken :
    ∃ (s : State) (u slot h : Nat) (t : List Nat) (g : Machine.Group) (p : Nat × Nat), s.group u slot = some g ∧ g.canIssue = true ∧
      migrArrived g = true ∧ migrHomes g = h :: t ∧ (∀ j ∈ t, j = h) ∧ (dieLost s (dieOf u)).testBit h = false ∧ h ≠ dieOf u ∧
      landingOn s g h = some p ∧ landingTaken s g h = true :=
  ⟨{ runs 0 (gMigr [1]) with
      cores := [(0, { slots := [(0, gMigr [1]), (1, { gMigr [1] with st := .migrating 1 })] })]
      tasks := [(0, { migrTask with groups := [(0, 0), (0, 1)] })] }, 0, 0, 1, [], _, _, rfl, rfl, rfl, rfl, by simp, by decide, by decide, rfl,
    rfl⟩

theorem witness_RegionsGatesMigration_landing :
    ∃ (s : State) (u slot h : Nat) (t : List Nat) (g : Machine.Group) (p : Nat × Nat), s.group u slot = some g ∧ g.canIssue = true ∧
      migrArrived g = true ∧ migrHomes g = h :: t ∧ (∀ j ∈ t, j = h) ∧ (dieLost s (dieOf u)).testBit h = false ∧ h ≠ dieOf u ∧
      landingOn s g h = some p ∧ landingTaken s g h = false :=
  ⟨{ runs 0 (gMigr [1]) with tasks := [(0, migrTask)] }, 0, 0, 1, [], _, _, rfl, rfl, rfl, rfl, by simp, by decide, by decide, rfl, rfl⟩

/-! ## Memory -/

/-- A fibre whose v0 is the scratchpad or DSM offset 16, and one whose v0 and v1 hold the address 0x2000. -/
def fSp : Fibre := fib [16, 7, 9]
def fGl : Fibre := fib [0x2000, 0, 7, 9]
def sSp : State := runs 0 (grp fSp)
def cSp : Ctx := ctxOf 0 (grp fSp) fSp
theorem issuedSp : Issued sSp always cSp := issued_of rfl rfl rfl
def sGl : State := fetches 0 (grp fGl) nopLine
def cGl : Ctx := { ctxOf 0 (grp fGl) fGl with s := sGl }
theorem issuedGl : Issued sGl always cGl := issued_of rfl rfl rfl
/-- The same on the line of a set that owns the first segment of DSM. -/
def dsDie : Die := { Die.reset with ctl := sset Die.reset.ctl (0x6000100000 / 8) 0x80000000 }
def sDs : State := { sSp with dies := [(0, dsDie)] }
def cDs : Ctx := { cSp with s := sDs }
/-- The page of address 0 on die 1 and a slot that leads there and admits nothing. -/
def pageFar : TlbEntry := { probeEntry with entry := BitVec.ofNat 128 (2 * 2 ^ 62 + 7 * 2 ^ 59 + 2 ^ 53) }
def slotWord : Nat := 2 ^ 63 + 1 * 2 ^ 41
def farDie : Die := { Die.reset with ctl := sset Die.reset.ctl ((0x6000A00000 + 48) / 8) (BitVec.ofNat 64 slotWord) }
def sFar : State :=
  { State.reset with
    dies := (List.range 8).map fun d => (d, farDie)
    cores := [(0, { slots := [(0, grp fGl)], tlb := [pageFar], slotSt := [(3, { ceiling := 0 })] })]
    cur := some { u := 0, slot := 0, fibres := [0], pc := 0x1000 } }
def cFar : Ctx := { cGl with s := sFar }
theorem issuedFar : Issued sFar always cFar := issued_of rfl rfl rfl
theorem issuedDs : Issued sDs always cDs := issued_of rfl rfl rfl
/-- The same with the page on die 0 of package 1. -/
def sFarPkg : State :=
  { sFar with
    dies := [(0, { Die.reset with ctl := sset Die.reset.ctl ((0x6000A00000 + 48) / 8) (BitVec.ofNat 64 (2 ^ 63 + 2 ^ 54 + 2 ^ 44)) })]
    cores := [(0, { slots := [(0, grp fGl)], slotSt := [(3, { ceiling := 0 })],
                    tlb := [{ probeEntry with entry := BitVec.ofNat 128 (2 * 2 ^ 62 + 7 * 2 ^ 59 + 2 ^ 35) }] })] }
def cFarPkg : Ctx := { cGl with s := sFarPkg }
theorem issuedFarPkg : Issued sFarPkg always cFarPkg := issued_of rfl rfl rfl
/-- The states and lanes in which an acquire has not returned, and in which scratchpad's first line is locked. -/
def sAcq : State :=
  { sSp with cores := [(0, { slots := [(0, grp fSp)], returns := [{ id := 0, slot := 0, fibre := 0, dests := [], acq := true }] })] }
def sLock : State :=
  { sSp with cores := [(0, { slots := [(0, grp fSp)],
                             locks := [{ owner := 1, domain := 0, slot := 0, space := 1, dest := true, lines := [0], entries := 1 }] })] }
def lSp : Lane := ⟨0, 0, fSp⟩
def lGl : Lane := ⟨0, 0, fGl⟩

/-- The page of address 0 with .e4m3 elements and block scales in the next page, which holds bytes. -/
def pageScaled : TlbEntry :=
  { probeEntry with entry := BitVec.ofNat 128 (4 * 2 ^ 124 + 2 ^ 122 + 4 * 2 ^ 98 + 2 * 2 ^ 62 + 7 * 2 ^ 59) }
def pageNext : TlbEntry := { probeEntry with vpage := 1, entry := BitVec.ofNat 128 (2 * 2 ^ 62 + 7 * 2 ^ 59 + 2 ^ 12) }
/-- `sGl` with those pages and range locks on global lines. -/
def sScaled (lines : List Nat) : State :=
  { sGl with cores := [(0, { slots := [(0, grp fGl)], tlb := [pageScaled, pageNext], icache := [(64, nopLine)],
                             locks := [{ owner := 1, domain := 0, slot := 1, space := 0, dest := true, lines := lines, entries := 1 }] })] }
def cScaled (lines : List Nat) : Ctx := { cGl with s := sScaled lines }
/-- ld.g.e4m3 v4, [v0:v1]. -/
def opTyped : OpM := opM 0 6 2 4 0 0
/-- What its checks give: the elements at 0x2000, and the block scale at 0x10400 of the next page. -/
def xTyped : LdLane :=
  { t := .g { pageAt 0x2000 with fmt := 4, blk := 1, scoff := 4 } none
    scale := some (0x10400, .g { pageAt 0x10400 with first := 65536 } none) }
def xFar : LdLane := { t := .g (pageAt (2 ^ 42 + 0x2000)) (some 3), scale := none }
/-- A load of that line in flight. -/
def cFarBusy : Ctx :=
  { cFarPkg with s := { sFarPkg with flights := [{ id := 0, u := 0, slot := 0, kind := .load true, pa := 2 ^ 42 + 0x2000,
                                                    parts := [{ fibre := 0, addr := 2 ^ 42 + 0x2000, size := 4 }] }] } }

set_option maxRecDepth 100000 in
theorem witness_Loads_exec :
    ∃ (s : State) (c : Ctx) (o : OpM) (v : Lane → LdLane), Issued s o.g c ∧ (∃ ln, Active o.g c ln) ∧
      ∀ ln, Active o.g c ln → ldCheck o c ln = .ok (v ln) :=
  ⟨sGl, cGl, opM 0 15 2 4 0 0, fun _ => { t := .g (pageAt 0x2000) none, scale := none }, issuedGl, some_of rfl rfl, active_of rfl (by decide)⟩
theorem witness_Loads_checks :
    (∃ (c : Ctx) (ln : Lane), acquiring c.s c.u c.slot ln.id = true) ∧
    (∃ (o : OpM) (c : Ctx) (ln : Lane) (ea : Nat), o.space = 1 ∧ acquiring c.s c.u c.slot ln.id = false ∧
      addrOf c ln.f o (shapeOf o).span = .ok ea ∧ destsReady c ln.f 0 o.d.toNat (shapeOf o).n = .ok () ∧
      misaligned (shapeOf o).fp6 ea (shapeOf o).span = true) ∧
    (∃ (o : OpM) (c : Ctx) (ln : Lane) (ea : Nat), o.space = 1 ∧ acquiring c.s c.u c.slot ln.id = false ∧
      addrOf c ln.f o (shapeOf o).span = .ok ea ∧ destsReady c ln.f 0 o.d.toNat (shapeOf o).n = .ok () ∧
      misaligned (shapeOf o).fp6 ea (shapeOf o).span = false ∧ 32768 * (spBanks c.g ln.f).length < ea + (shapeOf o).span) ∧
    (∃ (o : OpM) (c : Ctx) (ln : Lane) (ea : Nat), o.space = 1 ∧ acquiring c.s c.u c.slot ln.id = false ∧
      addrOf c ln.f o (shapeOf o).span = .ok ea ∧ destsReady c ln.f 0 o.d.toNat (shapeOf o).n = .ok () ∧
      misaligned (shapeOf o).fp6 ea (shapeOf o).span = false ∧ ea + (shapeOf o).span ≤ 32768 * (spBanks c.g ln.f).length ∧
      lockHit c.s c.u (domainOf c.g ln.f) c.slot 1 ea (shapeOf o).span = true) ∧
    ∃ (o : OpM) (c : Ctx) (ln : Lane) (ea : Nat), o.space = 1 ∧ acquiring c.s c.u c.slot ln.id = false ∧
      addrOf c ln.f o (shapeOf o).span = .ok ea ∧ destsReady c ln.f 0 o.d.toNat (shapeOf o).n = .ok () ∧
      misaligned (shapeOf o).fp6 ea (shapeOf o).span = false ∧ ea + (shapeOf o).span ≤ 32768 * (spBanks c.g ln.f).length ∧
      lockHit c.s c.u (domainOf c.g ln.f) c.slot 1 ea (shapeOf o).span = false :=
  ⟨⟨{ cSp with s := sAcq }, lSp, rfl⟩, ⟨opM 1 15 2 4 1 0, cSp, lSp, 7, rfl, rfl, rfl, rfl, rfl⟩,
    ⟨opM 1 15 2 4 0 0, cSp, ⟨0, 0, fib [65536]⟩, 65536, rfl, rfl, rfl, rfl, rfl, by decide⟩,
    ⟨opM 1 15 2 4 0 0, { cSp with s := sLock }, lSp, 16, rfl, rfl, rfl, rfl, rfl, by decide, rfl⟩,
    ⟨opM 1 15 2 4 0 0, cSp, ⟨0, 0, fib [65532]⟩, 65532, rfl, rfl, rfl, rfl, rfl, by decide, rfl⟩⟩

/-- The hypotheses of a global LD: its acquires, address, destinations, pages and routes pass. -/
def GlobalLd (o : OpM) (c : Ctx) (ln : Lane) (ea : Nat) (x : LdLane) : Prop :=
  o.space = 0 ∧ acquiring c.s c.u c.slot ln.id = false ∧ addrOf c ln.f o (shapeOf o).span = .ok ea ∧
    destsReady c ln.f 0 o.d.toNat (shapeOf o).n = .ok () ∧ ldGlobal c ln.f (shapeOf o) ea = .ok x
set_option maxRecDepth 100000 in
theorem globalTyped (lines : List Nat) (h : lines = [64] ∨ lines = [520] ∨ lines = []) :
    GlobalLd opTyped (cScaled lines) lGl 0x2000 xTyped := by
  obtain rfl | rfl | rfl := h <;> exact ⟨rfl, rfl, rfl, rfl, by decide⟩
set_option maxRecDepth 100000 in
theorem witness_Loads_global :
    (∃ (o : OpM) (c : Ctx) (ln : Lane) (ea : Nat) (x : LdLane), GlobalLd o c ln ea x ∧
      lockHit c.s c.u (domainOf c.g ln.f) c.slot 0 ea (shapeOf o).span = true) ∧
    (∃ (o : OpM) (c : Ctx) (ln : Lane) (ea : Nat) (x : LdLane) (a : Nat) (t : Target), GlobalLd o c ln ea x ∧
      lockHit c.s c.u (domainOf c.g ln.f) c.slot 0 ea (shapeOf o).span = false ∧ x.scale = some (a, t) ∧
      lockHit c.s c.u (domainOf c.g ln.f) c.slot 0 a 1 = true) ∧
    (∃ (o : OpM) (c : Ctx) (ln : Lane) (ea : Nat) (x : LdLane), GlobalLd o c ln ea x ∧
      lockHit c.s c.u (domainOf c.g ln.f) c.slot 0 ea (shapeOf o).span = false ∧
      (∀ a t, x.scale = some (a, t) → lockHit c.s c.u (domainOf c.g ln.f) c.slot 0 a 1 = false) ∧ x.t.foreign c.s = true ∧
      foreignBusy c.s c.u c.slot ln.id (x.t.pa c.s) = true) ∧
    ∃ (o : OpM) (c : Ctx) (ln : Lane) (ea : Nat) (x : LdLane), GlobalLd o c ln ea x ∧ x.scale ≠ none ∧
      lockHit c.s c.u (domainOf c.g ln.f) c.slot 0 ea (shapeOf o).span = false ∧
      (∀ a t, x.scale = some (a, t) → lockHit c.s c.u (domainOf c.g ln.f) c.slot 0 a 1 = false) ∧
      ∀ t, t = x.t ∨ (∃ a, x.scale = some (a, t)) → t.foreign c.s = false ∨ foreignBusy c.s c.u c.slot ln.id (t.pa c.s) = false :=
  ⟨⟨opTyped, cScaled [64], lGl, 0x2000, xTyped, globalTyped _ (.inl rfl), rfl⟩,
    ⟨opTyped, cScaled [520], lGl, 0x2000, xTyped, _, _, globalTyped _ (.inr (.inl rfl)), rfl, rfl, rfl⟩,
    ⟨opM 0 15 2 4 0 0, cFarBusy, lGl, 0x2000, xFar, ⟨rfl, rfl, rfl, rfl, by decide⟩, by decide, nofun, rfl, rfl⟩,
    ⟨opTyped, cScaled [], lGl, 0x2000, xTyped, globalTyped _ (.inr (.inr rfl)), nofun, rfl, by rintro a t ⟨⟩; rfl, by
      rintro t (rfl | ⟨a, h⟩)
      · exact .inl rfl
      · cases h; exact .inl rfl⟩⟩

/-- The place of a lane's load: its group and fibre, and a new identifier for its return. -/
def LdAt (c : Ctx) (s : State) (x : Lane × LdLane) (g : Machine.Group) (f : Fibre) : Prop :=
  s.group c.u c.slot = some g ∧ sget g.fibres x.1.id = some f ∧ ∀ r ∈ (s.core c.u).returns, r.id ≠ s.nextId
/-- Core 0 holds a leased copy of the line at 0x2000 of die 1 until 100, with or without a store of the fibre to it in flight. -/
def sCopied (store : Bool) : State :=
  { sGl with
    cores := [(0, { slots := [(0, grp fGl)], tlb := [page0 0], lcopies := [(2 ^ 39 / 128 + 64, { data := List.replicate 128 7, expiry := 100 })] })]
    flights := if store then [{ id := 0, u := 0, slot := 0, kind := .store, pa := 2 ^ 39 + 0x2000,
                                parts := [{ fibre := 0, addr := 2 ^ 39 + 0x2000, size := 4, data := [1, 2, 3, 4] }] }] else []
    nextId := 1 }
def xAt (pa : Nat) (k : Option Nat) : Lane × LdLane := (lGl, { t := .g (pageAt pa) k, scale := none })
def opAcq : OpM := { opM 0 15 2 4 0 0 with ord := 1, scope := 4 }
/-- A return waiting for its bytes, and one that waits for a block scale as well. -/
def rAway : Return := { id := 5, slot := 0, fibre := 0, dests := [(0, 4, 0)], st := .away 7 }
def loadPart (d : Nat) : Part := { fibre := 0, addr := 0x2000, size := 4, ret := some 5, decode := d }
def withReturn (r : Return) : State := { sGl with cores := [(0, { slots := [(0, grp fGl)], returns := [r] })] }
set_option maxRecDepth 100000 in
theorem witness_Loads_lane :
    (∃ (c : Ctx) (s : State) (x : Lane × LdLane) (g : Machine.Group) (f : Fibre) (off : Nat), LdAt c s x g f ∧ x.2.scale = none ∧
      x.2.t = .sp off) ∧
    (∃ (c : Ctx) (s : State) (x : Lane × LdLane) (g : Machine.Group) (f : Fibre) (die off : Nat) (k : Option Nat), LdAt c s x g f ∧
      x.2.scale = none ∧ x.2.t = .ds die off k) ∧
    (∃ (c : Ctx) (s : State) (x : Lane × LdLane) (g : Machine.Group) (f : Fibre) (p : Page) (k : Option Nat), LdAt c s x g f ∧
      x.2.scale = none ∧ x.2.t = .g p k ∧ paPkg p.pa ≠ s.pkg ∧ (s.die (dieOf c.u)).fabricUp = true) ∧
    (∃ (c : Ctx) (s : State) (x : Lane × LdLane) (g : Machine.Group) (f : Fibre) (p : Page) (k : Option Nat), LdAt c s x g f ∧
      x.2.scale = none ∧ x.2.t = .g p k ∧ paPkg p.pa = s.pkg ∧ paDie p.pa = dieOf c.u ∧ plainPa p.pa = true ∧ isSupCore c.u = false ∧
      l1State s c.u p.pa = .i ∧ sget (s.core c.u).l1Req (lineIx p.pa) = none) ∧
    (∃ (o : OpM) (c : Ctx) (s : State) (x : Lane × LdLane) (g : Machine.Group) (f : Fibre) (p : Page) (k : Option Nat), LdAt c s x g f ∧
      x.2.scale = none ∧ x.2.t = .g p k ∧ paPkg p.pa = s.pkg ∧ paDie p.pa ≠ dieOf c.u ∧ o.ord = 1 ∧ 4 ≤ o.scope.toNat) ∧
    (∃ (o : OpM) (c : Ctx) (s : State) (x : Lane × LdLane) (g : Machine.Group) (f : Fibre) (p : Page) (k : Option Nat), LdAt c s x g f ∧
      x.2.scale = none ∧ x.2.t = .g p k ∧ paPkg p.pa = s.pkg ∧ paDie p.pa ≠ dieOf c.u ∧ ¬ (o.ord = 1 ∧ 4 ≤ o.scope.toNat) ∧
      validCopy s c.u p.pa = none) ∧
    (∀ store : Bool, ∃ (o : OpM) (c : Ctx) (s : State) (x : Lane × LdLane) (g : Machine.Group) (f : Fibre) (p : Page) (k : Option Nat)
        (bytes : List Byte), LdAt c s x g f ∧ x.2.scale = none ∧ x.2.t = .g p k ∧ paPkg p.pa = s.pkg ∧ paDie p.pa ≠ dieOf c.u ∧
      ¬ (o.ord = 1 ∧ 4 ≤ o.scope.toNat) ∧ validCopy s c.u p.pa = some bytes ∧ p.pa % 128 + (shapeOf o).span ≤ 128 ∧
      olderSame s { id := s.nextId + 1, u := c.u, slot := c.slot, kind := .load false, pa := x.2.t.pa s, since := s.now (dieOf c.u)
                    domain := dsDomain c x.1.f, cls := fibreClass s c.u c.slot x.1.id
                    parts := [{ fibre := x.1.id, addr := x.2.t.pa s, size := (shapeOf o).span, ret := some s.nextId
                                decode := (shapeOf o).decode, page := x.2.t.via c x.1.f }] } = store) ∧
    ∃ (o : OpM) (c : Ctx) (s : State) (x : Lane × LdLane) (g : Machine.Group) (f : Fibre) (a : Nat) (q p : Page) (k k2 : Option Nat),
      LdAt c s x g f ∧ x.2.scale = some (a, .g q k) ∧ x.2.t = .g p k2 ∧ paPkg q.pa = s.pkg ∧ paDie q.pa ≠ dieOf c.u ∧ paPkg p.pa = s.pkg ∧
      paDie p.pa ≠ dieOf c.u ∧ ¬ (o.ord = 1 ∧ 4 ≤ o.scope.toNat) ∧ validCopy s c.u q.pa = none ∧ validCopy s c.u p.pa = none :=
  ⟨⟨cSp, sSp, (lSp, { t := .sp 16, scale := none }), _, _, 16, ⟨rfl, rfl, nofun⟩, rfl, rfl⟩,
    ⟨cSp, sSp, (lSp, { t := .ds 0 16 none, scale := none }), _, _, 0, 16, none, ⟨rfl, rfl, nofun⟩, rfl, rfl⟩,
    ⟨cFarPkg, sFarPkg, (lGl, xFar), _, _, _, _, ⟨rfl, rfl, nofun⟩, rfl, rfl, by decide, rfl⟩,
    ⟨cGl, sGl, xAt 0x2000 none, _, _, _, _, ⟨rfl, rfl, nofun⟩, rfl, rfl, by decide, by decide, by decide, rfl, by decide, rfl⟩,
    ⟨opAcq, cGl, sGl, xAt (2 ^ 39 + 0x2000) (some 3), _, _, _, _, ⟨rfl, rfl, nofun⟩, rfl, rfl, by decide, by decide, rfl, by decide⟩,
    ⟨opM 0 15 2 4 0 0, cGl, sGl, xAt (2 ^ 39 + 0x2000) (some 3), _, _, _, _, ⟨rfl, rfl, nofun⟩, rfl, rfl, by decide, by decide, by decide, rfl⟩,
    fun b => by
      cases b
      · exact ⟨opM 0 15 2 4 0 0, { cGl with s := sCopied false }, sCopied false, xAt (2 ^ 39 + 0x207C) (some 3), _, _, _, _, _,
          ⟨rfl, rfl, nofun⟩, rfl, rfl, by decide, by decide, by decide, rfl, by decide, rfl⟩
      · exact ⟨opM 0 15 2 4 0 0, { cGl with s := sCopied true }, sCopied true, xAt (2 ^ 39 + 0x2000) (some 3), _, _, _, _, _,
          ⟨rfl, rfl, nofun⟩, rfl, rfl, by decide, by decide, by decide, rfl, by decide, rfl⟩,
    ⟨opTyped, cGl, sGl, (lGl, { t := .g (pageAt (2 ^ 39 + 0x2000)) (some 3), scale := some (0x10400, .g (pageAt (2 ^ 39 + 0x10400)) (some 3)) }),
      _, _, _, _, _, _, _, ⟨rfl, rfl, nofun⟩, rfl, rfl, by decide, by decide, by decide, by decide, by decide, rfl, rfl⟩⟩
theorem witness_Loads_returns :
    (∃ (s : State) (u : Nat) (l1 l2 : List Return) (r : Return) (p : Part) (cause : Nat), p.ret = some r.id ∧ (∀ x ∈ l1 ++ l2, x.id ≠ r.id) ∧
      (s.core u).returns = l1 ++ r :: l2 ∧ r.st = .failed cause) ∧
    (∃ (s : State) (u : Nat) (l1 l2 : List Return) (r : Return) (p : Part) (n m : Nat), p.ret = some r.id ∧ (∀ x ∈ l1 ++ l2, x.id ≠ r.id) ∧
      (s.core u).returns = l1 ++ r :: l2 ∧ r.st = .away n ∧ p.decode < 33 ∧ r.scaleFlight = some m) ∧
    (∃ (s : State) (u : Nat) (l1 l2 : List Return) (r : Return) (p : Part) (n : Nat), p.ret = some r.id ∧ (∀ x ∈ l1 ++ l2, x.id ≠ r.id) ∧
      (s.core u).returns = l1 ++ r :: l2 ∧ r.st = .away n ∧ p.decode < 33 ∧ r.scaleFlight = none) ∧
    (∃ (s : State) (u : Nat) (l1 l2 : List Return) (r : Return) (p : Part) (n : Nat), p.ret = some r.id ∧ (∀ x ∈ l1 ++ l2, x.id ≠ r.id) ∧
      (s.core u).returns = l1 ++ r :: l2 ∧ r.st = .away n ∧ 33 ≤ p.decode ∧ r.raw = none) ∧
    (∃ (s : State) (u : Nat) (l1 l2 : List Return) (r : Return) (p : Part) (n : Nat) (b : List Byte), p.ret = some r.id ∧
      (∀ x ∈ l1 ++ l2, x.id ≠ r.id) ∧ (s.core u).returns = l1 ++ r :: l2 ∧ r.st = .away n ∧ 33 ≤ p.decode ∧ r.raw = some b) ∧
    (∃ (s : State) (f : Flight), ∃ l ∈ f.lines, isPoisoned s (128 * l) = true) ∧ ∃ (s t : State) (o : OpM), exec (.ld o) s = .next t :=
  ⟨⟨withReturn { rAway with st := .failed 0x1D }, 0, [], [], { rAway with st := .failed 0x1D }, loadPart 0, 0x1D, rfl, nofun, rfl, rfl⟩,
    ⟨withReturn { rAway with scaleFlight := some 8 }, 0, [], [], { rAway with scaleFlight := some 8 }, loadPart 5, 7, 8, rfl, nofun, rfl, rfl, by decide, rfl⟩,
    ⟨withReturn rAway, 0, [], [], rAway, loadPart 32, 7, rfl, nofun, rfl, rfl, by decide, rfl⟩,
    ⟨withReturn rAway, 0, [], [], rAway, loadPart 33, 7, rfl, nofun, rfl, rfl, by decide, rfl⟩,
    ⟨withReturn { rAway with raw := some [1] }, 0, [], [], { rAway with raw := some [1] }, loadPart 38, 7, [1], rfl, nofun, rfl, rfl, by decide, rfl⟩,
    ⟨{ sGl with dies := [(0, { Die.reset with poison := [(64, 5)] })] },
      { id := 7, u := 0, slot := 0, kind := .load true, pa := 0x2000, parts := [loadPart 0] }, 64, by decide, by decide⟩,
    ⟨sSp, _, opM 1 15 2 4 0 0, rfl⟩⟩

/-- The lane of a store to the line of 0x2000 of a package of the rack. -/
def xStore (pa : Nat) (k : Option Nat) : Lane × StLane := (lGl, { t := .g (pageAt pa) k, bytes := [7, 0, 0, 0] })
/-- The bytes that slot 3 of core 0 lacks for it in `sFar`. -/
theorem shortFar : shortSlot sFar 0 [(3, 64)] [] = some (3, 64) := rfl
set_option maxRecDepth 100000 in
theorem witness_Stores :
    (∃ (s : State) (c : Ctx) (o : OpM) (v : Lane → StLane), Issued s o.g c ∧ (∃ ln, Active o.g c ln) ∧
      ∀ ln, Active o.g c ln → stCheck o false c ln = .ok (v ln)) ∧
    (∃ (s : State) (c : Ctx) (o : OpM) (v : Lane → StLane), Issued s o.g c ∧ (∃ ln, Active o.g c ln) ∧
      ∀ ln, Active o.g c ln → stCheck o true c ln = .ok (v ln)) ∧
    (∃ (s : State) (u n need : Nat) (ask : SMap Nat), shortSlot s u ask [] = some (n, need)) ∧
    (∃ (c : Ctx) (s : State) (l : List (Lane × StLane)) (hold : Lane → Option Wait), shortSlot s c.u [] [] = none ∧
      (∀ x ∈ l, x.1.f.charged = false) ∧ l ≠ [] ∧ ∀ x ∈ l, hold x.1 = none) ∧
    (∃ (c : Ctx) (s : State) (l : List (Lane × StLane)) (hold : Lane → Option Wait), shortSlot s c.u [] [] = none ∧
      ∀ x ∈ l, hold x.1 ≠ none) ∧
    (∃ (c : Ctx) (s : State) (l : List (Lane × StLane)) (hold : Lane → Option Wait), shortSlot s c.u [] [] = none ∧
      ∃ x ∈ l, hold x.1 = none) ∧
    (∃ (s : State) (c : Ctx) (g : Machine.Group), s.group c.u c.slot = some g) ∧
    (∃ (c : Ctx) (s : State) (g : Machine.Group) (x : Lane × StLane) (off : Nat), s.group c.u c.slot = some g ∧ x.2.t = .sp off) ∧
    (∃ (x : Lane × StLane) (die off : Nat) (k : Option Nat), x.2.t = .ds die off k) ∧
    (∃ (s : State) (c : Ctx) (x : Lane × StLane) (p : Page) (k : Option Nat), x.2.t = .g p k ∧ paPkg p.pa = s.pkg ∧
      p.pa % 128 + x.2.bytes.length ≤ 128 ∧ paDie p.pa ≠ dieOf c.u) ∧
    (∃ (c : Ctx) (s : State) (x : Lane × StLane) (p : Page) (k : Nat), x.2.t = .g p (some k) ∧ paPkg p.pa ≠ s.pkg ∧
      p.pa % 128 + x.2.bytes.length ≤ 128 ∧ x.2.bytes ≠ [] ∧ slotWcnt s c.u k ≠ 16777215 ∧ (s.die (dieOf c.u)).fabricUp = true) ∧
    ∃ (s t : State) (c : Ctx) (o : OpM) (v : Lane → StLane) (a : Nat), Issued s o.g c ∧
      (∀ ln, Active o.g c ln → stCheck o false c ln = .ok (v ln)) ∧ exec (.st o) s = .next t ∧
      ∀ x ∈ passedWith o.g c v, ∀ p k, x.2.t = .g p k → a < p.pa ∨ p.pa + x.2.bytes.length ≤ a :=
  ⟨⟨sFar, cFar, opM 0 15 2 4 0 2, fun _ => (xStore (2 ^ 39 + 0x2000) (some 3)).2, issuedFar, some_of rfl rfl, active_of rfl rfl⟩,
    ⟨sGl, cGl, opM 0 15 2 4 0 2, fun _ => (xStore 0x2000 none).2, issuedGl, some_of rfl rfl, active_of rfl rfl⟩,
    ⟨sFar, 0, 3, 64, _, shortFar⟩, ⟨cGl, sGl, [xStore 0x2000 none], fun _ => none, rfl, by decide, by decide, fun _ _ => rfl⟩,
    ⟨cGl, sGl, [xStore 0x2000 none], fun _ => some (.release 4), rfl, fun _ _ => nofun⟩,
    ⟨cGl, sGl, [xStore 0x2000 none], fun _ => none, rfl, _, List.mem_singleton_self _, rfl⟩,
    ⟨sSp, cSp, _, rfl⟩, ⟨cSp, sSp, _, (lSp, { t := .sp 65532, bytes := [7, 0, 0, 0] }), 65532, rfl, rfl⟩,
    ⟨(lSp, { t := .ds 0 16 none, bytes := [7] }), 0, 16, none, rfl⟩,
    ⟨sGl, cGl, xStore (2 ^ 39 + 0x207C) none, _, _, rfl, by decide, by decide, by decide⟩,
    ⟨cFarPkg, sFarPkg, xStore (2 ^ 42 + 0x207C) (some 3), _, _, rfl, by decide, by decide, by decide, by decide, rfl⟩,
    ⟨sGl, _, cGl, opM 0 15 2 4 0 2, fun _ => (xStore 0x2000 none).2, 0x2004, issuedGl, active_of rfl rfl, rfl, by
      intro x hx p k hp
      obtain rfl : x = xStore 0x2000 none := by
        simpa [passedWith, activeOf, cGl, ctxOf, lGl, guardTrue, opM, always, Fibre.pred, xStore] using hx
      cases hp
      right; decide⟩⟩

/-- A store of one byte to the line of 0x2000, issued by core 0. -/
def theStore : Flight :=
  { id := 7, u := 0, slot := 0, kind := .store, pa := 0x2000, parts := [{ fibre := 0, addr := 0x2004, size := 1, data := [9] }] }
/-- Core 0 holds the line as M. -/
def sOwned : State := { sGl with cores := [(0, { slots := [(0, grp fGl)], l1 := [(64, .m)] })] }
/-- The same under a lease of the line until 100. -/
def sLeased : State := { sOwned with dies := [(0, { Die.reset with horizon := [(64, 100)] })] }
theorem witness_PerformingStores :
    (∃ (f : Flight) (a : Nat), f.kind = .store ∧ ∀ p ∈ f.parts, a < p.addr ∨ p.addr + p.data.length ≤ a) ∧
    (∃ (s : State) (f : Flight) (l : List Part) (p : Part) (i : Nat) (b : Byte), Memory.wf s.mem = true ∧ f.kind = .store ∧
      f.parts = l ++ [p] ∧ inDsmWindow p.addr = false ∧ plainPa p.addr = true ∧ p.data[i]? = some b) ∧
    (∃ pa : Nat, inDsmWindow pa = false ∧ plainPa pa = true) ∧
    (∃ (s : State) (f : Flight), isSupCore f.u = false ∧ ownDie s f.u f.pa = true ∧ plainPa f.pa = true ∧
      localReady (addFlight s f) { f with id := s.nextId, since := s.now (dieOf f.u) } = true ∧ (∀ x ∈ s.flights, x.id ≠ s.nextId) ∧
      f.kind = .store ∧ f.arrived = false ∧ completionTime s (dieOf f.u) f.pa ≤ s.now (dieOf f.u) ∧
      pendingAt s (dieOf f.u) (lineIx f.pa) = []) ∧
    (∃ (s : State) (f : Flight), isSupCore f.u = false ∧ ownDie s f.u f.pa = true ∧ plainPa f.pa = true ∧
      localReady (addFlight s f) { f with id := s.nextId, since := s.now (dieOf f.u) } = true ∧ (∀ x ∈ s.flights, x.id ≠ s.nextId) ∧
      f.kind = .store ∧ f.arrived = false ∧ s.now (dieOf f.u) < completionTime s (dieOf f.u) f.pa) ∧
    ∃ (s : State) (f : Flight), isSupCore f.u = false ∧ ownDie s f.u f.pa = true ∧ plainPa f.pa = true ∧
      localReady (addFlight s f) { f with id := s.nextId, since := s.now (dieOf f.u) } = false :=
  ⟨⟨theStore, 0x2005, rfl, by decide⟩, ⟨sGl, theStore, [], _, 0, 9, rfl, rfl, rfl, by decide, by decide, rfl⟩,
    ⟨4 * stackSize - 1, by decide, by decide⟩, ⟨sOwned, theStore, rfl, by decide, by decide, by decide, by decide, rfl, rfl, by decide, by decide⟩,
    ⟨sLeased, theStore, rfl, by decide, by decide, by decide, by decide, rfl, rfl, by decide⟩,
    ⟨sGl, theStore, rfl, by decide, by decide, by decide⟩⟩

def xAtomic (t : Target) (ln : Lane) : Lane × AtLane := (ln, { t := t, b := 9, cmp := 7 })
set_option maxRecDepth 100000 in
theorem witness_Atomics :
    (∃ (s : State) (c : Ctx) (o : OpM) (v : Lane → AtLane), Issued s o.g c ∧ (∃ ln, Active o.g c ln) ∧
      ∀ ln, Active o.g c ln → atCheck o 0 true c ln = .ok (v ln)) ∧
    (∃ (s : State) (c : Ctx) (o : OpM) (v : Lane → AtLane), Issued s o.g c ∧ (∃ ln, Active o.g c ln) ∧
      ∀ ln, Active o.g c ln → atCheck o 7 true c ln = .ok (v ln)) ∧
    (∃ (x : Lane × AtLane) (off : Nat), x.2.t = .sp off) ∧
    (∃ (s : State) (c : Ctx) (x : Lane × AtLane) (g : Machine.Group) (f : Fibre) (off : Nat), s.group c.u c.slot = some g ∧
      sget g.fibres x.1.id = some f ∧ x.2.t = .sp off) ∧
    (∃ (s : State) (x : Lane × AtLane) (p : Page) (k : Option Nat), x.2.t = .g p k ∧ paPkg p.pa = s.pkg) ∧
    (∃ (s : State) (x : Lane × AtLane) (p : Page) (k : Option Nat) (op : Nat), x.2.t = .g p k ∧ paPkg p.pa ≠ s.pkg ∧ op < 6) ∧
    (∃ (s : State) (c : Ctx) (x : Lane × AtLane) (p : Page) (k : Option Nat) (g : Machine.Group) (f : Fibre), s.group c.u c.slot = some g ∧
      sget g.fibres x.1.id = some f ∧ x.2.t = .g p k ∧ paPkg p.pa = s.pkg) ∧
    (∃ (s : State) (c : Ctx) (x : Lane × AtLane) (p : Page) (k : Option Nat) (g : Machine.Group) (f : Fibre), s.group c.u c.slot = some g ∧
      sget g.fibres x.1.id = some f ∧ x.2.t = .g p k ∧ paPkg p.pa ≠ s.pkg) ∧
    (∃ (ty n old b : Nat), (ty, n) ∈ [(0, 4), (1, 4), (2, 8)] ∧ old < 2 ^ (8 * n) ∧ b < 2 ^ (8 * n) ∧ ty = 1) ∧
    (∃ (ty n old b : Nat), (ty, n) ∈ [(0, 4), (1, 4), (2, 8)] ∧ old < 2 ^ (8 * n) ∧ b < 2 ^ (8 * n) ∧ ty ≠ 1) ∧
    ∃ old b : Nat, old < 2 ^ 32 ∧ b < 2 ^ 32 :=
  ⟨⟨sFarPkg, cFarPkg, opM 0 0 2 4 0 2, fun _ => { t := .g (pageAt (2 ^ 42 + 0x2000)) (some 3), b := 7, cmp := 0 }, issuedFarPkg,
      some_of rfl rfl, active_of rfl (by decide)⟩,
    ⟨sSp, cSp, opM 1 0 2 1 0 2, fun _ => { t := .sp 16, b := 9, cmp := 7 }, issuedSp, some_of rfl rfl, active_of rfl (by decide)⟩,
    ⟨xAtomic (.sp 16) lSp, 16, rfl⟩, ⟨sSp, cSp, xAtomic (.sp 65532) lSp, _, _, _, rfl, rfl, rfl⟩,
    ⟨sGl, xAtomic (.g (pageAt 0x2000) none) lGl, _, _, rfl, by decide⟩,
    ⟨sGl, xAtomic (.g (pageAt (2 ^ 42)) (some 3)) lGl, _, _, 5, rfl, by decide, by decide⟩,
    ⟨sGl, cGl, xAtomic (.g (pageAt 0x2000) none) lGl, _, _, _, _, rfl, rfl, rfl, by decide⟩,
    ⟨sGl, cGl, xAtomic (.g (pageAt (2 ^ 42)) (some 3)) lGl, _, _, _, _, rfl, rfl, rfl, by decide⟩,
    ⟨1, 4, 0xFFFFFFFF, 0xFFFFFFFF, by decide, by decide, by decide, rfl⟩,
    ⟨2, 8, 0xFFFFFFFFFFFFFFFF, 1, by decide, by decide, by decide, by decide⟩, ⟨0xFFFFFFFF, 0x7F800001, by decide, by decide⟩⟩

def sDataAway : State := withReturn { rAway with data := true }
theorem witness_BankOperationsAndFence :
    (∃ (s : State) (c : Ctx) (o : OpM) (v : Lane → DsLane), Issued s o.g c ∧ (∃ ln, Active o.g c ln) ∧
      ∀ ln, Active o.g c ln → dsCheck o 2 true c ln = .ok (v ln)) ∧
    (∃ (s : State) (c : Ctx) (x : Lane × DsLane) (g : Machine.Group) (f : Fibre), s.group c.u c.slot = some g ∧
      sget g.fibres x.1.id = some f) ∧
    (∃ (s : State) (c : Ctx) (o : OpM), Issued s o.g c ∧ (∃ ln, Active o.g c ln) ∧ o.ord = 3 ∧
      ∀ ln, Active o.g c ln → (o.ord = 2 ∨ o.ord = 3 → released c.s c.u c.slot ln.id ln.f.wct o.scope.toNat = true) ∧
        (o.ord = 1 ∨ o.ord = 3 → allReturned s c.u c.slot ln.id = true)) ∧
    (∃ (s : State) (c : Ctx) (o : OpM) (f : Fibre) (ln : Lane), Issued s o.g c ∧ c.lanes = [ln] ∧ guardTrue o.g ln.f = true ∧
      s.fibre c.u c.slot ln.id = some f ∧ (o.ord = 2 ∨ o.ord = 3) ∧
      released c.s c.u c.slot ln.id ln.f.wct o.scope.toNat = false) ∧
    (∃ (s : State) (c : Ctx) (o : OpM) (f : Fibre) (ln : Lane), Issued s o.g c ∧ c.lanes = [ln] ∧ guardTrue o.g ln.f = true ∧
      s.fibre c.u c.slot ln.id = some f ∧ o.ord = 3 ∧ released c.s c.u c.slot ln.id ln.f.wct o.scope.toNat = true ∧
      allReturned c.s c.u c.slot ln.id = false) ∧
    ∃ (s : State) (c : Ctx) (o : OpM) (f : Fibre) (ln : Lane), Issued s o.g c ∧ c.lanes = [ln] ∧ guardTrue o.g ln.f = true ∧
      s.fibre c.u c.slot ln.id = some f ∧ o.ord = 1 ∧ allReturned c.s c.u c.slot ln.id = false :=
  ⟨⟨sDs, cDs, opM 2 0 2 4 0 2, fun _ => { t := .ds 0 16 none, bytes := [9, 0, 0, 0] }, issuedDs,
      some_of rfl rfl, active_of rfl rfl⟩,
    ⟨sDs, cDs, (lSp, { t := .ds 0 16 none, bytes := [9, 0, 0, 0] }), _, _, rfl, rfl⟩,
    ⟨sLate, cLate, { opM 0 15 0 0 0 0 with ord := 3, scope := 4 },
      issued_of rfl rfl rfl,
      some_of rfl rfl, rfl,
      active_of rfl ⟨fun _ => rfl, fun _ => rfl⟩⟩,
    ⟨s0, c0, { opM 0 15 0 0 0 0 with ord := 3, scope := 4 }, f0, l0, issued0, rfl, rfl, rfl, .inr rfl, rfl⟩,
    ⟨sDataAway, { cGl with s := sDataAway }, { opM 0 15 0 0 0 0 with ord := 3, scope := 1 }, fGl, lGl, issued_of rfl rfl rfl, rfl, rfl, rfl, rfl,
      rfl, rfl⟩,
    ⟨sDataAway, { cGl with s := sDataAway }, { opM 0 15 0 0 0 0 with ord := 1 }, fGl, lGl,
      issued_of rfl rfl rfl, rfl, rfl, rfl, rfl, rfl⟩⟩

/-! ## Control registers, counters, tasks, copies, supervisors and the matrix unit -/

def opS (n : BitVec 10) : OpS := { g := always, d := 2, a := reg 0, csrn := n, du := false, ua := false, rsv := 0 }
/-- A matrix entry of slot 0 that uses TC1, and the package with 1 or 8 of them in core 0's queue. -/
def anEntry (id : Nat) : MEntry :=
  { id := id, slot := 0, op := .mma, ac := 0, t1 := 1, t2 := 1, fa := 0, fb := 0, md := 0, tc1 := 0, tc2 := 0, conv := 4 }
def queued (n : Nat) (g : Machine.Group) : State :=
  { State.reset with
    cores := [(0, { slots := [(0, g)], queue := (List.range n).map anEntry })]
    cur := some { u := 0, slot := 0, fibres := [0], pc := 0x1000 } }
/-- A fibre whose v0:v1 hold VALID with no issue width. -/
def fDpart : Fibre := fib [0, 0x80000000]
theorem witness_ControlRegisters :
    (∃ (s : State) (c : Ctx) (o : OpS), Issued s o.g c ∧ (∃ ln, Active o.g c ln) ∧ csrLate o.csrn.toNat = false ∧
      ∀ ln, Active o.g c ln → destsReady c ln.f (clsOf o.du) o.d.toNat (if csr64 o.csrn.toNat then 2 else 1) = .ok () ∧
        csrCheck c ln o.csrn.toNat = .ok ()) ∧
    (∃ (s : State) (c : Ctx) (o : OpS), Issued s o.g c ∧ (∃ ln, Active o.g c ln) ∧ o.csrn.toNat = 0x07F ∧
      ∀ ln, Active o.g c ln → destsReady c ln.f (clsOf o.du) o.d.toNat (if csr64 o.csrn.toNat then 2 else 1) = .ok () ∧
        csrCheck c ln o.csrn.toNat = .ok () ∧ slotCheck s c.u (domainOf c.g ln.f) (o.csrn.toNat - 0x040) = .ok ()) ∧
    (∃ (s : State) (c : Ctx) (o : OpS), Issued s o.g c ∧ (∃ ln, Active o.g c ln) ∧ csrLate o.csrn.toNat = true ∧
      o.csrn.toNat = 0x131 ∧ matrixEntries s c.u c.slot = [] ∧
      ∀ ln, Active o.g c ln → destsReady c ln.f (clsOf o.du) o.d.toNat (if csr64 o.csrn.toNat then 2 else 1) = .ok () ∧
        csrCheck c ln o.csrn.toNat = .ok ()) ∧
    (∃ (s : State) (c : Ctx) (o : OpS), Issued s o.g c ∧ (∃ ln, Active o.g c ln) ∧ o.csrn.toNat = 0x131 ∧
      matrixEntries s c.u c.slot ≠ [] ∧ ∀ ln, Active o.g c ln → ln.f.gate = none ∧
        destsReady c ln.f (clsOf o.du) o.d.toNat (if csr64 o.csrn.toNat then 2 else 1) = .ok () ∧
        csrCheck c ln o.csrn.toNat = .ok ()) ∧
    (∃ (s : State) (c : Ctx) (o : OpS) (v : Lane → DWord), Issued s o.g c ∧ o.csrn.toNat = 0x080 ∧
      ∀ ln, Active o.g c ln → srcTyped c ln.f (csr64 o.csrn.toNat) o.ua o.a = .ok (v ln) ∧ csrCheck c ln o.csrn.toNat = .ok () ∧
        csrHold s c.u c.slot ln.id o.csrn.toNat = none ∧
        dpartRefused (dpartBefore o c ln (o.csrn.toNat - 0x080)) (o.csrn.toNat - 0x080)
          (dpartFrom s c.u (o.csrn.toNat - 0x080) (v ln)) = false) ∧
    (∃ (s : State) (u slot id : Nat) (f : Fibre) (g : Machine.Group), isSupCore u = false ∧ f.gate = none ∧ s.group u slot = some g ∧
      sget g.fibres id = some f) ∧
    ∃ (s : State) (c : Ctx) (o : OpS) (ln : Lane) (v : DWord), Issued s o.g c ∧ c.lanes = [ln] ∧ guardTrue o.g ln.f = true ∧
      isSupCore c.u = false ∧ 0x080 ≤ o.csrn.toNat ∧ o.csrn.toNat ≤ 0x087 ∧ srcTyped c ln.f true o.ua o.a = .ok v ∧
      dpartRefused (s.core c.u) (o.csrn.toNat - 0x080) (dpartFrom s c.u (o.csrn.toNat - 0x080) v) = true :=
  ⟨⟨s0, c0, opS 0x010, issued0, some_of rfl rfl, rfl, active_of rfl ⟨rfl, rfl⟩⟩,
    ⟨runs 32 (grp f0), ctxOf 32 (grp f0) f0, opS 0x07F, issued_of rfl rfl rfl, some_of rfl rfl, rfl, active_of rfl ⟨rfl, rfl, rfl⟩⟩,
    ⟨s0, c0, opS 0x131, issued0, some_of rfl rfl, rfl, rfl, rfl, active_of rfl ⟨rfl, rfl⟩⟩,
    ⟨queued 1 (grp f0), { c0 with s := queued 1 (grp f0) }, opS 0x131, issued_of rfl rfl rfl, some_of rfl rfl, rfl, by decide,
      active_of rfl ⟨rfl, rfl, rfl⟩⟩,
    ⟨s0, c0, opS 0x080, fun _ => 0x0000000700000005, issued0, rfl, active_of rfl ⟨rfl, rfl, rfl, rfl⟩⟩,
    ⟨s0, 0, 0, 0, f0, grp f0, rfl, rfl, rfl, rfl⟩,
    ⟨runs 0 (grp fDpart), ctxOf 0 (grp fDpart) fDpart, opS 0x087, ⟨0, 0, fDpart⟩, 0x8000000000000000, issued_of rfl rfl rfl, rfl, rfl, rfl,
      by decide, by decide, rfl, rfl⟩⟩
/-- A die whose first counter and queue blocks domain 0 owns, at time 5, and a fibre whose v0:v1 name the descriptor at 0x2000. -/
def tDie : Die :=
  { Die.reset with time := 5, ctl := sset (sset Die.reset.ctl (0x6000300000 / 8) 0x80000000) (0x6000310000 / 8) 0x80000000 }
def fTq : Fibre := fib [0x2000, 0]
def sTq : State :=
  { State.reset with
    dies := (List.range 8).map fun d => (d, if d = 0 then tDie else Die.reset)
    headers := [(0, 0x3000, false)]
    mem := [(0x2001, 0x30)] ++ (List.range 8).map (fun i => (0x2010 + i, 0xFF)) ++ [(0x201B, 1)]
    cores := [(0, { slots := [(0, grp fTq)], tlb := [page0 0] })]
    cur := some { u := 0, slot := 0, fibres := [0], pc := 0x1000 } }
/-- The same with 2 in counter 0. -/
def sBusy : State := { sTq with dies := [(0, { tDie with counters := [(0, { count := 2 })] })] }
def cTq : Ctx := { ctxOf 0 (grp fTq) fTq with s := sTq }
def lTq : Lane := ⟨0, 0, fTq⟩
/-- The header that the zero bytes at 0x3000 give, and the descriptor. -/
def hdr0 : Header :=
  { kent := 0, kscr := 0, kgrps := 0, kfibs := 0, kregs := 0, kuni := 0, ktiles := 0, kaccs := 0, kconv := 0, trapClass := false,
    kframe := 0, hints := [] }
def descTq : TenqLane :=
  { khdr := 0x3000, arg := 0, waitc := 0xFFFFFFFF, donec := 0xFFFFFFFF, queue := 0, prio := 0, kind := 1, hdr := hdr0, pa := 0x2000 }
theorem issuedTq : Issued sTq always cTq := issued_of rfl rfl rfl
/-- A task in a state, and the package with a counter at a count and that task parked on it. -/
def taskIn (x : TaskSt) (done : Bool) : Task :=
  { st := x, khdr := 0, arg := 0x100000002, waitc := 7, donec := 0xFFFFFFFF, queue := 0, prio := 0, kind := 1, domain := 0, launch := 0, pasid := 0,
    hdr := hdr, tdone := done }
def sCount (n : Nat) : State :=
  { s0 with
    dies := [(0, { Die.reset with counters := [(7, { count := n, parked := [3], recWct := 9, recDies := 1 })] })]
    tasks := [(3, taskIn .parked false)] }
def sItem (k : Task) : State := { runs 0 { grp f0 with task := some 3 } with tasks := [(3, k)] }

set_option maxRecDepth 8000 in
theorem witness_CountersAndTasks_counters :
    (∃ (s : State) (c : Ctx) (o : OpT) (id v : Lane → Word), Issued s o.g c ∧ (∃ ln, Active o.g c ln) ∧
      (∀ ln, Active o.g c ln → srcA c ln.f o = .ok (id ln) ∧ counterCheck c ln.f (id ln).toNat = .ok ()) ∧
      (∀ ln, Active o.g c ln → srcB c ln.f o = .ok (v ln)) ∧ (∀ ln, Active o.g c ln → releaseCheck c ln 4 = .ok ()) ∧
      ∀ ln, Active o.g c ln → (counterOf s (dieOf c.u) (id ln).toNat).count = 0) ∧
    (∃ (s : State) (c : Ctx) (o : OpT) (id : Lane → Word) (ln : Lane) (f : Fibre), Issued s o.g c ∧
      (∀ ln, Active o.g c ln → srcA c ln.f o = .ok (id ln) ∧ counterCheck c ln.f (id ln).toNat = .ok ()) ∧ c.lanes = [ln] ∧
      guardTrue o.g ln.f = true ∧ s.fibre c.u c.slot ln.id = some f ∧ (counterOf s (dieOf c.u) (id ln).toNat).count ≠ 0) ∧
    (∃ (s : State) (d id : Nat) (delta : Int), ((counterOf s d id).count : Int) + delta < 0) ∧
    (∃ (s : State) (d id : Nat) (delta : Int), 16777215 < ((counterOf s d id).count : Int) + delta) ∧
    (∃ (s : State) (d id : Nat) (delta : Int), 0 ≤ ((counterOf s d id).count : Int) + delta ∧
      ((counterOf s d id).count : Int) + delta ≤ 16777215 ∧ (counterOf s d id).count ≠ 0 ∧
      (counterOf (counterAdd s d id delta) d id).count ≠ 0) ∧
    (∃ (s : State) (d id t : Nat) (k : Task), (counterOf s d id).parked = [t] ∧ sget s.tasks t = some k) :=
  ⟨⟨sTq, cTq, opT 0 2 1 1 0, fun _ => 0, fun _ => 0, issuedTq, some_of rfl rfl, active_of rfl ⟨rfl, rfl⟩, active_of rfl rfl,
      active_of rfl rfl, active_of rfl rfl⟩,
    ⟨sBusy, { cTq with s := sBusy }, opT 0 2 1 1 0, fun _ => 0, lTq, fTq, issued_of rfl rfl rfl, active_of rfl ⟨rfl, rfl⟩, rfl, rfl, rfl, by decide⟩,
    ⟨sCount 0, 0, 7, -1, by decide⟩, ⟨sCount 16777215, 0, 7, 1, by decide⟩,
    ⟨sCount 16777214, 0, 7, 1, by decide, by decide, by decide, by decide⟩, ⟨sCount 0, 0, 7, 3, _, rfl, rfl⟩⟩

set_option maxRecDepth 8000 in
theorem witness_CountersAndTasks_tasks :
    (∃ (s : State) (c : Ctx) (o : OpT) (x : Lane → TenqLane), Issued s o.g c ∧ (∃ ln, Active o.g c ln) ∧
      (∀ ln, Active o.g c ln → tenqCheck o c ln = .ok (x ln)) ∧
      ∀ ln, Active o.g c ln → ln.f.charged = false ∧ released c.s c.u c.slot ln.id ln.f.wct 4 = true) ∧
    (∃ (s : State) (y : TenqLane), y.kind = 1 ∧ noCounter y.waitc = true ∧
      dieFull s (queueDie y.queue) = false ∧ waitingTasks s (queueDie y.queue) true = [] ∧
      waitingTasks s (queueDie y.queue) false = [] ∧ ∀ e ∈ s.tasks, e.1 < s.nextTask) ∧
    (∃ (s : State) (c : Ctx) (o : OpT) (q : Lane → Nat), Issued s o.g c ∧ (∃ ln, Active o.g c ln) ∧
      ∀ ln, Active o.g c ln → tdeqCheck o c ln = .ok (q ln)) ∧
    (∃ (c : Ctx) (s : State) (q : Nat),
      ((readyTasks s 1).filter fun e => e.2.queue == q && e.2.domain == c.g.domain) = []) ∧
    (∃ (c : Ctx) (s : State) (q t : Nat) (k : Task),
      bestTask taskBefore ((readyTasks s 1).filter fun e => e.2.queue == q && e.2.domain == c.g.domain) = some (t, k)) ∧
    (∃ (s : State) (c : Ctx) (o : OpN), Issued s o.g c ∧ (∃ ln, Active o.g c ln) ∧
      ∀ ln, Active o.g c ln → ln.f.gate = none ∧ releaseCheck c ln 4 = .ok ()) ∧
    (∃ (s : State) (u slot t : Nat) (g : Machine.Group) (k : Task), s.group u slot = some g ∧ g.task = some t ∧ sget s.tasks t = some k ∧
      k.tdone = true) ∧
    ∃ (s : State) (u slot t : Nat) (g : Machine.Group) (k : Task), s.group u slot = some g ∧ g.task = some t ∧ sget s.tasks t = some k ∧
      k.tdone = false :=
  have ⟨x, hx⟩ := of_passes (show passes (tenqCheck (opT 15 0 0 0 0) cTq lTq) = true by decide)
  ⟨⟨sTq, cTq, opT 15 0 0 0 0, fun _ => x, issuedTq, some_of rfl rfl, active_of rfl hx, active_of rfl ⟨rfl, rfl⟩⟩,
    ⟨s0, descTq, rfl, rfl, by decide, rfl, rfl, by decide⟩,
    ⟨sTq, cTq, opT 15 0 0 1 0, fun _ => 0, issuedTq, some_of rfl rfl, active_of rfl rfl⟩,
    ⟨c0, s0, 0, rfl⟩, ⟨c0, sItem (taskIn .ready false), 0, 3, _, rfl⟩,
    ⟨sLate, cLate, { g := always, rsv := 0 }, issued_of rfl rfl rfl, some_of rfl rfl, active_of rfl ⟨rfl, rfl⟩⟩,
    ⟨sItem (taskIn .draining true), 0, 0, 3, _, _, rfl, rfl, rfl, rfl⟩, ⟨sItem (taskIn .running false), 0, 0, 3, _, _, rfl, rfl, rfl, rfl⟩⟩
/-! ## Copies, circular buffers and ridges -/

/-- v0:v1 hold 0x2000, v2 a scratchpad address, v3 no counter; a group whose scratchpad begins with a block of one slot that
one `filled` slot or one acquired slot holds. -/
def fCp : Fibre := fib [0x2000, 0, 256, 0xFFFFFFFF, 0]
def gCp : Machine.Group := { grp fCp with scratch := [(0, 128), (4, 128), (8, 1)] }
def sCp : State :=
  { State.reset with
    cores := [(0, { slots := [(0, gCp)], tlb := [page0 0] })]
    cur := some { u := 0, slot := 0, fibres := [0], pc := 0x1000 } }
def cCp : Ctx := { ctxOf 0 gCp fCp with s := sCp }
def lCp : Lane := ⟨0, 0, fCp⟩
theorem issuedCp : Issued sCp always cCp := issued_of rfl rfl rfl
/-- A copy that writes over slot 3, and one that needs one lock entry. -/
def aCopy (out : Option Nat) (locks : List (Nat × Bool × List Nat)) : Copy :=
  { id := 0, slot := 0, domain := 0, n := 128, space := 2, locks := locks,
    lanes := [{ fibre := 0, src := 0x2000, dst := 0x3000, ctr := 0xFFFFFFFF, srcPa := 0x2000, dstPa := 0x3000, dstSlot := out }] }
/-- One that fills a line of package 1 through slot 63. -/
def outCopy : Copy :=
  { aCopy none [] with lanes := [{ fibre := 0, src := 0x2000, dst := 0x3000, ctr := 0xFFFFFFFF, srcPa := 0x2000, dstPa := 2 ^ 42,
                                   dstSlot := some 63 }] }
/-- The domain already holds its four entries. -/
def sHeld : State :=
  { s0 with cores := [(0, { slots := [(0, grp f0)],
                            locks := [{ owner := 1, domain := 0, slot := 0, space := 0, dest := true, lines := [9], entries := 4 }] })] }
/-- The package of `sFarPkg` at time 5, with a ceiling of its slot. -/
def sRidge (ceiling : Nat) : State :=
  { sFarPkg with
    dies := [(0, { Die.reset with
                   time := 5
                   ctl := sset Die.reset.ctl ((0x6000A00000 + 48) / 8) (BitVec.ofNat 64 (2 ^ 63 + 2 ^ 54 + 2 ^ 44)) })]
    cores := [(0, { slots := [(0, grp fGl)], slotSt := [(3, { ceiling := ceiling })],
                    tlb := [{ probeEntry with entry := BitVec.ofNat 128 (2 * 2 ^ 62 + 7 * 2 ^ 59 + 2 ^ 35) }] })] }
def cRidge (ceiling : Nat) : Ctx := { cGl with s := sRidge ceiling }
def ridgeOp : OpM := opM 0 15 2 0 0 2
def slotThree : Except Stop RidgeLane → Bool
  | .ok x => x.slot == 3
  | .error _ => false
theorem of_slotThree {r : Except Stop RidgeLane} (h : slotThree r = true) : ∃ x, r = .ok x ∧ x.slot = 3 := by
  cases r with
  | ok x => exact ⟨x, rfl, of_decide_eq_true h⟩
  | error _ => cases h
theorem ridge_enough : shortSlot (moved (sRidge 65536) (cRidge 65536) always 2) 0 [(3, 64)] = none := by
  have h : allow (moved (sRidge 65536) (cRidge 65536) always 2) 0 3 =
      Nat.min (Nat.min (Nat.min 65536 (65536 + Config.linkExtra 3 - 0)) 65536) 1048576 := rfl
  have h2 : ¬ allow (moved (sRidge 65536) (cRidge 65536) always 2) 0 3 < 64 := by
    rw [h]
    exact Nat.not_lt.mpr (Nat.le_min.mpr ⟨Nat.le_min.mpr ⟨Nat.le_min.mpr ⟨by omega, by omega⟩, by omega⟩, by omega⟩)
  have h3 : epochFull (moved (sRidge 65536) (cRidge 65536) always 2) 0 3 (sgetD [] 3 0) = false := rfl
  simp [shortSlot, h2, h3]

set_option maxRecDepth 8000 in
theorem witness_CopiesAndRidges_copies :
    (∃ (s : State) (c : Ctx) (o : OpM) (v : Lane → CpLane), Issued s o.g c ∧ (∃ ln, Active o.g c ln) ∧
      ∀ ln, Active o.g c ln → cpyCheck o c ln = .ok (v ln)) ∧
    (∃ (s : State) (c : Ctx) (o : OpM) (v : Lane → CpLane), Issued s o.g c ∧ (∃ ln, Active o.g c ln) ∧
      ∀ ln, Active o.g c ln → cpyCbCheck o c ln = .ok (v ln)) ∧
    (∃ (c : Ctx) (s : State) (x : Copy), lockShort { s with nextId := s.nextId + 1 } c.u x.domain x.locks (dsmLines x) = false ∧
      shortSlot { s with nextId := s.nextId + 1 } c.u (needsOf (copyPackets x.n x.lanes)) (writesOf { s with nextId := s.nextId + 1 } c.u
        (copyPackets x.n x.lanes)) = none) ∧
    (∃ (c : Ctx) (s : State) (x : Copy) (k need : Nat), lockShort { s with nextId := s.nextId + 1 } c.u x.domain x.locks (dsmLines x) = false ∧
      shortSlot { s with nextId := s.nextId + 1 } c.u (needsOf (copyPackets x.n x.lanes)) (writesOf { s with nextId := s.nextId + 1 } c.u
        (copyPackets x.n x.lanes)) = some (k, need)) ∧
    (∃ (c : Ctx) (s : State) (x : Copy), lockShort { s with nextId := s.nextId + 1 } c.u x.domain x.locks (dsmLines x) = true) ∧
    (∃ (s : State) (x : Copy), x.lanes ≠ [] ∧ ∀ l ∈ x.lanes, l.dstSlot = none ∨ paPkg l.dstPa = s.pkg) ∧
    ∃ (s : State) (u k : Nat) (x : Copy) (l : CopyLane), x.lanes = [l] ∧ l.dstSlot = some k ∧ paPkg l.dstPa ≠ s.pkg ∧ 0 < x.n ∧
      l.dstPa % 128 + x.n ≤ 128 ∧ k < 64 ∧ slotWcnt s u k < 16777215 :=
  have ⟨x, hx⟩ := of_passes (show passes (cpyCheck (opM 1 15 7 3 0 2) cCp lCp) = true by decide)
  have ⟨y, hy⟩ := of_passes (show passes (cpyCbCheck (opM 0 15 7 4 0 2) cCp lCp) = true by decide)
  ⟨⟨sCp, cCp, opM 1 15 7 3 0 2, fun _ => x, issuedCp, some_of rfl rfl, active_of rfl hx⟩,
    ⟨sCp, cCp, opM 0 15 7 4 0 2, fun _ => y, issuedCp, some_of rfl rfl, active_of rfl hy⟩,
    ⟨c0, s0, aCopy none [], rfl, rfl⟩, ⟨cFarPkg, sFarPkg, aCopy (some 3) [], 3, 160, rfl, by decide⟩,
    ⟨c0, sHeld, aCopy none [(0, false, [64])], rfl⟩, ⟨s0, aCopy none [], by decide, by decide⟩,
    ⟨s0, 0, 63, outCopy, _, rfl, rfl, by decide, by decide, by decide, by decide, by decide⟩⟩

theorem witness_CopiesAndRidges_buffers :
    (∃ (s : State) (c : Ctx) (o : OpT) (b : Lane → Word), Issued s o.g c ∧
      (∀ ln, Active o.g c ln → srcB c ln.f o = .ok (b ln) ∧ cbCheck c ln.f (b ln).toNat = .ok ()) ∧
      (∀ ln, Active o.g c ln → destReady c ln.f 0 o.d.toNat = .ok ()) ∧
      ∀ ln, Active o.g c ln → releaseCheck c ln 2 = .ok () ∧
        ((activeOf o.g c.lanes).filter fun x => decide (srcB c x.f o = .ok (b ln))).length ≤
          cbAcquired s c.u c.slot (b ln).toNat (cbBlock c.g (b ln).toNat)) ∧
    ∃ (s : State) (u slot v : Nat) (g : Machine.Group), s.group u slot = some g ∧ v < 65536 :=
  ⟨⟨sCp, cCp, opT 0 5 0 4 0, fun _ => 0, issuedCp, active_of rfl ⟨rfl, rfl⟩, active_of rfl rfl, active_of rfl ⟨rfl, by decide⟩⟩,
    ⟨sCp, 0, 0, 65535, _, rfl, by decide⟩⟩

/-- The charge of a RIDGE's lanes, 64 bytes of each slot. -/
def ridgeNeeds (l : List (Lane × RidgeLane)) : SMap Nat := l.foldl (fun m x => sset m x.2.slot 64) []
theorem witness_CopiesAndRidges_ridges :
    (∃ (s : State) (c : Ctx) (o : OpM) (v : Lane → RidgeLane) (n need : Nat), Issued s o.g c ∧ (∃ ln, Active o.g c ln) ∧
      (∀ ln, Active o.g c ln → ridgeCheck o c ln = .ok (v ln)) ∧ (∀ ln, Active o.g c ln → ln.f.charged = false) ∧
      shortSlot (moved s c o.g o.len) c.u (freshNeeds ridgeNeeds (passedWith o.g c v)) = some (n, need)) ∧
    (∃ (s : State) (c : Ctx) (o : OpM) (v : Lane → RidgeLane), Issued s o.g c ∧ (∃ ln, Active o.g c ln) ∧
      (∀ ln, Active o.g c ln → ridgeCheck o c ln = .ok (v ln)) ∧ (∀ ln, Active o.g c ln → ln.f.charged = false) ∧
      shortSlot (moved s c o.g o.len) c.u (freshNeeds ridgeNeeds (passedWith o.g c v)) = none ∧
      ∀ ln, Active o.g c ln → released c.s c.u c.slot ln.id ln.f.wct 4 = true ∧ ∀ n, atomicOn c.s c.u c.slot ln.id n = false) ∧
    (∃ s : State, ∃ u : Nat, (s.die (dieOf u)).fabricUp = true) ∧ ∃ s : State, ∃ u : Nat, (s.die (dieOf u)).fabricUp = false := by
  obtain ⟨x, hx, h3⟩ := of_slotThree (r := ridgeCheck ridgeOp (cRidge 0) lGl) (by decide)
  obtain ⟨y, hy, h4⟩ := of_slotThree (r := ridgeCheck ridgeOp (cRidge 65536) lGl) (by decide)
  refine ⟨⟨sRidge 0, cRidge 0, ridgeOp, fun _ => x, 3, 64, issued_of rfl rfl rfl, some_of rfl rfl, active_of rfl hx, active_of rfl rfl, ?_⟩,
    ⟨sRidge 65536, cRidge 65536, ridgeOp, fun _ => y, issued_of rfl rfl rfl, some_of rfl rfl, active_of rfl hy, active_of rfl rfl, ?_,
      active_of rfl ⟨rfl, fun _ => rfl⟩⟩,
    ⟨s0, 0, rfl⟩, { s0 with dies := [(0, { Die.reset with fabricUp := false })] }, 0, rfl⟩
  · show shortSlot _ 0 [(x.slot, sgetD [(x.slot, 64)] x.slot 0)] = _
    rw [h3]; rfl
  · show shortSlot _ 0 [(y.slot, sgetD [(y.slot, 64)] y.slot 0)] = _
    rw [h4]; exact ridge_enough
/-! ## Supervisors and the matrix unit -/

/-- Sixteen registers of zeros on the first supervisor core, at time 5. -/
def fSup : Fibre := fib (List.replicate 16 0)
def sSup (u : Nat) : State := { runs u (grp fSup) with dies := [(0, { Die.reset with time := 5 })] }
def cSup (u : Nat) : Ctx := { ctxOf u (grp fSup) fSup with s := sSup u }
theorem issuedSup (u : Nat) (h : (sSup u).ctx = some (cSup u)) : Issued (sSup u) always (cSup u) := issued_of h rfl rfl

/-- An entry of the pin table for the line of 0x2000 by the group of `s0`, and the package with entries on die 0. -/
def aPin (n : Nat) : Pin := ⟨sliceOf 0x2000, lineIx 0x2000, pinOwner 0 0 (grp f0), 0, 0x2000, n⟩
def sPins (l : List Pin) : State := { s0 with dies := [(0, { Die.reset with pins := l })] }
set_option maxRecDepth 8000 in
theorem witness_SupervisorEntries :
    (∃ (s : State) (c : Ctx) (o : OpT) (ws : Lane → List Word) (w : Lane → Word) (d : Lane → Option Nat × List Nat), Issued s o.g c ∧
      isSupCore c.u = true ∧ (∃ ln, Active o.g c ln) ∧ ∀ ln, Active o.g c ln → srcRegs c ln.f 0 o.a.r.toNat o.a.w 16 = .ok (ws ln) ∧
        srcB c ln.f o = .ok (w ln) ∧ satusDest s c.u (w ln).toNat = some (d ln) ∧ ofLe (((wordsBytes (ws ln)).drop 6).take 2) < 0x8000 ∧
        releaseCheck c ln 4 = .ok ()) ∧
    (∃ (s : State) (c : Ctx) (o : OpT) (q : Lane → Word), Issued s o.g c ∧ isSupCore c.u = true ∧ (∃ ln, Active o.g c ln) ∧
      ∀ ln, Active o.g c ln → srcB c ln.f o = .ok (q ln) ∧ destsReady c ln.f 0 o.d.toNat 16 = .ok () ∧ (q ln).toNat ≤ 1) ∧
    (∃ (s : State) (c : Ctx) (o : OpT) (ln : Lane) (q : Word), Issued s o.g c ∧ isSupCore c.u = false ∧ c.lanes = [ln] ∧
      guardTrue o.g ln.f = true ∧ srcB c ln.f o = .ok q ∧ destsReady c ln.f 0 o.d.toNat 16 = .ok () ∧ q.toNat ≤ 1) ∧
    (∃ (s : State) (c : Ctx) (o : OpT) (ln : Lane) (ws : List Word) (w : Word) (d : Option Nat × List Nat), Issued s o.g c ∧
      isSupCore c.u = false ∧ c.lanes = [ln] ∧ guardTrue o.g ln.f = true ∧ srcRegs c ln.f 0 o.a.r.toNat o.a.w 16 = .ok ws ∧
      srcB c ln.f o = .ok w ∧ satusDest s c.u w.toNat = some d ∧ ofLe (((wordsBytes ws).drop 6).take 2) < 0x8000) ∧
    (∃ (s : State) (u slot id : Nat) (f : Fibre), s.fibre u slot id = some f) ∧
    (∃ (s : State) (c : Ctx) (o : OpM) (a : Lane → Nat) (p : Lane → Word), Issued s o.g c ∧ (∃ ln, Active o.g c ln) ∧
      ∀ ln, Active o.g c ln → addr64 c ln.f o 1 = .ok (a ln) ∧ srcField c ln.f o.ub o.b = .ok (p ln)) ∧
    (∃ (d u : Nat), dieOf u = d) ∧
    (∃ (s : State) (c : Ctx) (o : OpM) (a : Lane → Nat) (p : Lane → Page), Issued s o.g c ∧ (∃ ln, Active o.g c ln) ∧
      ∀ ln, Active o.g c ln → (addr64 c ln.f o 1 = .ok (a ln) ∧
          translate s c.u (whoOf s c.u c.g ln.f) (a ln) .load 1 true = .ok (p ln)) ∧
        (islandCheck s c.u (a ln) (p ln).pa = .ok () ∧ destReady c ln.f 0 o.d.toNat = .ok ()) ∧ (paPkg (p ln).pa = s.pkg →
          storeTo s c.u c.slot ln.id (p ln).pa = false ∧ lineBusy s (p ln).pa = false)) ∧
    (∃ (p : Pin → Bool) (l : List Pin) (q : Pin), (∀ x ∈ l, p x = false) ∧ p q = true) ∧
    (∃ (s : State) (p : Page), paPkg p.pa ≠ s.pkg ∨ plainPa p.pa = false) ∧
    (∃ (c : Ctx) (s : State) (p : Page), paPkg p.pa = s.pkg ∧ plainPa p.pa = true ∧
      ((s.die (paDie p.pa)).pins.any fun q => q.slice == sliceOf p.pa && q.line == lineIx p.pa && q.owner == pinOwner c.u c.slot c.g &&
        decide (q.count < 255)) = true) ∧
    (∃ (c : Ctx) (s : State) (ln : Lane) (p : Page), paPkg p.pa = s.pkg ∧ plainPa p.pa = true ∧
      ((s.die (paDie p.pa)).pins.any fun q => q.slice == sliceOf p.pa && q.line == lineIx p.pa && q.owner == pinOwner c.u c.slot c.g &&
        decide (q.count < 255)) = false ∧
      (decide (((s.die (paDie p.pa)).pins.filter fun q => q.slice == sliceOf p.pa).length < 256) &&
        decide (pinnedWays (s.die (paDie p.pa)) (sliceOf p.pa) (setOf p.pa (classOf s c.u (domainOf c.g ln.f))) < 8)) = false) ∧
    (∃ (c : Ctx) (s : State) (ln : Lane) (p : Page), paPkg p.pa = s.pkg ∧ plainPa p.pa = true ∧
      ((s.die (paDie p.pa)).pins.any fun q => q.slice == sliceOf p.pa && q.line == lineIx p.pa && q.owner == pinOwner c.u c.slot c.g &&
        decide (q.count < 255)) = false ∧
      (decide (((s.die (paDie p.pa)).pins.filter fun q => q.slice == sliceOf p.pa).length < 256) &&
        decide (pinnedWays (s.die (paDie p.pa)) (sliceOf p.pa) (setOf p.pa (classOf s c.u (domainOf c.g ln.f))) < 8)) = true ∧
      (setMates s p.pa (setOf p.pa (classOf s c.u (domainOf c.g ln.f)))).length < 16) ∧
    (∃ (u pa : Nat), dieOf u = paDie pa) ∧ (∃ (s : State) (pa : Nat), pinnedLine (s.die (paDie pa)) (lineIx pa) = false) ∧
    (∃ (s : State) (u : Nat) (m : BitVec 512) (t : List (BitVec 512)), (s.core u).satus = m :: t) ∧
    (∃ (s : State) (u : Nat), (s.core u).satus = [] ∧ nextRecord s (dieOf u) = none) ∧
    (∃ (s : State) (u : Nat) (r : Record), nextRecord s (dieOf u) = some r) ∧
    ∃ (s : State) (c : Ctx) (o : OpM) (a : Lane → Nat) (p : Lane → Page), Issued s o.g c ∧ (∃ ln, Active o.g c ln) ∧
      ∀ ln, Active o.g c ln → addr64 c ln.f o 1 = .ok (a ln) ∧ fetchPage s c.u c.g ln.f (a ln) = .ok (p ln) ∧
        islandCheck s c.u (a ln) (p ln).pa = .ok () :=
  ⟨⟨sSup 32, cSup 32, opT 15 0 0 3 0, fun _ => List.replicate 16 0, fun _ => 0, fun _ => (some 0, groupMembers (sSup 32) 0), issuedSup 32 rfl,
      rfl, some_of rfl rfl, active_of rfl ⟨rfl, rfl, rfl, by decide, rfl⟩⟩,
    ⟨sSup 32, cSup 32, opT 15 0 0 3 0, fun _ => 0, issuedSup 32 rfl, rfl, some_of rfl rfl, active_of rfl ⟨rfl, rfl, by decide⟩⟩,
    ⟨sSup 0, cSup 0, opT 15 0 0 3 0, ⟨0, 0, fSup⟩, 0, issuedSup 0 rfl, rfl, rfl, rfl, rfl, rfl, by decide⟩,
    ⟨sSup 0, cSup 0, opT 15 0 0 3 0, ⟨0, 0, fSup⟩, List.replicate 16 0, 0, (some 0, groupMembers (sSup 0) 0), issuedSup 0 rfl, rfl, rfl, rfl, rfl,
      rfl, rfl, by decide⟩,
    ⟨s0, 0, 0, 0, f0, rfl⟩,
    ⟨sGl, cGl, opM 0 15 0 0 0 2, fun _ => 0x2000, fun _ => 7, issuedGl, some_of rfl rfl, active_of rfl ⟨rfl, rfl⟩⟩,
    ⟨1, 64, rfl⟩,
    ⟨sGl, cGl, opM 0 15 0 4 0 2, fun _ => 0x2000, fun _ => pageAt 0x2000, issuedGl, some_of rfl rfl,
      active_of rfl ⟨⟨rfl, rfl⟩, ⟨rfl, rfl⟩, fun _ => ⟨rfl, rfl⟩⟩⟩,
    ⟨fun q => q.count == 1, [aPin 2], aPin 1, by decide, by decide⟩, ⟨s0, pageAt (2 ^ 42), by decide⟩,
    ⟨c0, sPins [aPin 254], pageAt 0x2000, by decide, by decide, by
      show (List.any [aPin 254] _) = true
      simp only [aPin, pageAt, c0, ctxOf, List.any_cons, beq_self_eq_true, Bool.true_and]
      rfl⟩,
    ⟨c0, sPins (List.replicate 256 (aPin 255)), l0, pageAt 0x2000, by decide, by decide, by
      show (List.any (List.replicate 256 (aPin 255)) _) = false
      simp [aPin], by
      show (decide ((List.filter _ (List.replicate 256 (aPin 255))).length < 256) && _) = false
      simp [aPin, pageAt]⟩,
    ⟨c0, s0, l0, pageAt 0x2000, by decide, by decide, rfl, rfl, by
      show 0 < 16
      decide⟩,
    ⟨0, 0x2000, rfl⟩, ⟨s0, 0x2000, rfl⟩, ⟨{ s0 with cores := [(32, { satus := [7] })] }, 32, 7, [], rfl⟩, ⟨s0, 32, rfl, rfl⟩,
    ⟨{ s0 with dies := [(0, { Die.reset with records := [{ tag := 0, fcause := 4, who := 0, faddr := 0, fpc := 0, domain := 0 }] })] }, 32, _, rfl⟩,
    ⟨sGl, cGl, opM 0 15 0 0 0 2, fun _ => 0x2000, fun _ => pageAt 0x2000, issuedGl, some_of rfl rfl, active_of rfl ⟨rfl, by decide, rfl⟩⟩⟩

def opX (cv t1 t2 : BitVec 4) (ac : BitVec 3) (md : BitVec 8) : OpX :=
  { g := always, cv := cv, t1 := t1, t2 := t2, ac := ac, rsv1 := 0, fa := 0, fb := 0, md := md, b := reg 0, ub := false, rsv2 := 0 }
/-- An operation with no operand. -/
def theX : OpX := opX 4 1 1 0 0
def gRefused : Machine.Group := { grp f0 with hdr := { hdr with ktiles := 0, kaccs := 0 } }
def gSigned : Machine.Group := { grp f0 with fibres := [(0, { f0 with signs := 16 })] }
def sQueue (n : Nat) : State := queued n (grp f0)
/-- A fibre may sign: its signature bit, acquires, windows and formats pass. -/
def MaySign (o : OpX) (x : XOp) (c : Ctx) (s : State) (ln : Lane) (g : Machine.Group) (f : Fibre) : Prop :=
  s.group c.u c.slot = some g ∧ sget g.fibres ln.id = some f ∧ f.signs.getLsbD o.cv.toNat = false ∧
    (x.op.accesses o.md && acquiring s c.u c.slot ln.id) = false ∧ windowRefuse g f x.names = none ∧
    x.format s { c with s := s, g := g } g = none
/-- What the members of a set sign for. -/
def xKey (o : OpX) (x : XOp) : List Nat :=
  [x.opc, o.ac.toNat, o.t1.toNat, o.t2.toNat, o.md.toNat, o.fa.toNat, o.fb.toNat, if o.ub then 1 else 0, o.b.r.toNat]
/-- Groups whose u0 is empty or misaligned, and tile loads from u0 without and with the wait bit. -/
def gUni (r : Reg) : Machine.Group := { grp f0 with uregs := [(0, r)] }
def gEmpty : Machine.Group := gUni { val := 0, st := .empty }
def gOff : Machine.Group := gUni { val := 7, st := .full }
def opEmpty (w : Bool) : OpX := { opX 4 1 1 0 1 with b := ⟨w, 0⟩ }
/-- A group of which fibre 5 has signed c4, which awaits `e` members. -/
def gTwo (key : List Nat) (e : Nat) : Machine.Group :=
  { grp f0 with convs := [(4, { e := e, signers := [{ fibre := 5, x := 0, y := 0, p := false, d := 0 }], key := key })] }
set_option maxRecDepth 8000 in
theorem witness_MatrixInstructions :
    (∃ (s : State) (c : Ctx) (o : OpX), Issued s o.g c ∧ isSupCore c.u = false) ∧
    (∃ (s : State) (c : Ctx) (o : OpX), Issued s o.g c ∧ isSupCore c.u = true) ∧
    (∃ (o : OpX) (c : Ctx) (s : State) (ln : Lane) (g : Machine.Group) (f : Fibre), s.group c.u c.slot = some g ∧ sget g.fibres ln.id = some f ∧
      f.signs.getLsbD o.cv.toNat = true) ∧
    (∃ (o : OpX) (x : XOp) (c : Ctx) (s : State) (ln : Lane) (g : Machine.Group) (f : Fibre), s.group c.u c.slot = some g ∧ sget g.fibres ln.id = some f ∧ 
      f.signs.getLsbD o.cv.toNat = false ∧ (x.op.accesses o.md && acquiring s c.u c.slot ln.id) = true) ∧
    (∃ (o : OpX) (x : XOp) (c : Ctx) (s : State) (ln : Lane) (g : Machine.Group) (f : Fibre)
      (r : Nat × Nat × Nat), s.group c.u c.slot = some g ∧ sget g.fibres ln.id = some f ∧ f.signs.getLsbD o.cv.toNat = false ∧
      (x.op.accesses o.md && acquiring s c.u c.slot ln.id) = false ∧ 
      windowRefuse g f x.names = some r) ∧
    (∃ (o : OpX) (x : XOp) (c : Ctx) (s : State) (ln : Lane) (g : Machine.Group) (f : Fibre)
      (r : Nat × Nat × Nat), s.group c.u c.slot = some g ∧ sget g.fibres ln.id = some f ∧ f.signs.getLsbD o.cv.toNat = false ∧
      (x.op.accesses o.md && acquiring s c.u c.slot ln.id) = false ∧ 
      windowRefuse g f x.names = none ∧ x.format s { c with s := s, g := g } g = some r) ∧
    (∃ (o : OpX) (x : XOp) (c : Ctx) (s : State) (ln : Lane) (g : Machine.Group) (f : Fibre) (cause sub a : Nat), MaySign o x c s ln g f ∧
      x.readB { c with s := s, g := g } f = .error (.fault cause sub a)) ∧
    (∃ (o : OpX) (x : XOp) (c : Ctx) (s : State) (ln : Lane) (g : Machine.Group) (f : Fibre) (w : Wait), MaySign o x c s ln g f ∧
      x.readB { c with s := s, g := g } f = .error (.block w)) ∧
    (∃ (o : OpX) (x : XOp) (c : Ctx) (s : State) (ln : Lane) (g : Machine.Group) (f : Fibre) (b : Nat × Int) (cause sub a : Nat),
      MaySign o x c s ln g f ∧ x.readB { c with s := s, g := g } f = .ok b ∧
      x.later s { c with s := s, g := g } g f b = .error (.fault cause sub a)) ∧
    (∃ (o : OpX) (x : XOp) (c : Ctx) (s : State) (ln : Lane) (g : Machine.Group) (f : Fibre) (b : Nat × Int), MaySign o x c s ln g f ∧
      x.readB { c with s := s, g := g } f = .ok b ∧ x.later s { c with s := s, g := g } g f b = .ok () ∧
      (g.conv o.cv.toNat).signers ≠ [] ∧ (g.conv o.cv.toNat).key ≠ xKey o x) ∧
    (∃ (o : OpX) (x : XOp) (c : Ctx) (s : State) (ln : Lane) (g : Machine.Group) (f : Fibre) (b : Nat × Int) (cause sub a : Nat),
      MaySign o x c s ln g f ∧ x.readB { c with s := s, g := g } f = .ok b ∧ x.later s { c with s := s, g := g } g f b = .ok () ∧
      (g.conv o.cv.toNat).signers = [] ∧ x.last { c with s := s, g := g } f b = .error (.fault cause sub a)) ∧
    (∃ (o : OpX) (x : XOp) (c : Ctx) (s : State) (ln : Lane) (g : Machine.Group) (f : Fibre) (b : Nat × Int), MaySign o x c s ln g f ∧
      x.readB { c with s := s, g := g } f = .ok b ∧ x.later s { c with s := s, g := g } g f b = .ok () ∧
      (g.conv o.cv.toNat).key = xKey o x ∧ x.last { c with s := s, g := g } f b = .ok () ∧
      (insertSigner { fibre := ln.id, x := 0, y := 0, p := false, d := 0 } (g.conv o.cv.toNat).signers).length < (g.conv o.cv.toNat).e) ∧
    (∃ (o : OpX) (x : XOp) (c : Ctx) (s : State) (ln : Lane) (g : Machine.Group) (f : Fibre) (b : Nat × Int), MaySign o x c s ln g f ∧
      x.readB { c with s := s, g := g } f = .ok b ∧ x.later s { c with s := s, g := g } g f b = .ok () ∧
      (g.conv o.cv.toNat).key = xKey o x ∧ x.last { c with s := s, g := g } f b = .ok () ∧
      (g.conv o.cv.toNat).e ≤ (insertSigner { fibre := ln.id, x := 0, y := 0, p := false, d := 0 } (g.conv o.cv.toNat).signers).length) ∧
    (∃ (o : OpX) (s : State) (c : Ctx) (f : Fibre) (b : Nat × Int) (g : Machine.Group) (rows rows2 : List TileRow),
      s.group c.u c.slot = some g ∧ tileRows o { c with s := s } c.g f .load b = .ok rows ∧
      tileRows o { c with s := s } c.g f .store b = .ok rows2) ∧
    (∃ (s : State) (c : Ctx), 8 ≤ (s.core c.u).queue.length) ∧ (∃ (s : State) (c : Ctx), (s.core c.u).queue.length < 8) ∧
    ∃ (o : OpX) (s : State) (c : Ctx), tileBusy s c.u c.slot o.t1.toNat = true :=
  have ⟨rows, hr⟩ := of_passes (show passes (tileRows (opX 4 1 1 0 1) { c0 with s := s0 } (grp f0) f0 .load (0, 0)) = true by decide)
  have ⟨rows2, hr2⟩ := of_passes (show passes (tileRows (opX 4 1 1 0 1) { c0 with s := s0 } (grp f0) f0 .store (0, 0)) = true by decide)
  ⟨⟨s0, c0, theX, issued0, rfl⟩, ⟨sSup 32, cSup 32, theX, issuedSup 32 rfl, rfl⟩,
    ⟨theX, c0, runs 0 gSigned, l0, gSigned, { f0 with signs := 16 }, rfl, rfl, rfl⟩,
    ⟨theX, tldX theX, { cSp with s := sAcq }, sAcq, lSp, _, _, rfl, rfl, rfl, rfl⟩,
    ⟨theX, azeroX theX, c0, runs 0 gRefused, l0, gRefused, f0, _, rfl, rfl, rfl, rfl, rfl⟩,
    ⟨theX, mmaX theX, c0, s0, l0, grp f0, f0, _, rfl, rfl, rfl, rfl, rfl, rfl⟩,
    ⟨opEmpty false, tldX (opEmpty false), c0, runs 0 gEmpty, l0, gEmpty, f0, _, _, _, ⟨rfl, rfl, rfl, rfl, rfl, rfl⟩, rfl⟩,
    ⟨opEmpty true, tldX (opEmpty true), c0, runs 0 gEmpty, l0, gEmpty, f0, _, ⟨rfl, rfl, rfl, rfl, rfl, rfl⟩, rfl⟩,
    ⟨opEmpty false, tldX (opEmpty false), c0, runs 0 gOff, l0, gOff, f0, _, _, _, _, ⟨rfl, rfl, rfl, rfl, rfl, rfl⟩, rfl, rfl⟩,
    ⟨theX, azeroX theX, c0, runs 0 (gTwo [1] 3), l0, gTwo [1] 3, f0, (0, 0), ⟨rfl, rfl, rfl, rfl, rfl, rfl⟩, rfl, rfl, by decide, by decide⟩,
    ⟨theX, { azeroX theX with last := fun _ _ _ => .error (.fault 4 0 7) }, c0, s0, l0, grp f0, f0, (0, 0), _, _, _,
      ⟨rfl, rfl, rfl, rfl, rfl, rfl⟩, rfl, rfl, rfl, rfl⟩,
    ⟨theX, azeroX theX, c0, runs 0 (gTwo (xKey theX (azeroX theX)) 3), l0, gTwo (xKey theX (azeroX theX)) 3, f0, (0, 0),
      ⟨rfl, rfl, rfl, rfl, rfl, rfl⟩, rfl, rfl, rfl, rfl, by decide⟩,
    ⟨theX, azeroX theX, c0, runs 0 (gTwo (xKey theX (azeroX theX)) 2), l0, gTwo (xKey theX (azeroX theX)) 2, f0, (0, 0),
      ⟨rfl, rfl, rfl, rfl, rfl, rfl⟩, rfl, rfl, rfl, rfl, by decide⟩,
    ⟨opX 4 1 1 0 1, s0, c0, f0, (0, 0), grp f0, rows, rows2, rfl, hr, hr2⟩,
    ⟨sQueue 8, c0, by decide⟩, ⟨sQueue 7, c0, by decide⟩, ⟨theX, sQueue 1, c0, rfl⟩⟩
/-! ## Events: waits, issue, coherence, requests and engines -/

/-- The package with nothing being issued. -/
def idle (g : Machine.Group) (c : Core) : State := { State.reset with cores := [(0, { c with slots := [(0, g)] })] }
def sIdle : State := idle (grp f0) {}
/-- A return of v3 for fibre 0. -/
def aReturn (x : ReturnSt) : Machine.Return := { id := 4, slot := 0, fibre := 0, dests := [(0, 3, 8)], st := x }
def sReturn (x : ReturnSt) : State := idle (grp f0) { returns := [aReturn x] }
/-- A load of the scratch of die 0's own memory, whose line core 0 holds as S. -/
def aLoad : Flight := { id := 7, u := 0, slot := 0, kind := .load false, pa := 0x2000, parts := [{ fibre := 0, addr := 0x2004, size := 4, ret := some 4 }] }
def sAway : State := { idle (grp f0) { returns := [aReturn (.away 7)], l1 := [(64, .s)] } with flights := [aLoad] }
/-- A group that waits for `need` bytes of allowance, at time 100. -/
def sCol (need ceiling : Nat) : State :=
  { sFar with
    dies := (List.range 8).map fun d => (d, { farDie with time := 100 })
    cores := [(0, { slots := [(0, { grp fGl with st := .colwait 3 need 0 0 false })], slotSt := [(3, { ceiling := ceiling })] })] }
/-- A fibre that waits for the page of 0x1000, and page tables in which it is the leaf at 0x50000. -/
def fWalk (host : Bool) : Fibre := { f0 with wait := some (.walk 0 0x1000 host) }
def sWalk (host : Bool) : State :=
  { idle (grp (fWalk host)) {} with
    dies := [(0, { Die.reset with ctl := sset Die.reset.ctl (0x6010000000 / 8) 0x4000000000001000 })]
    mem := [(0x10001, 0x20), (0x10007, 0x40), (0x20001, 0x30), (0x20007, 0x40), (0x30001, 0x40), (0x30007, 0x40), (0x40001, 0x50),
            (0x40007, 0xA0)] }
def isLeaf : WalkEnd → Bool
  | .leaf _ _ => true
  | .bad _ => false
theorem of_isLeaf {w : WalkEnd} (h : isLeaf w = true) : ∃ e big, w = .leaf e big := by
  cases w with
  | leaf e big => exact ⟨e, big, rfl⟩
  | bad _ => cases h

set_option maxRecDepth 8000 in
theorem witness_WaitsAndIssue_issue :
    (∃ (s : State) (u slot id : Nat) (g : Machine.Group) (f : Fibre) (w : Wait), s.group u slot = some g ∧ sget g.fibres id = some f ∧
      f.wait = some w) ∧
    (∃ w : Wait, (∀ b d x k, w ≠ .buffer b d x k) ∧ ∀ q d x k, w ≠ .receive q d x k) ∧
    (∃ (s : State) (u : Nat), s.cur = none ∧ (s.die (dieOf u)).alive = true ∧ chooseReady (s.core u) (readyFibres s u) = none) ∧
    (∃ (s : State) (u : Nat) (r : Ready) (credit : SMap Int) (g : Machine.Group) (f : Fibre), s.cur = none ∧
      (s.die (dieOf u)).alive = true ∧ chooseReady (s.core u) (readyFibres s u) = some (r, credit) ∧ s.group u r.slot = some g ∧
      sget g.fibres r.id = some f) ∧
    (∃ (s : State), s.cur ≠ none) ∧
    (∃ (g : Machine.Group) (id : Nat) (f : Fibre), sget g.fibres id = some f) ∧
    ∃ (c : Core) (rs : List Ready), deadlinePressed c.opp rs = true :=
  ⟨⟨runs 0 (grp (fBar false)), 0, 0, 0, _, _, _, rfl, rfl, rfl⟩, ⟨.flags, ⟨by rintro _ _ _ _ ⟨⟩, by rintro _ _ _ _ ⟨⟩⟩⟩, ⟨State.reset, 0, rfl, rfl, rfl⟩,
    ⟨sIdle, 0, { set := 0, slot := 0, id := 0, readyAt := 0, late := false }, _, _, _, rfl, rfl, rfl, rfl, rfl⟩, ⟨s0, by decide⟩,
    ⟨grp f0, 0, f0, rfl⟩, ⟨{ opp := 4095 }, [{ set := 0, slot := 0, id := 0, readyAt := 0, late := false }], rfl⟩⟩

set_option maxRecDepth 8000 in
theorem witness_WaitsAndIssue_ends :
    (∃ (s : State) (u idx : Nat) (ecc : Bool) (r : Machine.Return) (g : Machine.Group) (f : Fibre) (n : Nat) (v : Word),
      (s.core u).returns[idx]? = some r ∧ s.group u r.slot = some g ∧ sget g.fibres r.fibre = some f ∧ r.dests = [(0, n, v)] ∧
      (s.die (dieOf u)).alive = true ∧ (r.acq = true → r.after ≤ s.now (dieOf u)) ∧
      r.st = .ready ∧ (ecc && r.data) = false) ∧
    (∃ (s : State) (u idx : Nat) (r : Machine.Return) (g : Machine.Group) (f : Fibre) (n : Nat) (v : Word),
      (s.core u).returns[idx]? = some r ∧ s.group u r.slot = some g ∧ sget g.fibres r.fibre = some f ∧ r.dests = [(0, n, v)] ∧
      (s.die (dieOf u)).alive = true ∧ (r.acq = true → r.after ≤ s.now (dieOf u)) ∧
      r.st = .ready ∧ r.data = true) ∧
    (∃ (s : State) (u idx cause : Nat) (r : Machine.Return) (g : Machine.Group) (f : Fibre) (n : Nat) (v : Word),
      (s.core u).returns[idx]? = some r ∧ s.group u r.slot = some g ∧ sget g.fibres r.fibre = some f ∧ r.dests = [(0, n, v)] ∧
      (s.die (dieOf u)).alive = true ∧ (r.acq = true → r.after ≤ s.now (dieOf u)) ∧
      r.st = .failed cause) ∧
    (∃ (s s1 : State) (u idx k : Nat) (r : Machine.Return) (g : Machine.Group) (f : Fibre) (n : Nat) (v : Word) (x : Flight) (acq : Bool),
      (s.core u).returns[idx]? = some r ∧ s.group u r.slot = some g ∧ sget g.fibres r.fibre = some f ∧ r.dests = [(0, n, v)] ∧
      (s.die (dieOf u)).alive = true ∧ (r.acq = true → r.after ≤ s.now (dieOf u)) ∧
      r.st = .away k ∧ (s.flights.find? fun f => f.id == k) = some x ∧ x.kind = .load acq ∧ ownDie s x.u x.pa = true ∧
      localLoad s x false = some s1) ∧
    (∃ (s : State) (u idx : Nat) (r : Machine.Return), (s.core u).returns[idx]? = some r ∧ (s.die (dieOf u)).alive = false) ∧
    (∃ (s : State) (u idx : Nat) (r : Machine.Return), (s.core u).returns[idx]? = some r ∧ r.st = .ready ∧ r.acq = true ∧
      s.now (dieOf u) < r.after) ∧
    (∃ (s : State) (u slot n need since dom : Nat) (saving : Bool) (g : Machine.Group), s.group u slot = some g ∧
      g.st = .colwait n need since dom saving ∧
      slotValid s u n = true ∧ slotDomain s u n = dom ∧ slotBroken s u n = false ∧ allow s u n < need) ∧
    (∃ (s : State) (u slot n need since dom : Nat) (saving : Bool) (g : Machine.Group), s.group u slot = some g ∧
      g.st = .colwait n need since dom saving ∧
      need ≤ allow s u n) ∧
    (∃ (s : State) (u slot n need since dom : Nat) (saving : Bool) (g : Machine.Group), s.group u slot = some g ∧
      g.st = .colwait n need since dom saving ∧ slotDomain s u n ≠ dom) ∧
    (∃ (s : State) (u slot n need since dom : Nat) (saving : Bool) (g : Machine.Group), s.group u slot = some g ∧
      g.st = .colwait n need since dom saving ∧
      640 ≤ (s.now (dieOf u) - since) * clockRate s (dieOf u) (islandOf u)) ∧
    (∃ (s : State) (line : Nat), isPoisoned s (64 * line) = true) ∧
    (∃ (s : State) (line : Nat) (x1 : List Word), isPoisoned s (64 * line) = false ∧ parityOk (flipLine (lineAt s (64 * line)) x1) = true) ∧
    (∃ (s : State) (line : Nat) (x1 x2 : List Word), isPoisoned s (64 * line) = false ∧ parityOk (flipLine (lineAt s (64 * line)) x1) = false ∧
      parityOk (flipLine (lineAt s (64 * line)) x2) = true) ∧
    (∃ (s : State) (u pasid dom : Nat) (va : DWord) (e : Nat) (big : Bool), retracted s (dieOf u) pasid va.toNat = false ∧
      walkWaiters s u pasid va.toNat dom false ≠ [] ∧ walk s u pasid dom va.toNat = .leaf e big ∧
      bigShot s (dieOf u) pasid va.toNat big = false) ∧
    (∃ (s : State) (u pasid dom : Nat) (va : DWord) (e : BitVec 128), retracted s (dieOf u) pasid va.toNat = false ∧
      walkWaiters s u pasid va.toNat dom true ≠ [] ∧ pteT e.toNat = 2 ∧ leafBad s.pkg false e.toNat = false) :=
  have ⟨e, big, hw⟩ := of_isLeaf (show isLeaf (walk (sWalk false) 0 0 0 0x1000) = true by decide)
  ⟨⟨sReturn .ready, 0, 0, true, aReturn .ready, _, _, 3, 8, rfl, rfl, rfl, rfl, rfl, nofun, rfl, rfl⟩,
    ⟨idle (grp f0) { returns := [{ aReturn .ready with data := true }] }, 0, 0, { aReturn .ready with data := true }, _, _, 3, 8, rfl, rfl, rfl,
      rfl, rfl, nofun, rfl, rfl⟩,
    ⟨sReturn (.failed 9), 0, 0, 9, aReturn (.failed 9), _, _, 3, 8, rfl, rfl, rfl, rfl, rfl, nofun, rfl⟩,
    ⟨sAway, _, 0, 0, 7, aReturn (.away 7), _, _, 3, 8, aLoad, false, rfl, rfl, rfl, rfl, rfl, nofun, rfl, rfl, rfl, rfl, rfl⟩,
    ⟨{ sReturn .ready with dies := [(0, { Die.reset with alive := false })] }, 0, 0, _, rfl, rfl⟩,
    ⟨idle (grp f0) { returns := [{ aReturn .ready with acq := true, after := 9 }] }, 0, 0, _, rfl, rfl, rfl, by decide⟩,
    ⟨sCol 64 0, 0, 0, 3, 64, 0, 0, false, _, rfl, rfl, by decide, by decide, by decide, by decide⟩,
    ⟨sCol 0 0, 0, 0, 3, 0, 0, 0, false, _, rfl, rfl, Nat.zero_le _⟩,
    ⟨{ sCol 64 0 with cores := [(0, { slots := [(0, { grp fGl with st := .colwait 3 64 0 7 true })] })] }, 0, 0, 3, 64, 0, 7, true, _, rfl, rfl,
      by decide⟩, ⟨sCol 0 0, 0, 0, 3, 0, 0, 0, false, _, rfl, rfl, by decide⟩,
    ⟨{ s0 with dies := [(0, { Die.reset with poison := [(32, 0)] })] }, 64, by decide⟩, ⟨s0, 64, [], by decide, by decide⟩,
    ⟨s0, 64, [1], [], by decide, by decide, by decide⟩,
    ⟨sWalk false, 0, 0, 0, 0x1000, e, big, rfl, by decide, hw, by cases big <;> rfl⟩,
    ⟨sWalk true, 0, 0, 0, 0x1000, 0x8000000000005000, rfl, by decide, by decide, by decide⟩⟩
/-- Line 64 of die 0: its directory entry, the messages of the die, and its state, eviction and request in core 0. -/
def sDir (e : Dir) (ms : List (Nat × Nat × Msg)) (c : Core) : State :=
  { idle (grp f0) c with dies := [(0, { Die.reset with dirs := [(64, e)], msgs := ms })] }
def sMsg (m : Msg) : State := sDir {} [(0, 64, m)] {}

theorem witness_DirectoryProtocol_home :
    (∃ (s : State) (d line core : Nat) (k : ReqKind), k ∈ [ReqKind.gets, .getx, .upg] ∧ chanHead s d line core true = some (.req k) ∧
      (dirOf s d line).queue = []) ∧
    (∃ (s : State) (d line : Nat), dirBusy (dirOf s d line) = true) ∧
    (∃ (s : State) (d line : Nat) (k : ReqKind), dirBusy (dirOf s d line) = false ∧ leaseHeld s d line k = false) ∧
    (∃ (s : State) (d line : Nat), (dirOf s d line).st = .i) ∧
    (∃ (s : State) (d line core : Nat), (dirOf s d line).st = .s ∧ invTargets (dirOf s d line).sharers core = []) ∧
    (∃ (s : State) (d line core : Nat), (dirOf s d line).st = .s ∧ invTargets (dirOf s d line).sharers core ≠ []) ∧
    (∃ (s : State) (d line : Nat), (dirOf s d line).st = .m) ∧ (∃ (s : State) (d line : Nat), (dirOf s d line).st = .o) ∧
    (∃ (s : State) (d line core : Nat), (dirOf s d line).st = .o ∧ core ≠ (dirOf s d line).owner) ∧
    (∃ (s : State) (d line core : Nat), (dirOf s d line).st = .o ∧ core = (dirOf s d line).owner ∧
      invTargets (dirOf s d line).sharers core ≠ []) ∧
    (∃ (s : State) (d line core : Nat), (dirOf s d line).st = .o ∧ core = (dirOf s d line).owner ∧
      invTargets (dirOf s d line).sharers core = []) ∧
    (∃ (s : State) (d line core : Nat), chanHead s d line core true = some .invack ∧ (dirOf s d line).st = .sm ∧
      1 < (dirOf s d line).acks) ∧
    (∃ (s : State) (d line core : Nat), chanHead s d line core true = some .invack ∧ (dirOf s d line).st = .sm ∧
      (dirOf s d line).acks ≤ 1) ∧
    (∃ (s : State) (d line core : Nat) (getx wasE : Bool), chanHead s d line core true = some (.ownerAck getx wasE) ∧
      (dirOf s d line).st = .fw) ∧
    (∃ (s : State) (d line core : Nat) (k : ReqKind), core < 32 ∧ putOf s d line core = some k ∧
      chanHead s d line core true = some (.req k) ∧ (dirOf s d line).queue = []) ∧
    (∃ (s : State) (d line core : Nat), core < 32 ∧ putOf s d line core = none ∧ l1Of s (unitOf d core) line = .s ∧
      sget (s.core (unitOf d core)).l1Req line = none) ∧
    ∃ (s : State) (d line core : Nat) (k : ReqKind), core < 32 ∧ putOf s d line core = none ∧ (l1Of s (unitOf d core) line).put = some k ∧
      sget (s.core (unitOf d core)).l1Req line = none :=
  ⟨⟨sMsg (.req .upg), 0, 64, 0, .upg, by decide, rfl, rfl⟩, ⟨sDir { queue := [(1, .gets)] } [] {}, 0, 64, rfl⟩, ⟨sMsg .inv, 0, 64, .getx, rfl, rfl⟩,
    ⟨sMsg .inv, 0, 64, rfl⟩, ⟨sDir { st := .s } [] {}, 0, 64, 0, rfl, rfl⟩,
    ⟨sDir { st := .s, sharers := 2 } [] {}, 0, 64, 4, rfl, by decide⟩, ⟨sDir { st := .m } [] {}, 0, 64, rfl⟩,
    ⟨sDir { st := .o } [] {}, 0, 64, rfl⟩, ⟨sDir { st := .o, owner := 3 } [] {}, 0, 64, 2, rfl, by decide⟩,
    ⟨sDir { st := .o, owner := 3, sharers := 2 } [] {}, 0, 64, 3, rfl, rfl, by decide⟩, ⟨sDir { st := .o, owner := 3 } [] {}, 0, 64, 3, rfl, rfl, by decide⟩, ⟨sDir { st := .sm, acks := 2 } [(0, 64, .invack)] {}, 0, 64, 0, rfl, rfl, by decide⟩,
    ⟨sDir { st := .sm, acks := 1 } [(0, 64, .invack)] {}, 0, 64, 0, rfl, rfl, by decide⟩,
    ⟨sDir { st := .fw } [(0, 64, .ownerAck false true)] {}, 0, 64, 0, false, true, rfl, rfl⟩,
    ⟨sDir {} [(0, 64, .req .putm)] { wb := [(64, .putm)] }, 0, 64, 0, .putm, by decide, rfl, rfl, rfl⟩,
    ⟨sDir {} [] { l1 := [(64, .s)] }, 0, 64, 0, by decide, rfl, rfl, rfl⟩,
    ⟨sDir {} [] { l1 := [(64, .m)] }, 0, 64, 0, .putm, by decide, rfl, rfl, rfl⟩⟩

/-- A request of a core for the line of 0x2000. -/
def fly (u : Nat) (k : FlightKind) (ps : List Part) : Flight := { id := 7, u := u, slot := 0, kind := k, pa := 0x2000, parts := ps }
def aPart : Part := { fibre := 0, addr := 0x2004, size := 4, data := [9, 0, 0, 0] }
/-- A store of core 0 waits for the line, which its home has granted. -/
def sGranted : State := { sDir {} [(0, 64, .grant)] { l1Req := [(64, .upg)], l1 := [(64, .s)] } with flights := [fly 0 .store [aPart]] }
theorem witness_DirectoryProtocol_core :
    (∃ (s : State) (d line core : Nat), chanHead s d line core false = some .inv) ∧
    (∃ (s : State) (d line core req : Nat), chanHead s d line core false = some (.fwdGets req) ∧ l1Of s (unitOf d core) line = .o) ∧
    (∃ (s : State) (d line core req : Nat), chanHead s d line core false = some (.fwdGets req) ∧ l1Of s (unitOf d core) line = .e) ∧
    (∃ (s : State) (d line core req : Nat), chanHead s d line core false = some (.fwdGetx req)) ∧
    (∃ (s : State) (d line core : Nat), chanHead s d line core false = some .ownerData) ∧
    (∃ (s : State) (d line core : Nat), chanHead s d line core false = some .putack) ∧
    (∃ (s : State) (d line core : Nat) (st : L1St), let u := unitOf d core
      st = (if sget (s.core u).l1Req line = some .gets then .e else .m) ∧ chanHead s d line core false = some (.data true) ∧
      waitingStores ((setL1 (chanTake s d line core false) u line st).modCore u fun c =>
        { c with l1Req := sdel c.l1Req line }) u line = []) ∧
    (∃ (s : State) (d line core : Nat) (f : Flight), let u := unitOf d core
      let t := (setL1 (chanTake s d line core false) u line .m).modCore u fun c => { c with l1Req := sdel c.l1Req line }
      chanHead s d line core false = some .grant ∧ waitingStores t u line = [f] ∧ plainPa f.pa = true ∧ olderSame t f = false) ∧
    (∃ (s t : State) (d line core : Nat), exec (.invack d line core) s = .next t) :=
  ⟨⟨sMsg .inv, 0, 64, 0, rfl⟩, ⟨sDir {} [(0, 64, .fwdGets 3)] { l1 := [(64, .o)] }, 0, 64, 0, 3, rfl, rfl⟩,
    ⟨sDir {} [(0, 64, .fwdGets 3)] { l1 := [(64, .e)] }, 0, 64, 0, 3, rfl, rfl⟩,
    ⟨sDir { st := .fw } [(0, 64, .fwdGetx 3)] {}, 0, 64, 0, 3, rfl⟩, ⟨sMsg .ownerData, 0, 64, 0, rfl⟩, ⟨sMsg .putack, 0, 64, 0, rfl⟩,
    ⟨sDir {} [(0, 64, .data true)] { l1Req := [(64, .gets)] }, 0, 64, 0, .e, rfl, rfl, rfl⟩,
    ⟨sGranted, 0, 64, 0, _, rfl, rfl, by decide, rfl⟩,
    ⟨sDir { st := .sm, acks := 2 } [(0, 64, .invack)] {}, _, 0, 64, 0, rfl⟩⟩

def sFly (f : Flight) : State := { sIdle with flights := [f] }
/-- A request at the first row of DSM of die 0. -/
def dsmFly : Flight :=
  { id := 7, u := 64, slot := 0, kind := .dsm 1 0, pa := 0x4000000000, parts := [{ fibre := 0, addr := 0x4000000004, size := 4, data := [9, 0, 0, 0] }] }
def arrivedStore : Flight := { fly 64 .store [aPart] with arrived := true, t := 0 }
/-- Core 0 holds the line as M, and a store of it is in flight. -/
def sReady : State := { idle (grp f0) { l1 := [(64, .m)] } with flights := [fly 0 .store [aPart]] }
/-- Core 0 of die 1 runs a group. -/
def sRemote : State := { State.reset with cores := [(64, { slots := [(0, grp f0)] })] }
def sLease : State :=
  { idle (grp f0) { lcopies := [(64, { data := [], expiry := 5 })] } with dies := [(0, { Die.reset with time := 5 })] }

def hostStore (t : Nat) : Flight := { fly 64 .store [aPart] with arrived := true, t := t }
theorem witness_RequestsPerformed_leases :
    (∀ acq bad : Bool, ∃ (s : State) (d idx : Nat) (f : Flight), s.flights[idx]? = some f ∧ f.kind = .load acq ∧ paPkg f.pa = s.pkg ∧
      paDie f.pa = d ∧ dieOf f.u ≠ d ∧ (s.die d).alive = true ∧ olderSame s f = false ∧ plainPa f.pa = true ∧ f.lines = [f.pa / 128] ∧
      isPoisoned s (128 * (f.pa / 128)) = bad) ∧
    (∃ (s : State) (line : Nat) (f : Flight), f ∈ pendingAt s (paDie (128 * line)) (lineIx (128 * line)) ∧
      paDie f.pa = paDie (128 * line)) ∧
    (∃ (s : State) (u line : Nat) (x : LCopy), sget (s.core u).lcopies line = some x ∧ x.expiry ≤ s.now (dieOf u)) ∧
    (∃ (s : State) (u line : Nat) (x : LCopy), sget (s.core u).lcopies line = some x ∧ s.now (dieOf u) < x.expiry) :=
  ⟨fun acq bad => ⟨{ sFly (fly 64 (.load acq) [aPart]) with dies := [(0, { Die.reset with poison := if bad then [(64, 1)] else [] })] }, 0, 0,
      fly 64 (.load acq) [aPart], by
      cases acq <;> cases bad <;> exact ⟨rfl, rfl, rfl, rfl, by decide, rfl, rfl, by decide, by decide, by decide⟩⟩,
    ⟨sFly arrivedStore, 64, arrivedStore, by decide, rfl⟩, ⟨sLease, 0, 64, _, rfl, by decide⟩,
    ⟨{ sLease with dies := [] }, 0, 64, _, rfl, by decide⟩⟩

/-- The line of 0x2000 under a lease of die 0 until 100. -/
def heldDie : Die := { Die.reset with horizon := [(64, 100)] }
theorem witness_RequestsPerformed_stores :
    (∀ late : Bool, ∃ (s : State) (d idx : Nat) (f : Flight), s.flights[idx]? = some f ∧ f.arrived = false ∧ f.arrives = true ∧
      paPkg f.pa = s.pkg ∧ paDie f.pa = d ∧ (s.die d).alive = true ∧ olderSame s f = false ∧ earlierTicket s f = false ∧
      plainPa f.pa = true ∧ decide (s.now d < completionTime s d f.pa) = late ∧ pendingAt s d (lineIx f.pa) = []) ∧
    (∃ (s : State) (d idx : Nat) (f : Flight) (t : Nat), s.flights[idx]? = some f ∧ f.arrived = true ∧ (s.die d).alive = true ∧
      f.origin = .fibre ∧ paDie f.pa = d ∧ applyTime s d f = some t) ∧
    (∃ (s : State) (d idx : Nat) (f : Flight), s.flights[idx]? = some f ∧ f.arrived = true ∧ applyTime s d f = none) ∧
    (∃ (s : State) (d idx : Nat) (f : Flight), s.flights[idx]? = some f ∧ (s.die d).alive = true ∧ f.arrived = false ∧ f.arrives = false ∧ f.kind = .store ∧
      paPkg f.pa = s.pkg ∧ dieOf f.u = d ∧ paDie f.pa = d ∧ olderSame s f = false ∧ plainPa f.pa = true ∧ localReady s f = true) ∧
    (∃ (s : State) (d t : Nat) (f : Flight) (p : Part) (x : Fibre), f.kind = .store ∧ f.saved = none ∧ p ∈ f.parts ∧
      (performAt s d f t).fibre f.u f.slot p.fibre = some x ∧ dieOf f.u ≠ d) ∧
    (∃ (s : State) (d t : Nat) (f : Flight) (p : Part) (x : Fibre), f.kind = .store ∧ f.saved = none ∧ p ∈ f.parts ∧
      (performAt s d f t).fibre f.u f.slot p.fibre = some x ∧ dieOf f.u = d ∧ f.since ≤ horizonOf s f.pa + 4) ∧
    (∃ (s : State) (d t : Nat) (f : Flight) (p : Part) (x : Fibre), f.kind = .store ∧ f.saved = none ∧ p ∈ f.parts ∧
      (performAt s d f t).fibre f.u f.slot p.fibre = some x ∧ dieOf f.u = d ∧ horizonOf s f.pa + 4 < f.since) ∧
    (∃ (s : State) (f : Flight) (p : Part) (op ty : Nat) (sc : Bool), Memory.wf s.mem = true ∧ f.kind = .atomic op ty sc ∧ f.parts = [p] ∧
      isPoisoned s f.pa = false ∧ inDsmWindow p.addr = false ∧ plainPa p.addr = true) :=
  ⟨fun late => ⟨{ sFly (fly 64 .store [aPart]) with dies := if late then [(0, heldDie)] else [] }, 0, 0, fly 64 .store [aPart], rfl, rfl, rfl,
      rfl, rfl, by cases late <;> rfl, rfl, rfl, by decide, by cases late <;> decide, by cases late <;> decide⟩,
    ⟨sFly arrivedStore, 0, 0, arrivedStore, 0, rfl, rfl, rfl, rfl, rfl, rfl⟩,
    ⟨sFly (hostStore 9), 0, 0, hostStore 9, rfl, rfl, by decide⟩,
    ⟨sReady, 0, 0, _, rfl, rfl, rfl, rfl, rfl, rfl, rfl, rfl, rfl, by decide, by decide⟩,
    ⟨sRemote, 0, 3, fly 64 .store [aPart], aPart, _, rfl, rfl, by decide, rfl, by decide⟩,
    ⟨sReady, 0, 3, { fly 0 .store [aPart] with since := 4 }, aPart, _, rfl, rfl, by decide, rfl, rfl, by decide⟩,
    ⟨sReady, 0, 3, { fly 0 .store [aPart] with since := 5 }, aPart, _, rfl, rfl, by decide, rfl, rfl, by decide⟩,
    ⟨s0, fly 0 (.atomic 0 0 false) [aPart], aPart, 0, 0, false, rfl, rfl, rfl, rfl, by decide, by decide⟩⟩

/-- An atomic with .sc whose packet waits for its ticket, on a slot of which `n` atomics are unanswered. -/
def sTicket (n : Nat) : State :=
  { idle (grp f0) { slotSt := [(3, { atomics := List.replicate n { tag := 0, pkt := packetFrom s0 0 3 0 3, since := 0 } })] } with
    flights := [{ fly 0 (.atomic 0 0 true) [aPart] with packet := some (3, packetFrom s0 0 3 0 3) }] }
theorem witness_RequestsPerformed_others :
    (∃ (s : State) (idx op ty : Nat) (f : Flight), s.flights[idx]? = some f ∧ f.kind = .atomic op ty true ∧ f.ticket = none ∧
      (s.die s.master).alive = true ∧ f.packet = none) ∧
    (∃ (s : State) (idx op ty n : Nat) (p : Packet) (f : Flight), s.flights[idx]? = some f ∧ f.kind = .atomic op ty true ∧ f.ticket = none ∧
      (s.die s.master).alive = true ∧ f.packet = some (n, p) ∧ (slotSt s f.u n).atomics.length < 64) ∧
    (∃ (s : State) (idx op ty n : Nat) (p : Packet) (f : Flight), s.flights[idx]? = some f ∧ f.kind = .atomic op ty true ∧ f.ticket = none ∧
      (s.die s.master).alive = true ∧ f.packet = some (n, p) ∧ 64 ≤ (slotSt s f.u n).atomics.length) ∧
    (∃ (s : State) (d idx op ty : Nat) (f : Flight), s.flights[idx]? = some f ∧ f.kind = .dsm op ty ∧ paDie f.pa = d ∧
      (s.die d).alive = true ∧ earlierAtBank s f = false ∧ ownerLost s f = false ∧ op ≠ 0 ∧ dieOf f.u ≠ d) ∧
    (∃ (s : State) (d idx op ty : Nat) (f : Flight), s.flights[idx]? = some f ∧ f.kind = .dsm op ty ∧ paDie f.pa = d ∧
      (s.die d).alive = true ∧ earlierAtBank s f = false ∧ ownerLost s f = false ∧ dieOf f.u = d) ∧
    (∀ late : Bool, ∃ (s : State) (d off size : Nat), 0 < size ∧ size ≤ 64 ∧ off % 128 + size ≤ 128 ∧ off + size ≤ 4 * stackSize ∧
      (s.die d).alive = true ∧ stepPassed s d 7 = true ∧ clamped s d (stackIsland off) = false ∧
      decide (s.now d < completionTime s d (mkPa s.pkg d off)) = late ∧ pendingAt s d (lineIx (mkPa s.pkg d off)) = []) :=
  ⟨⟨sFly (fly 64 (.atomic 0 0 true) [aPart]), 0, 0, 0, _, rfl, rfl, rfl, rfl, rfl⟩,
    ⟨sTicket 63, 0, 0, 0, 3, _, _, rfl, rfl, rfl, rfl, rfl, by decide⟩, ⟨sTicket 64, 0, 0, 0, 3, _, _, rfl, rfl, rfl, rfl, rfl, by decide⟩,
    ⟨sFly dsmFly, 0, 0, 1, 0, _, rfl, rfl, by decide, rfl, rfl, rfl, by decide, by decide⟩,
    ⟨sFly { dsmFly with u := 0 }, 0, 0, 1, 0, _, rfl, rfl, by decide, rfl, rfl, rfl, by decide⟩,
    fun late => by
      cases late
      · exact ⟨s0, 0, 4 * stackSize - 64, 64, by decide, by decide, by decide, by decide, rfl, by decide, by decide, by decide, by decide⟩
      · exact ⟨{ s0 with dies := [(0, heldDie)] }, 0, 0x2000, 64, by decide, by decide, by decide, by decide, rfl, by decide, by decide,
          by decide, by decide⟩⟩
/-! ## Engines, tasks and launches -/

/-- A copy of 128 bytes from 0x2000, in a space, and core 0 with it, locks and open circular buffers. -/
def copyOf (space : Nat) (dstPa : Nat) (registered claimed : Bool) : Copy :=
  { id := 2, slot := 0, domain := 0, n := 128, space := space, registered := registered, locks := [(0, false, [64])],
    lanes := [{ fibre := 0, src := if space = 0 then 0 else 0x2000, dst := 256, ctr := 0, srcPa := if space = 0 then 0 else 0x2000,
                dstPa := dstPa, claimed := claimed }] }
def laneOf (x : Copy) : CopyLane := x.lanes.headD { fibre := 0, src := 0, dst := 0, ctr := 0 }
def gCb (free : Nat) : Machine.Group := { grp fCp with scratch := [(0, 128), (4, 128), (8, 1)] ++ (if free = 0 then [] else [(12, 1)]) }
def sCopy (x : Copy) (ls : List Lock) (free : Nat) (os : List CbOpen) : State :=
  idle (gCb free) { copies := [x], locks := ls, cbOpen := os }
def fullLock : Lock := { owner := 1, domain := 0, slot := 0, space := 0, dest := true, lines := [9], entries := 4 }
def openAt (pos : Nat) : CbOpen := { slot := 0, block := 0, base := 128, size := 128, pos := pos }

/-- A copy whose only lane has its bytes written with time 9, and a die that has lost die 1. -/
def writtenCopy : Copy := { copyOf 0 0x3000 true true with lanes := [{ laneOf (copyOf 0 0x3000 true true) with written := some 9 }] }
/-- A copy with lanes of two lines. -/
def twoLines : Copy := { copyOf 1 0 true false with lanes := [laneOf (copyOf 1 0 true false), { laneOf (copyOf 1 0 true false) with src := 0x3000 }] }
def deafDie : Die := { Die.reset with ctl := sset Die.reset.ctl (0x6000800040 / 8) 2, judged := true }
theorem witness_EnginesComplete_copies :
    (∃ (s : State) (u idx : Nat) (x : Copy), ((s.core u).copies.filter fun x => !x.registered)[idx]? = some x ∧
      lockShort s u x.domain x.locks (dsmLines x) = true) ∧
    (∃ (s : State) (u idx : Nat) (x : Copy), ((s.core u).copies.filter fun x => !x.registered)[idx]? = some x ∧
      lockShort s u x.domain x.locks (dsmLines x) = false ∧ ∀ l ∈ x.lanes, laneClosed s u x l = false ∧ l.dstSlot = none) ∧
    (∃ (s : State) (u idx i a : Nat) (x : Copy) (l : CopyLane), (s.die (dieOf u)).alive = true ∧
      (openLanes (s.core u))[idx]? = some (x, i, l) ∧ laneLost s u x l = some a) ∧
    (∃ (s : State) (u idx i T : Nat) (x : Copy) (l : CopyLane), (s.die (dieOf u)).alive = true ∧
      (openLanes (s.core u))[idx]? = some (x, i, l) ∧ laneLost s u x l = none ∧ l.written = some T) ∧
    (∃ (s : State) (u idx i : Nat) (x : Copy) (l : CopyLane), (s.die (dieOf u)).alive = true ∧
      (openLanes (s.core u))[idx]? = some (x, i, l) ∧ laneLost s u x l = none ∧ l.written = none ∧ l.sent = false ∧ l.failed = false ∧
      x.space ≠ 3) ∧
    (∀ sp : Nat, sp = 0 ∨ sp = 1 ∨ sp = 3 → ∃ (s : State) (u : Nat) (x : Copy) (l : CopyLane) (bytes : List Byte) (g : Machine.Group),
      (s.die (dieOf u)).alive = true ∧ (s.core u).copies = [x] ∧ x.lanes = [l] ∧ (x.space ≠ 0 → paPkg l.srcPa = s.pkg) ∧
      x.registered = true ∧ l.done = false ∧ l.failed = false ∧ l.sent = false ∧ l.written = none ∧ l.data = none ∧ l.fetch = none ∧
      l.claimed = true ∧ laneLost s u x l = none ∧ sourceBusy s u x l = false ∧ sourceBytes s u x l = some bytes ∧ s.group u x.slot = some g ∧
      x.space = sp ∧ paPkg l.dstPa = s.pkg ∧ plainPa l.dstPa = true ∧
      completionTime s (paDie l.dstPa) l.dstPa ≤ s.now (paDie l.dstPa) ∧ pendingAt s (paDie l.dstPa) (lineIx l.dstPa) = []) ∧
    (∃ (s : State) (u : Nat) (x : Copy) (l : CopyLane) (bytes : List Byte) (g : Machine.Group), (s.die (dieOf u)).alive = true ∧ (s.core u).copies = [x] ∧ x.lanes = [l] ∧
      (x.space ≠ 0 → paPkg l.srcPa = s.pkg) ∧
      x.registered = true ∧ l.done = false ∧ l.failed = false ∧ l.sent = false ∧ l.written = none ∧ l.data = none ∧ l.fetch = none ∧
      l.claimed = true ∧ laneLost s u x l = none ∧ sourceBusy s u x l = false ∧ sourceBytes s u x l = some bytes ∧ s.group u x.slot = some g ∧
      x.space = 0 ∧ s.now (paDie l.dstPa) < completionTime s (paDie l.dstPa) l.dstPa) ∧
    (∃ (x : Copy) (l : CopyLane), x.space ≠ 3 ∧ l.failed = false ∧ l.ctr ≠ 0xFFFFFFFF) ∧
    (∃ (s : State) (u idx i : Nat) (x : Copy) (l : CopyLane), (openLanes (s.core u))[idx]? = some (x, i, l) ∧ isPoisoned s l.srcPa = false) ∧
    (∃ (s : State) (u idx i : Nat) (x : Copy) (l : CopyLane), (openLanes (s.core u))[idx]? = some (x, i, l) ∧ x.space ≠ 0 ∧ l.data = none ∧
      l.fetch = none ∧ l.failed = false ∧ isPoisoned s l.srcPa = true) ∧
    ∃ (s : State) (u : Nat) (x : Copy) (i : Nat) (l : CopyLane), (s.core u).copies = [x] ∧ x.lanes[i]? = some l ∧ x.space ≠ 3 ∧ l.data = none ∧
      l.done = false ∧ l.failed = false ∧ l.epoch = none ∧ i < 32 ∧
      ∃ j m, j ≠ i ∧ x.lanes[j]? = some m ∧ m.done = false ∧ lineOf m.src ≠ lineOf l.src :=
  ⟨⟨sCopy (copyOf 0 0 false false) [fullLock] 0 [], 0, 0, _, rfl, rfl⟩, ⟨sCopy (copyOf 0 0 false false) [] 0 [], 0, 0, _, rfl, rfl, by decide⟩,
    ⟨{ sCopy (copyOf 0 0x8000003000 true true) [] 0 [] with dies := [(0, deafDie)] }, 0, 0, 0, 256, copyOf 0 0x8000003000 true true,
      laneOf (copyOf 0 0x8000003000 true true), rfl, rfl, by decide⟩,
    ⟨sCopy writtenCopy [] 0 [], 0, 0, 0, 9, writtenCopy, laneOf writtenCopy, rfl, rfl, by decide, rfl⟩,
    ⟨sCopy (copyOf 1 0 true false) [] 0 [], 0, 0, 0, copyOf 1 0 true false, _, rfl, rfl, by decide, rfl, rfl, rfl, by decide⟩,
    by
      intro sp hs
      refine ⟨sCopy (copyOf sp 0x3000 true true) [] 0 [], 0, copyOf sp 0x3000 true true, laneOf (copyOf sp 0x3000 true true), ?_⟩
      rcases hs with rfl | rfl | rfl <;>
        exact ⟨_, _, rfl, rfl, rfl, by decide, rfl, rfl, rfl, rfl, rfl, rfl, rfl, rfl, by decide, by decide, rfl, rfl, rfl, rfl, by decide, by decide, by decide⟩,
    ⟨{ sCopy (copyOf 0 0x2000 true true) [] 0 [] with dies := [(0, heldDie)] }, 0, copyOf 0 0x2000 true true,
      laneOf (copyOf 0 0x2000 true true), _, _, rfl, rfl, rfl, by decide, rfl, rfl, rfl, rfl, rfl, rfl, rfl, rfl, by decide, by decide, rfl, rfl, rfl, by decide⟩,
    ⟨copyOf 1 0 true false, laneOf (copyOf 1 0 true false), by decide, rfl, by decide⟩,
    ⟨sCopy (copyOf 1 0 true false) [] 0 [], 0, 0, 0, copyOf 1 0 true false, _, rfl, rfl⟩,
    ⟨{ sCopy (copyOf 1 0 true false) [] 0 [] with dies := [(0, { Die.reset with poison := [(64, 5)] })] }, 0, 0, 0, copyOf 1 0 true false, _, rfl,
      by decide, rfl, rfl, rfl, by decide⟩,
    ⟨sCopy twoLines [] 0 [], 0, twoLines, 0, _, rfl, rfl, by decide, rfl, rfl, rfl, rfl, by decide, 1, _, by decide, rfl, rfl, by decide⟩⟩

theorem witness_EnginesComplete_buffers :
    (∃ (s : State) (u idx : Nat) (e : Copy × Nat × CopyLane) (b : CbOpen), (unclaimed (s.core u))[idx]? = some e ∧
      (unclaimed (s.core u)).any (claimBefore e) = false ∧ cbOpenOf s u e.1.slot e.2.2.ctr = some b ∧ b.pos < b.size) ∧
    (∃ (s : State) (u idx : Nat) (e : Copy × Nat × CopyLane) (b : CbOpen), (unclaimed (s.core u))[idx]? = some e ∧
      (unclaimed (s.core u)).any (claimBefore e) = false ∧ cbOpenOf s u e.1.slot e.2.2.ctr = some b ∧ b.size ≤ b.pos) ∧
    (∃ (s : State) (u idx : Nat) (e : Copy × Nat × CopyLane) (g : Machine.Group), (unclaimed (s.core u))[idx]? = some e ∧
      (unclaimed (s.core u)).any (claimBefore e) = false ∧ cbOpenOf s u e.1.slot e.2.2.ctr = none ∧ s.group u e.1.slot = some g ∧
      (cbBlock g e.2.2.ctr).free = 0) ∧
    (∃ (s : State) (u slot block : Nat) (b : CbOpen) (g : Machine.Group), cbOpenOf s u slot block = some b ∧ s.group u slot = some g ∧
      b.pos < b.size) ∧
    (∃ (s : State) (u slot block : Nat) (b : CbOpen) (g : Machine.Group), cbOpenOf s u slot block = some b ∧ s.group u slot = some g ∧
      b.size ≤ b.pos ∧ b.stuck = false ∧ ((openLanes (s.core u)).any fun e => e.1.space == 3 && e.1.slot == slot &&
        e.2.2.ctr == block && e.2.2.claimed) = false ∧ (cbBlock g block).filled < 65535) :=
  ⟨⟨sCopy (copyOf 3 0 true false) [] 0 [openAt 0], 0, 0, _, _, rfl, rfl, rfl, by decide⟩,
    ⟨sCopy (copyOf 3 0 true false) [] 0 [openAt 128], 0, 0, _, _, rfl, rfl, rfl, by decide⟩,
    ⟨sCopy (copyOf 3 0 true false) [] 0 [], 0, 0, _, _, rfl, rfl, rfl, rfl, rfl⟩,
    ⟨sCopy (copyOf 3 0 true false) [] 0 [openAt 0], 0, 0, 0, _, _, rfl, rfl, by decide⟩,
    ⟨sCopy (copyOf 3 0 true false) [] 0 [openAt 128], 0, 0, 0, _, _, rfl, rfl, by decide, rfl, rfl, by decide⟩⟩

/-- An entry of the unit or of a transfer of TC1, and core 0 with it running or under way. -/
def entryFor (op : MOp) (md : Nat) (started : Bool) : MEntry :=
  { id := 2, slot := 0, op := op, ac := 0, t1 := 1, t2 := 1, fa := 0, fb := 0, md := md, tc1 := 0, tc2 := 0, conv := 4, started := started }
def sRun (m : MEntry) : State := idle (grp f0) { running := [m] }
def sMove (m : MEntry) (t : Nat) : State := { idle (grp f0) { transfers := [m] } with dies := [(0, { Die.reset with time := t })] }
/-- One byte of a tile row that a TST stores. -/
def linePart (a : Nat) : Part := { fibre := 0, addr := a, size := 1, data := [7] }
set_option maxRecDepth 8000 in
theorem witness_EnginesComplete_matrix :
    (∃ (s : State) (u : Nat) (n : MEntry) (q : List MEntry), (s.core u).queue = n :: q) ∧
    (∃ (s : State) (u idx : Nat) (m : MEntry) (g : Machine.Group), s.group u m.slot = some g ∧
      ((s.core u).running.filter fun m => !(m.op == .adrain && drainScratch m.md))[idx]? = some m ∧ waitsDone (s.core u) m = false) ∧
    (∃ (s : State) (u idx : Nat) (m : MEntry) (g : Machine.Group), s.group u m.slot = some g ∧
      ((s.core u).running.filter fun m => !(m.op == .adrain && drainScratch m.md))[idx]? = some m ∧ waitsDone (s.core u) m = true) ∧
    (∃ (s : State) (u idx i : Nat) (m : MEntry) (g : Machine.Group) (f : Fibre), s.group u m.slot = some g ∧
      ((s.core u).running.filter fun m => !(m.op == .adrain && drainScratch m.md))[idx]? = some m ∧ waitsDone (s.core u) m = true ∧
      i ∈ m.members ∧ sget g.fibres i = some f ∧ f.gate = none) ∧
    (∃ (s : State) (u idx : Nat) (m : MEntry) (g : Machine.Group), s.group u m.slot = some g ∧
      ((s.core u).running.filter fun m => m.op == .adrain && drainScratch m.md)[idx]? = some m ∧ m.fa ≤ 10) ∧
    (∃ (s : State) (u idx : Nat) (m : MEntry), ((s.core u).transfers.filter fun m => m.op == .tld)[idx]? = some m ∧
      waitsDone (s.core u) m = false) ∧
    (∃ (s : State) (u idx : Nat) (m : MEntry) (g : Machine.Group) (r : TileRow),
      ((s.core u).transfers.filter fun m => m.op == .tld)[idx]? = some m ∧ waitsDone (s.core u) m = true ∧ rowsBusy s u m = false ∧
      m.fa = 0 ∧ m.md.testBit 0 = true ∧ m.rows = [r] ∧ s.group u m.slot = some g) ∧
    (∃ (s : State) (u idx : Nat) (m : MEntry), (s.die (dieOf u)).alive = true ∧
      ((s.core u).transfers.filter fun m => m.op == .tst)[idx]? = some m ∧ m.started = true) ∧
    (∃ (s : State) (u idx : Nat) (m : MEntry) (g : Machine.Group), (s.die (dieOf u)).alive = true ∧
      ((s.core u).transfers.filter fun m => m.op == .tst)[idx]? = some m ∧
      m.started = false ∧ waitsDone (s.core u) m = true ∧ rowsBusy s u m = false ∧ s.group u m.slot = some g ∧ m.md.testBit 0 = true) ∧
    (∃ (s : State) (u idx : Nat) (m : MEntry) (g : Machine.Group), (s.die (dieOf u)).alive = true ∧
      ((s.core u).transfers.filter fun m => m.op == .tst)[idx]? = some m ∧
      m.started = false ∧ waitsDone (s.core u) m = true ∧ rowsBusy s u m = false ∧ s.group u m.slot = some g ∧
      m.md.testBit 0 = false) ∧
    (∃ (s : State) (u idx : Nat) (m : MEntry), (s.die (dieOf u)).alive = true ∧
      ((s.core u).transfers.filter fun m => m.op == .tst)[idx]? = some m ∧ m.started = true ∧
      m.todo = [] ∧ (s.core u).transfers = [m] ∧ m.t ≠ 0 ∧ s.now (dieOf u) ≤ m.t + 4) ∧
    (∃ (s : State) (u idx : Nat) (m : MEntry), (s.die (dieOf u)).alive = true ∧
      ((s.core u).transfers.filter fun m => m.op == .tst)[idx]? = some m ∧ m.started = true ∧
      m.todo = [] ∧ (s.core u).transfers = [m] ∧ (∀ f ∈ s.flights, f.origin ≠ .tst m.id) ∧ m.t + 4 < s.now (dieOf u)) ∧
    (∃ (s : State) (u n : Nat) (q : Part) (ps : List Part), slotValid s u n = true ∧
      allow s u n < packetCharge (((q :: ps).map fun p : Part => p.size).sum) ∧ (dieLost s (dieOf u)).testBit (paDie q.addr) = false) ∧
    ∀ late : Bool, ∃ (s : State) (u : Nat) (q : Part), plainPa q.addr = true ∧ q.addr % 128 + q.data.length ≤ 128 ∧
      (dieLost s (dieOf u)).testBit (paDie q.addr) = false ∧
      decide (s.now (paDie q.addr) < completionTime s (paDie q.addr) q.addr) = late ∧ pendingAt s (paDie q.addr) (lineIx q.addr) = [] :=
  ⟨⟨sQueue 8, 0, _, _, rfl⟩, ⟨sRun { entryFor .mma 0 true with waits := [2] }, 0, 0, _, _, rfl, rfl, rfl⟩,
    ⟨sRun (entryFor .azero 1 true), 0, 0, _, _, rfl, rfl, rfl⟩,
    ⟨sRun { entryFor .mma 0 true with members := [0] }, 0, 0, 0, { entryFor .mma 0 true with members := [0] }, _, _, rfl, rfl, rfl, by decide, rfl, rfl⟩,
    ⟨sRun (entryFor .adrain 16 true), 0, 0, _, _, rfl, rfl, by decide⟩,
    ⟨sMove { entryFor .tld 1 false with waits := [2] } 0, 0, 0, _, rfl, rfl⟩,
    ⟨sMove { entryFor .tld 1 false with rows := [{ va := 0, pa := 0 }] } 0, 0, 0, _, _, _, rfl, rfl, rfl, rfl, rfl, rfl, rfl⟩,
    ⟨sMove (entryFor .tst 0 true) 5, 0, 0, _, rfl, rfl, rfl⟩, ⟨sMove (entryFor .tst 1 false) 0, 0, 0, _, _, rfl, rfl, rfl, rfl, rfl, rfl, rfl⟩,
    ⟨sMove { entryFor .tst 0 false with rows := [{ va := 0x2000, pa := 0x2000 }] } 0, 0, 0,
      { entryFor .tst 0 false with rows := [{ va := 0x2000, pa := 0x2000 }] }, grp f0, rfl, rfl, rfl, rfl, by decide, rfl, rfl⟩,
    ⟨sMove { entryFor .tst 0 true with t := 3 } 7, 0, 0, { entryFor .tst 0 true with t := 3 }, rfl, rfl, rfl, rfl, rfl, by decide, by decide⟩,
    ⟨sMove { entryFor .tst 0 true with t := 3 } 8, 0, 0, { entryFor .tst 0 true with t := 3 }, rfl, rfl, rfl, rfl, rfl, by decide, by decide⟩,
    ⟨sFar, 0, 3, linePart 0x8000002000, [], by decide, by decide, by decide⟩,
    fun late => by cases late; exacts [⟨s0, 0, linePart 0x2000, by decide, by decide, by decide, by decide, by decide⟩,
      ⟨{ s0 with dies := [(0, heldDie)] }, 0, linePart 0x2000, by decide, by decide, by decide, by decide, by decide⟩]⟩

/-- Elements whose value is 1, and products 1, +∞, −∞ and NaN. -/
def one : Val × Val := (.fin false 1 0, .fin false 1 0)
theorem bfOne : IsRat (value fmtBF16 0x3F80) false 1 := ⟨128, -7, by decide, by norm_num [ratOf]⟩
theorem witness_EnginesComplete_arithmetic :
    (∃ (fmt k : Nat), 2 ≤ fmt ∧ fmt ≤ 10 ∧ k < tileK fmt) ∧ (∃ (tc : DWord) (f : Fmt), pageFmt (tcFmt tc) = some f) ∧
    (∃ (xys : List (Val × Val)) (ba bb : Nat) (ps : List ℚ) (na nb : Bool) (ra rb : ℚ),
      (xys.length = ps.length ∧ ∀ e ∈ xys.zip ps, ∃ n, IsRat (e.1.1.mul e.1.2) n e.2) ∧ IsRat (value fmtBF16 ba) na ra ∧
      IsRat (value fmtBF16 bb) nb rb) ∧
    (∃ xys : List (Val × Val), ∃ e ∈ xys, (e.1.mul e.2).isNan = true) ∧
    (∃ xys : List (Val × Val), (∃ e ∈ xys, e.1.mul e.2 = .inf true) ∧ ∃ e ∈ xys, e.1.mul e.2 = .inf false) ∧
    (∃ (xys : List (Val × Val)) (ba bb : Nat) (n : Bool) (ra rb : ℚ), 0 < ra ∧ 0 < rb ∧ IsRat (value fmtBF16 ba) false ra ∧
      IsRat (value fmtBF16 bb) false rb ∧ (∃ e ∈ xys, e.1.mul e.2 = .inf n) ∧
      ∀ e ∈ xys, (e.1.mul e.2).isNan = false ∧ e.1.mul e.2 ≠ .inf (!n)) ∧
    (∃ (fa : Nat) (f : Fmt), fa ≠ 1 ∧ pageFmt fa = some f) ∧ (∃ md : Nat, md.testBit 3 = false) ∧ ∃ md : Nat, md.testBit 3 = true :=
  ⟨⟨8, 127, by decide, by decide, by decide⟩, ⟨2, fmtBF16, by decide⟩,
    ⟨[one], 0x3F80, 0x3F80, [1], false, false, 1, 1, ⟨rfl, by
      intro e he
      obtain rfl : e = (one, 1) := by simpa using he
      exact ⟨false, 1, 0, rfl, by norm_num [ratOf]⟩⟩, bfOne, bfOne⟩,
    ⟨[(.inf true, .fin false 0 0)], _, List.mem_singleton_self _, rfl⟩,
    ⟨[(.inf true, .fin true 1 0), (.inf true, .fin false 1 0)], ⟨_, List.mem_cons_of_mem _ (List.mem_singleton_self _), rfl⟩, _,
      List.mem_cons_self, rfl⟩,
    ⟨[(.inf true, .fin true 1 0), one], 0x3F80, 0x3F80, false, 1, 1, by norm_num, by norm_num, bfOne, bfOne, ⟨_, List.mem_cons_self, rfl⟩, by
      decide⟩,
    ⟨2, fmtBF16, by decide, by decide⟩, ⟨0, by decide⟩, ⟨8, by decide⟩⟩
/-- A die whose domain 0 is VALID with eight fibres a gang, and a set of core 0 with room for one group of `hdr`. -/
def admitDie : Die :=
  { Die.reset with
    ctl := sset (sset Die.reset.ctl (domBase 0 / 8) 1) ((domBase 0 + 48) / 8) 0x80000 }
def aDpart : Dpart := { reg := 0x8000000000000008, ext := BitVec.ofNat 256 (3 + 3 * 2 ^ 64 + 2 ^ 96 + 2 * 2 ^ 144) }
def rTask : Task := { taskIn .ready false with kind := 0 }
def sAdmit (k : Task) : State :=
  { State.reset with
    dies := (List.range 8).map fun d => (d, if d = 0 then { admitDie with time := 100000 } else Die.reset)
    cores := [(0, { dparts := [(0, aDpart)] })]
    tasks := [(3, k)] }
/-- The task with nine fibres a group, for which nothing has room, and the one that reserves core 0. -/
def bigTask : Task := { rTask with hdr := { hdr with kfibs := 9 } }
def resTask : Task := { rTask with st := .reserving, chosen := [0] }
/-- A launch context 0 that watches slot 5 of VF 0 with a ring of `depth`. -/
def sLaunch (depth : Nat) : State :=
  { State.reset with
    dies := [(0, { Die.reset with
                   ctl := sset (sset Die.reset.ctl (0x6000200000 / 8) 0x8000000000050000) (0x6000200008 / 8) (BitVec.ofNat 64 (depth * 1024)) })] }
def sTask (k : Task) (ks : List (Nat × Task)) : State := { sCount 1 with tasks := (3, k) :: ks }
def hasValue {α : Type} : Option α → Bool
  | some _ => true
  | none => false
theorem of_not_some {α : Type} {x : Option α} (h : hasValue x = false) : x = none := by
  cases x with
  | some v => cases h
  | none => rfl
theorem of_some {α : Type} {x : Option α} (h : hasValue x = true) : ∃ v, x = some v := by
  cases x with
  | some v => exact ⟨v, rfl⟩
  | none => cases h

set_option maxRecDepth 20000 in
theorem witness_TasksAndLaunches_entry :
    (∃ (s : State) (vf : Nat), vf < 256 ∧ stepPassed s (vf / 32) 7 = true) ∧
    (∃ (s : State) (vf slot x : Nat), watchingCtx s vf slot = some x ∧ ctxField s x 95 85 < ctxField s x 84 74) ∧
    (∃ (s : State) (d t : Nat) (k : Task), firstTask (waitingTasks s d true) = some (t, k) ∧ dieFull s d = false ∧ k.hdrRead = true) ∧
    (∃ (s : State) (d t : Nat) (k : Task), firstTask (waitingTasks s d false) = some (t, k) ∧ dieFull s d = false ∧
      waitingTasks s d true = []) ∧
    (∃ (s : State) (d : Nat), waitingTasks s d true ≠ []) ∧
    (∃ (s : State) (t : Nat) (k : Task), sget s.tasks t = some k ∧ noCounter k.waitc = true) ∧
    (∃ (s : State) (t : Nat) (k : Task), sget s.tasks t = some k ∧ noCounter k.waitc = false ∧
      (counterOf s (ctrDie k.waitc) (ctrId k.waitc)).count ≠ 0) :=
  ⟨⟨s0, 255, by decide, by decide⟩, ⟨sLaunch 1, 0, 5, 0, by decide, by decide⟩,
    ⟨sTask { taskIn .pendingLaunch false with hdrRead := true } [], 0, 3, _, rfl, by decide, rfl⟩, ⟨sTask (taskIn .waitingRoom false) [], 0, 3, _, rfl, by decide, rfl⟩,
    ⟨sTask (taskIn .pendingLaunch false) [], 0, by decide⟩, ⟨sTask { taskIn .waitingRoom false with waitc := 0xFFFFFFFF } [], 3, _, rfl, by decide⟩,
    ⟨sTask (taskIn .waitingRoom false) [], 3, _, rfl, by decide, by decide⟩⟩

set_option maxRecDepth 20000 in
theorem witness_TasksAndLaunches_dispatch :
    (∃ (s : State) (u t : Nat) (k : Task), pickTask s u = some (t, k) ∧ outranked s u t k = false ∧ takerOf s t = some u ∧
      sget s.tasks t = some k) ∧
    (∃ (s : State) (u : Nat), pickTask s u = none) ∧
    (∃ (s : State) (u t : Nat) (k : Task), k.restart = false ∧ planFor s t k u = none) ∧
    (∃ (s : State) (t : Nat) (k : Task), sget s.tasks t = some k ∧ k.hintAt = some 7) ∧
    (∃ (s : State) (t f : Nat) (k : Task), sget s.tasks t = some k ∧ k.st = .ready ∧ k.failedAt = some f ∧
      f + 64000 ≤ s.now (queueDie k.queue) ∧ reservingTask s (queuePart s k.queue) = none ∧
      shapeRefused s (queuePart s k.queue) k.domain k.hdr = false ∧
      let l := chooseCores s (queuePart s k.queue) k.domain k.hdr (tierOrder k.failedCore (takingCores s (queuePart s k.queue) k)) []
      l.head? = some k.failedCore ∧ fitsFree s l (queuePart s k.queue) k.domain k.hdr = true) ∧
    (∃ (s s2 : State) (t u : Nat) (us : List Nat) (k : Task) (p : Plan), sget s.tasks t = some k ∧ k.st = .reserving ∧
      k.chosen = u :: us ∧ shapeRefused s (queuePart s k.queue) k.domain k.hdr = false ∧ s.checkpoint = false ∧
      domainValid s (dieOf u) k.domain = true ∧ (∀ v ∈ k.chosen, climbing s v k.domain = false ∧ coreEnabled s v = true ∧ unitPart s v = queuePart s k.queue) ∧ planOn s (queuePart s k.queue) k k.chosen [] = some p ∧ admitTask s u t k p = some s2) :=
  have ⟨p, hp⟩ := of_some (show hasValue (planOn (sAdmit resTask) 0 resTask [0] []) = true by decide)
  have ⟨s2, h2⟩ := of_some (show hasValue ((planOn (sAdmit resTask) 0 resTask [0] []).bind (admitTask (sAdmit resTask) 0 3 resTask)) = true by decide)
  ⟨⟨sAdmit rTask, 0, 3, rTask, by decide, by decide, by decide, rfl⟩, ⟨sAdmit rTask, 1, by decide⟩,
    ⟨sAdmit bigTask, 0, 3, bigTask, rfl, of_not_some (by decide)⟩, ⟨sAdmit { rTask with hintAt := some 7 }, 3, _, rfl, rfl⟩,
    ⟨sAdmit { rTask with failedAt := some 36000 }, 3, 36000, _, rfl, rfl, rfl, by decide, by decide, by decide, by decide, by decide⟩,
    ⟨sAdmit resTask, s2, 3, 0, [], resTask, p, rfl, rfl, rfl, by decide, rfl, by decide, by decide, hp, by rw [hp] at h2; exact h2⟩⟩

set_option maxRecDepth 20000 in
theorem witness_TasksAndLaunches_ends :
    (∃ (s : State) (t : Nat) (k : Task), sget s.tasks t = some k ∧ k.st = .draining ∧ drainDone s k = true ∧ noCounter k.donec = true) ∧
    (∃ (s : State) (t : Nat) (k : Task), sget s.tasks t = some k ∧ k.st = .draining ∧ drainDone s k = true ∧ noCounter k.donec = false) ∧
    (∃ (s : State) (t : Nat) (k : Task), sget s.tasks t = some k ∧ k.st = .draining ∧ drainDone s k = false) ∧
    (∃ (s : State) (u slot t : Nat) (g : Machine.Group), s.group u slot = some g ∧ g.st = .deferred t) ∧
    (∃ (s : State) (u slot : Nat) (g : Machine.Group), s.group u slot = some g ∧ g.st = .ending ∧ g.task = none ∧
      engineBusy s u slot = false) ∧
    (∃ (s : State) (u slot : Nat) (g : Machine.Group), s.group u slot = some g ∧ engineBusy s u slot = true) ∧
    (∃ (s : State) (n : Nat) (l : Launch), sget s.launches n = some l ∧ l.complete = true) ∧
    (∃ (s : State) (n : Nat) (l : Launch), sget s.launches n = some l ∧
      ∃ k ∈ (s.tasks.filter fun e => e.2.launch == n).map (·.2), k.over = false) ∧
    (∃ (s : State) (n : Nat) (l : Launch), sget s.launches n = some l ∧ l.complete = false ∧
      let ms := (s.tasks.filter fun e => e.2.launch == n).map (·.2)
      ms ≠ [] ∧ (∀ k ∈ ms, k.over = true) ∧ (∀ k ∈ ms, ∀ d, d < 8 → (s.die d).alive = true → k.wct + 4 < s.now d) ∧
        (∀ d, d < 8 → (s.die d).alive = true → 4 < s.now d) ∧ stepPassed s (l.domain / 32) 7 = true) :=
  ⟨⟨sTask (taskIn .draining true) [], 3, _, rfl, rfl, by decide, by decide⟩,
    ⟨sTask { taskIn .draining true with donec := 7 } [], 3, _, rfl, rfl, by decide, by decide⟩,
    ⟨sTask { taskIn .draining true with wct := 1, dies := 1 } [], 3, _, rfl, rfl, by decide⟩,
    ⟨idle { grp f0 with st := .deferred 5 } {}, 0, 0, 5, _, rfl, rfl⟩, ⟨idle { grp f0 with st := .ending } {}, 0, 0, _, rfl, rfl, rfl, rfl⟩,
    ⟨sReturn .ready, 0, 0, _, rfl, rfl⟩,
    ⟨{ s0 with launches := [(1, { ctx := 0, seq := 0, domain := 0, root := 3, complete := true })] }, 1, _, rfl, rfl⟩,
    ⟨{ sTask (taskIn .ready false) [] with launches := [(0, { ctx := 0, seq := 0, domain := 0, root := 3 })] }, 0, _, rfl,
      _, List.mem_cons_self, rfl⟩,
    ⟨{ sTask (taskIn .done false) [] with
        launches := [(0, { ctx := 0, seq := 0, domain := 0, root := 3 })]
        dies := (List.range 8).map fun d => (d, { Die.reset with time := 5 }) }, 0, _, rfl, rfl, by decide, by decide, by decide, by decide, by decide⟩⟩
/-! ## Supervisors' answers, shoot-downs, dies and power -/

/-- The package with one die changed. -/
def withDie (x : Die) : State := { sIdle with dies := (List.range 8).map fun d => (d, if d = 0 then x else Die.reset) }
def sDie (x : Die) : State := { sIdle with dies := [(0, x)] }
/-- A start block of supervisor core 0 that names the header at physical address 0x3000, of one group with one fibre. -/
def sStart : State :=
  { withDie { Die.reset with ctl := sset (sset Die.reset.ctl (startOff 0 / 8) 0x3000) ((startOff 0 + 16) / 8) 0x200000000 } with
    mem := [(0x300C, 1), (0x300E, 1), (0x3010, 8)] }
/-- An open record of a fault of fibre 0. -/
def aRecord : Record := { tag := 7, fcause := 0, who := 0, faddr := 0, fpc := 0x1000, domain := 0, fibres := [0] }
def sRecord : State := { idle (grp { f0 with faulted := true }) {} with dies := [(0, { Die.reset with records := [aRecord] })] }
/-- A climb of domain 0. -/
def aClimb (st : ClimbSt) (ts : List Nat) : Climb := { domain := 0, st := st, cores := 1, since := 0, tasks := ts }
/-- Domain 0 has a grace time of one millisecond unit. -/
def sClimb (st : ClimbSt) (ts : List Nat) (time : Nat) : State :=
  { sDie { Die.reset with climbs := [aClimb st ts], time := time, ctl := sset Die.reset.ctl ((domBase 0 + 48) / 8) 0x100000000 } with
    tasks := [(3, { taskIn .running false with groups := [(0, 0)] })] }

set_option maxRecDepth 8000 in
theorem witness_ResponsesAndLadder_start :
    (∃ (sc : Nat), sc < 4) ∧
    ∃ (s : State) (d sc : Nat) (h : Header) (p : Place), sc < 4 ∧ (s.die d).alive = true ∧
      clamped s d (islandOf (64 * d + 32 + sc)) = false ∧ (s.die d).num (startOff sc + 16) 4 < 2 ^ 20 ∧
      (s.die d).num (startOff sc + 20) 4 < 4 ∧ ((s.die d).bytes (startOff sc + 32) 32).all (· == 0) = true ∧
      startHeader s (64 * d + 32 + sc) ((s.die d).num (startOff sc) 8) ((s.die d).num (startOff sc + 16) 4)
        (((s.die d).num (startOff sc + 20) 4).testBit 1) = some h ∧
      h.kgrps = 1 ∧ h.ktiles = 0 ∧ h.kaccs = 0 ∧ headerLimits h = true ∧ placeGroup (s.core (64 * d + 32 + sc)) wholeCore h = some p :=
  have ⟨p, hp⟩ := of_some (show hasValue (placeGroup (sStart.core 32) wholeCore { hdr0 with kgrps := 1, kfibs := 1, kregs := 8 }) = true by decide)
  ⟨⟨3, by decide⟩, ⟨sStart, 0, 0, { hdr0 with kgrps := 1, kfibs := 1, kregs := 8 }, p, by decide, rfl, by decide, by decide, by decide, by decide, rfl,
    rfl, rfl, rfl, by decide, hp⟩⟩

theorem witness_ResponsesAndLadder_answers :
    (∃ (s : State) (d tag : Nat) (r : Record) (g : Machine.Group), recordOf s d tag = some r ∧ r.fibres ≠ [] ∧ isSupCore r.u = false ∧
      s.group r.u r.slot = some g ∧ ∀ id ∈ r.fibres, ∀ f, sget g.fibres id = some f → f.gate = none) ∧
    (∃ (s : State) (d tag : Nat) (r : Record), recordOf s d tag = some r ∧ responseWaits s r r.fpc.toNat = false) ∧
    (∀ b : Bool, ∃ (s : State) (d tag : Nat) (r : Record) (a : DWord), recordOf s d tag = some r ∧ r.fibres ≠ [] ∧
      responseWaits s r a.toNat = b) ∧
    (∃ (s : State) (d tag : Nat), recordOf s d tag = none) ∧
    (∃ (s : State) (r : Record) (id : Nat) (f : Fibre), s.fibre r.u r.slot id = some f ∧ id ∈ r.fibres ∧ f.faulted = true) ∧
    (∃ (s : State) (d dom : Nat), ∀ x ∈ (s.die d).climbs, x.domain ≠ dom) ∧
    (∃ (s : State) (d : Nat), (s.die d).climbs ≠ [] ∧ ∀ x ∈ (s.die d).climbs, x.st ≠ .halted) ∧
    (∃ (s : State) (d dom : Nat) (x : Climb), (s.die d).climbs = [x] ∧ s.cur = none ∧ x.domain = dom ∧ x.st = .soft ∧ x.shoot = false ∧ x.tasks = [] ∧
      (s.die d).time < x.since + 1000 * domField s d dom 52 2) ∧
    (∃ (s : State) (d dom : Nat) (x : Climb), (s.die d).climbs = [x] ∧ s.cur = none ∧ x.domain = dom ∧ x.st = .soft ∧ x.shoot = false ∧ x.tasks = [] ∧
      x.since + 1000 * domField s d dom 52 2 ≤ (s.die d).time) ∧
    (∃ (s : State) (d dom : Nat) (x : Climb), (s.die d).climbs = [x] ∧ x.domain = dom ∧ x.st = .halted ∧ x.shoot = false ∧
      x.since + 1000 * (domField s d dom 52 2 + domField s d dom 54 2) ≤ (s.die d).time ∧ x.tasks.filter (resident s) ≠ []) ∧
    ∃ vf : Nat, vf < 256 :=
  ⟨⟨sRecord, 0, 7, aRecord, _, rfl, by decide, rfl, rfl, by
      intro id _ f h
      have : f = { f0 with faulted := true } := by
        simp only [grp, sget] at h
        split at h <;> simp_all
      rw [this]; rfl⟩,
    ⟨sRecord, 0, 7, aRecord, rfl, by decide⟩,
    fun b => ⟨{ sRecord with svcmode := if b then 1 else 0 }, 0, 7, aRecord, 0x1000, by cases b <;> rfl, by decide, by cases b <;> decide⟩,
    ⟨s0, 0, 7, rfl⟩, ⟨sRecord, aRecord, 0, _, rfl, by decide, rfl⟩, ⟨sClimb .soft [] 0, 0, 5, by decide⟩,
    ⟨sClimb .soft [] 0, 0, by decide, by decide⟩, ⟨sClimb .soft [] 999, 0, 0, _, rfl, rfl, rfl, rfl, rfl, rfl, by decide⟩,
    ⟨sClimb .soft [] 1000, 0, 0, _, rfl, rfl, rfl, rfl, rfl, rfl, by decide⟩,
    ⟨sClimb .halted [3] 1000, 0, 0, _, rfl, rfl, rfl, rfl, by decide, by decide⟩, ⟨255, by decide⟩⟩

/-- A message of the hardware of a type with a body, and the first die with it, and with a shoot-down under way. -/
def hard (type : Nat) (body : List Byte) : BitVec 512 := satusMsg 0 0 0xFF (List.replicate 6 0 ++ leBytes 2 type ++ body)
def sHard (type : Nat) (body : List Byte) : State := withDie { Die.reset with hardIn := [hard type body] }
def aShoot : Shoot := { id := 9, initiator := 1, pasid := 0, va := 0, npg := 1, since := 0 }
def sShoot (c : Core) : State := { withDie { Die.reset with shoots := [aShoot] } with cores := [(0, c)] }
/-- A supervisor's pin of the first page. -/
def sdPin : Pin := { slice := 0, line := 0, owner := .inr 32, pasid := 0, va := 0, count := 1 }
def sShootTime (t : Nat) : State :=
  { sIdle with
    dies := (List.range 8).map fun d => (d, if d = 0 then { Die.reset with shoots := [aShoot], time := t, pins := [sdPin] }
      else { Die.reset with ctl := sset Die.reset.ctl ((sdOff + 24) / 8) 0x100000000 }) }
def sOpen (status : Nat) (acks : BitVec 8) : State :=
  withDie { Die.reset with sd := some 9, sdAcks := acks, acksIn := [(9, 1)], ctl := sset Die.reset.ctl ((sdOff + 24) / 8) (BitVec.ofNat 64 status) }
def pinned : Lock := { owner := 1, domain := 0, slot := 0, space := 0, dest := true, lines := [9], entries := 1 }
/-- A message to the first supervisor core. -/
def aMsg : Satus := { group := none, targets := [0], seq := 0, msg := 7, sender := 1 }
def sSatus (n : Nat) : State := { withDie Die.reset with satus := [aMsg], cores := [(32, { satus := List.replicate n 7 })] }
def migrGroup : Machine.Group := { grp f0 with st := .migrating 1, task := some 3 }
def sMigrate (rs : List Machine.Return) : State :=
  { State.reset with
    cores := [(0, { slots := [(0, migrGroup)], returns := rs }), (64, { slots := [(3, { grp f0 with st := .landing, fibres := [] })] })]
    tasks := [(3, { taskIn .running false with landing := [(64, 3)] })] }

set_option maxRecDepth 8000 in
theorem witness_ShootdownsAndMessages_initiator :
    (∃ (s : State) (d : Nat), (s.die d).alive = true ∧ (s.die d).judged = false ∧ sdStatus s d = 1) ∧
    (∃ (s : State) (d : Nat), (s.die d).alive = true ∧ (s.die d).judged = false ∧ sdStatus s d ≠ 1 ∧ sdStatus s d ≠ 2 ∧ (s.die d).sd = none) ∧
    (∃ (s : State) (d id : Nat), (s.die d).alive = true ∧ (s.die d).judged = false ∧ sdStatus s d = 2 ∧ (s.die d).sd = some id) ∧
    (∃ (s : State) (d : Nat), (s.die d).alive = true ∧ (s.die d).judged = false ∧ sdStatus s d ≠ 2) ∧
    (∃ (s : State) (d sd : Nat) (e : Nat × Nat), ((s.die d).acksIn.find? fun e => e.1 == sd) = some e ∧ (s.die d).sd = some sd) ∧
    (∃ (s : State) (d id : Nat), (s.die d).sd = some id ∧ sdStatus s d ≠ 2 ∧
      ∀ e, e < 8 → countedDie s d e = true → (s.die d).sdAcks.getLsbD e = true) ∧
    (∃ (s : State) (d id : Nat), (s.die d).sd = some id ∧ sdStatus s d ≠ 2 ∧
      ∃ e, e < 8 ∧ countedDie s d e = true ∧ (s.die d).sdAcks.getLsbD e = false) :=
  ⟨⟨sOpen 1 0, 0, rfl, rfl, by decide⟩, ⟨withDie Die.reset, 0, rfl, rfl, by decide, by decide, rfl⟩, ⟨sOpen 2 0, 0, 9, rfl, rfl, by decide, rfl⟩,
    ⟨sOpen 1 0, 0, rfl, rfl, by decide⟩, ⟨sOpen 1 0, 0, 9, _, rfl, rfl⟩, ⟨sOpen 1 0xFF, 0, 9, rfl, by decide, by decide⟩,
    ⟨sOpen 1 0x7F, 0, 9, rfl, by decide, 7, by decide, by decide, by decide⟩⟩

set_option maxRecDepth 8000 in
theorem witness_ShootdownsAndMessages_dies :
    (∃ (s : State) (d sd : Nat) (m : BitVec 512), nextHard s d 0x8001 4 sd = some m) ∧
    (∃ (s : State) (d sd : Nat) (x : Shoot), ((s.die d).shoots.find? fun x => x.id == sd) = some x ∧ usesRange s d x = true) ∧
    (∃ (s : State) (d sd : Nat) (x : Shoot), ((s.die d).shoots.find? fun x => x.id == sd) = some x ∧ x.acked = false ∧
      usesRange s d x = false ∧ (s.die d).alive = true ∧ x.initiator ≠ d) ∧
    (∃ (s : State) (d sd : Nat) (m : BitVec 512), nextHard s d 0x8003 4 sd = some m) ∧
    (∃ (s : State) (d sd : Nat) (x : Shoot), ((s.die d).shoots.find? fun x => x.id == sd) = some x ∧
      s.now d < x.since + 1000 * (s.die x.initiator).num (sdOff + 28) 4) ∧
    (∃ (s : State) (d sd : Nat) (x : Shoot), ((s.die d).shoots.find? fun x => x.id == sd) = some x ∧ s.cur = none ∧ x.acked = false ∧
      x.timedOut = false ∧ usesRange s d x = true ∧ x.since + 1000 * (s.die x.initiator).num (sdOff + 28) 4 ≤ s.now d ∧ rangeHolders s d x = []) :=
  have ⟨m, hm⟩ := of_some (show hasValue (nextHard (sHard 0x8001 (sdBody 9 0 0 1)) 0 0x8001 4 9) = true by decide)
  have ⟨m2, hm2⟩ := of_some (show hasValue (nextHard (sHard 0x8003 (sdBody 9 0 0 1)) 0 0x8003 4 9) = true by decide)
  ⟨⟨sHard 0x8001 (sdBody 9 0 0 1), 0, 9, m, hm⟩, ⟨sShoot { slots := [(0, grp f0)], locks := [pinned] }, 0, 9, aShoot, rfl, by decide⟩,
    ⟨sShoot {}, 0, 9, aShoot, rfl, rfl, by decide, rfl, by decide⟩, ⟨sHard 0x8003 (sdBody 9 0 0 1), 0, 9, m2, hm2⟩,
    ⟨sShootTime 999, 0, 9, aShoot, rfl, by decide⟩, ⟨sShootTime 1000, 0, 9, aShoot, rfl, rfl, rfl, rfl, by decide, by decide, by decide⟩⟩

set_option maxRecDepth 8000 in
theorem witness_ShootdownsAndMessages_channel :
    (∃ (s : State) (m : Satus) (n : Nat), s.satus = [m] ∧ m.sender ≠ 0xFF ∧ m.targets = [n] ∧ n ∈ liveSups s ∧
      256 ≤ (s.core (supUnit n)).satus.length) ∧
    (∃ (s : State) (m : Satus) (n : Nat), s.satus = [m] ∧ m.sender ≠ 0xFF ∧ m.targets = [n] ∧ n ∈ liveSups s ∧
      (s.core (supUnit n)).satus.length < 256) ∧
    (∃ (s : State) (m m2 : Satus), s.satus = [m, m2] ∧ m.group = m2.group ∧ m.group.isSome = true) ∧
    (∀ busy : Bool, ∃ (s : State) (u slot t d u2 slot2 : Nat) (g land : Machine.Group), s.group u slot = some g ∧ g.st = .migrating d ∧
      g.task = some t ∧ landingOn s g d = some (u2, slot2) ∧ s.group u2 slot2 = some land ∧ u2 ≠ u ∧ migrBusy s u slot = busy) :=
  ⟨⟨sSatus 256, aMsg, 0, rfl, by decide, rfl, by decide, by decide⟩, ⟨sSatus 255, aMsg, 0, rfl, by decide, rfl, by decide, by decide⟩,
    ⟨{ s0 with satus := [{ aMsg with group := some 0 }, { aMsg with group := some 0 }] }, _, _, rfl, rfl, rfl⟩,
    fun busy => ⟨sMigrate (if busy then [aReturn .ready] else []), 0, 0, 3, 1, 64, 3, migrGroup, { grp f0 with st := .landing, fibres := [] },
      rfl, rfl, rfl, rfl, rfl, by decide, by cases busy <;> rfl⟩⟩

/-- Dies that suspect others: for each die the list of its suspects. -/
def sSuspect (xs : List (List Nat)) : State :=
  { sIdle with dies := xs.zipIdx.map fun e => (e.2, { Die.reset with suspects := e.1 }) }
def sJudged : State := { sSuspect [[], [2], [], [], [], [], [], []] with dies := [(1, { Die.reset with judged := true })] }
/-- A request of core 0 for a line of die 1. -/
def toDie1 : Flight := { fly 0 .store [{ aPart with ret := some 4 }] with pa := 0x8000002000 }

set_option maxRecDepth 8000 in
theorem witness_DieLoss_suspicion :
    (∃ (s : State) (d : Nat), (s.die d).alive = true ∧ dueLinks s d ≠ []) ∧
    (∃ (s : State) (d : Nat), (s.die d).alive = true ∧ dueLinks s d = []) ∧
    (∃ (s : State) (d n t : Nat), n ∈ dueLinks s d ∧ sget (s.die d).beats n = some t) ∧
    (∃ (s : State) (d : Nat), (s.die d).alive = false) ∧
    (∃ (s : State) (d n : Nat), sgetD (s.die d).lastHeard n 0 + 20000 ≤ (s.die d).time) ∧
    (∃ (s : State) (d n : Nat), (s.die d).time < sgetD (s.die d).lastHeard n 0 + 20000) ∧
    (∃ (s : State) (d n : Nat), d ≠ n ∧ n < 8 ∧ (s.die d).alive = true) ∧
    (∃ (s : State) (d n : Nat), (s.die d).alive = true ∧ (s.die d).suspects.contains n = true ∧ (s.die d).masterOf = s.master ∧
      n ≠ s.master ∧ (s.die s.master).alive = true ∧ (s.die n).judged = false ∧ (s.die d).judged = false ∧
      (s.die d).badLinks.contains s.master = false) ∧
    (∃ (s : State) (d : Nat), (s.die d).judged = true) ∧
    (∃ (s : State) (d n : Nat), (s.die d).fatals.contains n = false ∧ (s.die n).alive = true ∧
      (s.die s.master).suspects.contains n = false ∧ d ≠ s.master ∧ linksLost s n < linksLost s d) ∧
    (∃ (s : State) (d n : Nat), (s.die d).fatals.contains n = false ∧ (s.die n).alive = true ∧
      (s.die s.master).suspects.contains n = false ∧ d ≠ s.master ∧ linksLost s d < linksLost s n) ∧
    (∃ (s : State) (d n : Nat), (s.die d).fatals.contains n = false ∧ (s.die n).alive = true ∧
      (s.die s.master).suspects.contains n = false ∧ d ≠ s.master ∧ linksLost s d = linksLost s n) ∧
    (∃ (s : State) (d n : Nat), (s.die d).fatals.contains n = true) :=
  ⟨⟨sDie Die.reset, 0, rfl, by decide⟩,
    ⟨sDie { Die.reset with beats := (List.range 8).map fun n => (n, 1), time := 1000 }, 0, rfl, by decide⟩,
    ⟨sDie { Die.reset with beats := [(1, 0)], time := 1000 }, 0, 1, 0, by decide, rfl⟩,
    ⟨sDie { Die.reset with alive := false }, 0, rfl⟩, ⟨sDie { Die.reset with time := 20000 }, 0, 1, by decide⟩,
    ⟨sDie { Die.reset with time := 19999 }, 0, 1, by decide⟩, ⟨s0, 0, 7, by decide, by decide, rfl⟩,
    ⟨sSuspect [[], [2], [], [], [], [], [], []], 1, 2, rfl, rfl, rfl, by decide, rfl, rfl, rfl, rfl⟩, ⟨sJudged, 1, rfl⟩,
    ⟨sSuspect [[], [2, 3], [1], [], [], [], [], []], 1, 2, rfl, rfl, rfl, by decide, by decide⟩,
    ⟨sSuspect [[], [2], [1, 3], [], [], [], [], []], 1, 2, rfl, rfl, rfl, by decide, by decide⟩,
    ⟨sSuspect [[], [2], [1], [], [], [], [], []], 1, 2, rfl, rfl, rfl, by decide, by decide⟩,
    ⟨sDie { Die.reset with fatals := [2] }, 0, 2, rfl⟩⟩

set_option maxRecDepth 8000 in
theorem witness_DieLoss_judgement :
    (∃ (s : State), masterSilent s = false) ∧
    (∃ (s : State) (m : Nat), masterSilent s = true ∧ ((List.range 8).find? fun m =>
      m != s.master && (s.die m).alive && (s.die m).started && !(s.die m).judged && hearsAll s m) = some m) ∧
    (∃ (s : State) (d n : Nat) (m : BitVec 512), nextHard s d 0x8011 1 n = some m) ∧
    (∃ (s : State) (d : Nat) (m : BitVec 512), nextHard s d 0x8010 1 d = some m) ∧
    (∃ (s : State) (d f : Nat) (m : BitVec 512), nextHard s d 0x8010 1 f = some m ∧ d ≠ f) ∧
    (∃ (s : State) (d f : Nat) (x : Flight), dieOf x.u = d ∧ paPkg x.pa = s.pkg ∧ paDie x.pa = f) ∧
    (∃ (s : State) (x : Flight) (p : Part) (n : Nat) (r : Machine.Return), x.parts = [p] ∧ p.ret = some n ∧ r ∈ (s.core x.u).returns ∧
      r.id = n) :=
  have ⟨m, hm⟩ := of_some (show hasValue (nextHard (sHard 0x8011 (leBytes 1 3)) 0 0x8011 1 3) = true by decide)
  have ⟨m2, hm2⟩ := of_some (show hasValue (nextHard (sHard 0x8010 (leBytes 1 0)) 0 0x8010 1 0) = true by decide)
  have ⟨m3, hm3⟩ := of_some (show hasValue (nextHard (sHard 0x8010 (leBytes 1 5)) 0 0x8010 1 5) = true by decide)
  ⟨⟨s0, by decide⟩, ⟨sSuspect (List.replicate 8 [0]), 1, by decide, by decide⟩, ⟨sHard 0x8011 (leBytes 1 3), 0, 3, m, hm⟩,
    ⟨sHard 0x8010 (leBytes 1 0), 0, m2, hm2⟩, ⟨sHard 0x8010 (leBytes 1 5), 0, 5, m3, hm3, by decide⟩,
    ⟨s0, 0, 1, toDie1, rfl, rfl, rfl⟩, ⟨sReturn (.away 7), toDie1, _, 4, aReturn (.away 7), rfl, rfl, List.mem_cons_self, rfl⟩⟩
/-- Island 0 of die 0 in a state. -/
def sIsland (i : Island) : State := withDie { Die.reset with islands := [(0, i)] }
/-- A launch that is not complete. -/
def aLaunch : Launch := { ctx := 0, seq := 0, domain := 0, root := 3 }
/-- A request of core 0 of die 0, whose island is island 0, to island 1. -/
def toIsland1 : Flight := { fly 0 .store [aPart] with pa := 2 * stackSize }

set_option maxRecDepth 8000 in
theorem witness_IslandsAndPower :
    (∃ (s : State) (d k : Nat), k < 2 ∧ (s.die d).alive = true ∧ (islandState s d k).resetting = false ∧ (islandState s d k).gated = false) ∧
    (∃ (s : State) (d k : Nat), (islandState s d k).resetting = true) ∧
    (∃ (s : State) (d k : Nat), k < 2 ∧ (islandState s d k).up = false ∧ s.now d < (islandState s d k).drainUntil) ∧
    (∃ (s : State) (d k : Nat), k < 2 ∧ (islandState s d k).up = false ∧ (islandState s d k).drainUntil ≤ s.now d) ∧
    (∃ (s : State) (d k : Nat) (f : Flight), crosses s d k f = true ∧ f.origin = .fibre) ∧
    (∃ (s : State) (d k : Nat), k < 2 ∧ (islandState s d k).resetting = true ∧ stillCrossing s d k = true) ∧
    (∃ (s : State) (d k : Nat), k < 2 ∧ (islandState s d k).resetting = true ∧ stillCrossing s d k = false) ∧
    (∃ (s : State) (d k : Nat), k < 2 ∧ (islandState s d k).gated = true ∧ (islandState s d k).resetting = false ∧
      stillCrossing s d k = false) ∧
    (∃ (s : State) (d k part : Nat), k < 2 ∧ part < 16 ∧ queuedOn s d k = true) ∧
    (∃ (s : State) (d k : Nat), residentOn s d k = true) ∧
    (∃ (s : State) (d k part : Nat), k < 2 ∧ part < 16 ∧ queuedOn s d k = false ∧
      residentOn s d k = false) ∧
    (∃ (s : State) (d : Nat), d < 8 ∧ (s.die d).alive = true) ∧
    (∃ (s : State) (d : Nat), (s.die d).sag = true ∧ (s.die d).recovered = none) ∧
    (∃ (s : State) (d r : Nat), (s.die d).sag = true ∧ (s.die d).recovered = some r ∧ s.now d < r + 2000) ∧
    (∃ (s : State) (d r : Nat), (s.die d).sag = true ∧ (s.die d).recovered = some r ∧ r + 2000 ≤ s.now d) ∧
    (∃ (d k n : Nat), d < 8 ∧ k < 2 ∧ n < 8) :=
  ⟨⟨sIsland {}, 0, 1, by decide, rfl, rfl, rfl⟩, ⟨sIsland { resetting := true }, 0, 0, rfl⟩,
    ⟨sIsland { up := false, drainUntil := 1 }, 0, 0, by decide, rfl, by decide⟩,
    ⟨sIsland { up := false, drainUntil := 0 }, 0, 0, by decide, rfl, by decide⟩, ⟨sIsland {}, 0, 0, toIsland1, by decide, rfl⟩,
    ⟨{ sIsland { resetting := true } with flights := [toIsland1] }, 0, 0, by decide, rfl, by decide⟩,
    ⟨sIsland { resetting := true }, 0, 0, by decide, rfl, by decide⟩, ⟨sIsland { gated := true }, 0, 0, by decide, rfl, rfl, by decide⟩,
    ⟨{ sIsland {} with tasks := [(3, taskIn .ready false)] }, 0, 0, 15, by decide, by decide, rfl⟩,
    ⟨sIsland {}, 0, 0, by decide⟩, ⟨{ sIsland {} with cores := [] }, 0, 1, 15, by decide, by decide, rfl, rfl⟩, ⟨sIsland {}, 7, by decide, rfl⟩,
    ⟨withDie { Die.reset with sag := true }, 0, rfl, rfl⟩,
    ⟨withDie { Die.reset with sag := true, recovered := some 7, time := 2006 }, 0, 7, rfl, rfl, by decide⟩,
    ⟨withDie { Die.reset with sag := true, recovered := some 7, time := 2007 }, 0, 7, rfl, rfl, by decide⟩, ⟨7, 1, 7, by decide, by decide, by decide⟩⟩

set_option maxRecDepth 8000 in
theorem witness_BootAndCheckpoint :
    (∃ (s : State) (d : Nat), d < 8 ∧ (s.die d).alive = true ∧ (s.die d).judged = false ∧ ∀ c ∈ coresOf s d, c.2.slots = []) ∧
    (∃ (s : State) (d : Nat), (s.die d).judged = true) ∧
    (∃ (i n : Nat), 1 ≤ i ∧ i ≤ 8 ∧ n < 4) ∧
    (∃ (s : State), s.master < 8 ∧ s.bootJoined.getLsbD s.master = true ∧ joins s s.master = true ∧
      ∀ d, d < 8 → joins s d = true → s.bootJoined.getLsbD d = true) ∧
    (∃ (s : State), s.master < 8 ∧ s.bootJoined.getLsbD s.master = true ∧ joins s s.master = true ∧
      ∃ d, d < 8 ∧ joins s d = true ∧ s.bootJoined.getLsbD d = false) ∧
    (∃ (s : State), ∀ d, d < 8 → (s.die d).alive = true → (s.die d).started = true →
      (s.die d).judged = true ∨ stepPassed s d 5 = true) ∧
    (∃ (s : State) (d : Nat), (s.die d).started = true) ∧
    (∃ (x : Die) (i : Image), Config.shake256 32 i.key = x.fuseKey ∧ x.fuseRollback ≤ i.version) ∧
    (∃ (s : State), ∀ d, d < 8 → joins s d = false) ∧
    (∃ (s : State) (m : Nat), m < 8 ∧ joins s m = true ∧ (∀ d, d < m → joins s d = false) ∧
      ¬ (s.bootJoined.getLsbD s.master = true ∧ joins s s.master = true)) ∧
    (∃ (s : State) (pf : Nat), pf < 8 ∧ stepPassed s pf 7 = true ∧ (s.die s.master).alive = true) ∧
    (∃ (s : State), s.checkpoint = true ∧ s.stopRaised = false ∧ ∀ e ∈ s.launches, launchOpen s e = false) ∧
    (∃ (s : State), ∃ e ∈ s.launches, launchOpen s e = true) ∧
    (∃ (s : State) (pf pkg : Nat), pf < 8 ∧ pkg ≠ s.pkg) ∧
    (∃ (s : State) (pf pkg : Nat) (caps : List Word), pf < 8 ∧ pkg = s.pkg ∧
      caps.map diecapKey = (List.range 8).map (fun d => diecapKey (diecapWord s d))) ∧
    (∃ (s : State) (e : Nat × Byte), Memory.wf s.mem = true ∧ paPkg e.1 = s.pkg ∧ plainPa e.1 = true ∧ inDsmWindow e.1 = false ∧
      inControl e.1 = false) :=
  ⟨⟨State.reset, 7, by decide, rfl, rfl, by decide⟩, ⟨sJudged, 1, rfl⟩, ⟨8, 3, by decide, by decide, by decide⟩,
    ⟨{ s0 with bootJoined := 0xFF }, by decide, by decide, by decide, by decide⟩,
    ⟨{ s0 with bootJoined := 1 }, by decide, by decide, by decide, 7, by decide, by decide, by decide⟩, ⟨s0, by decide⟩, ⟨s0, 0, rfl⟩,
    ⟨{ Die.reset with fuseKey := Config.shake256 32 [] }, { key := [], signature := [], version := 0, body := [] }, rfl, by decide⟩, ⟨{ s0 with dies := (List.range 8).map fun d => (d, { Die.reset with alive := false }) }, by decide⟩,
    ⟨s0, 0, by decide, by decide, by decide, by decide⟩, ⟨s0, 7, by decide, by decide, rfl⟩, ⟨{ s0 with checkpoint := true }, rfl, rfl, by decide⟩,
    ⟨{ s0 with launches := [(1, aLaunch)] }, (1, aLaunch), by decide, by decide⟩, ⟨s0, 7, 1, by decide, by decide⟩,
    ⟨s0, 7, 0, (List.range 8).map fun d => diecapWord s0 d, by decide, rfl, by rw [List.map_map]; rfl⟩,
    ⟨s0, (4 * stackSize - 1, 7), by decide, by decide, by decide, by decide, by decide⟩⟩
/-- A register port command of die 0: read or write of register `r` of class `cls`, fibre 0, slot 0, core 0. -/
def sPort (write : Bool) (cls r : Nat) : State :=
  withDie { Die.reset with
    ctl := sset Die.reset.ctl (0x6000500400 / 8) (BitVec.ofNat 64 (2 ^ 63 + (if write then 2 ^ 62 else 0) + cls * 2 ^ 59 + r)) }
set_option maxRecDepth 8000 in
theorem witness_RegisterWritesAndScrub :
    (∃ v : Word, 64 ≤ v.toNat % 8192 ∧ v.toNat % 8192 ≤ 4096) ∧ (∃ v : Word, v.toNat % 8192 < 64) ∧ (∃ v : Word, 4096 < v.toNat % 8192) ∧
    (∃ (s : State) (d : Nat) (v : Word), sminSum s d ≤ v.toNat) ∧ (∃ (s : State) (d : Nat) (v : Word), v.toNat < sminSum s d) ∧
    (∃ seg : Nat, 128 ≤ seg) ∧
    (∃ (s : State) (d seg : Nat) (v : Word), seg < 128 ∧ v.toNat % 256 ≠ (s.die d).num (0x6000100000 + 4 * seg) 4 % 256) ∧
    (∃ (s : State) (d seg : Nat) (v : Word), seg < 128 ∧ ¬ (v.toNat % 256 ≠ (s.die d).num (0x6000100000 + 4 * seg) 4 % 256 ∨
      (v.toNat.testBit 31 = true ∧ ((s.die d).num (0x6000100000 + 4 * seg) 4).testBit 31 = false))) ∧
    (∃ off : Nat, off < 0x6000000000 ∧ off ≠ 0x6000E00000 ∧ off ≠ 0x6000E00008) ∧
    (∃ (off o : Nat), off % 8 = 0 ∧ o / 8 ≠ off / 8) ∧
    (∃ (s : State) (d : Nat), portCmd s d false = none ∧ portCmd s d true = none) ∧
    (∀ w : Bool, ∀ r : Nat, r = 15 ∨ r = 16 → ∃ (s : State) (d : Nat) (p : PortCmd) (g : Machine.Group) (f : Fibre), portCmd s d w = some p ∧
      p.cls = 0 ∧ p.reg = r ∧ s.group p.u p.slot = some g ∧ g.st ≠ .landing ∧
      sget g.fibres p.fibre = some f ∧ (r = 15 → p.reg < vecCount g f) ∧
      (r = 16 → vecCount g f ≤ p.reg)) ∧
    (∃ (s : State) (d : Nat) (p : PortCmd), portCmd s d true = some p ∧ 4 ≤ p.cls) ∧
    (∃ (s : State) (d : Nat) (p : PortCmd), portCmd s d true = some p ∧ p.cls ≠ 3 ∧ portGroup s p.u p.slot = none) ∧
    (∃ (s : State) (d i n : Nat), 0 < n ∧ 128 * (i + n) ≤ 4 * stackSize ∧ d < 8 ∧ rangeBusy s d i n = false ∧ (s.die d).horizon ≠ [] ∧
      ∀ e ∈ (s.die d).horizon, inLines i n e.1 = true → e.2 + 4 < s.now d) ∧
    (∃ (s : State) (d i n : Nat), rangeBusy s d i n = true) ∧
    (∃ (s : State) (d : Nat), ownScrub (s.die d) = []) ∧
    (∃ (s : State) (d line : Nat), (∃ e ∈ ownScrub (s.die d), e.1 = line) ∧ ∀ e ∈ ownScrub (s.die d), line ≤ e.1) ∧
    (∃ f : Fibre, f.gate = none) ∧
    (∀ b : Bool, ∃ (s : State) (d line : Nat), (s.die d).flips.contains line = b) ∧
    (∃ (s : State) (u slot id r : Nat) (g : Machine.Group) (f : Fibre), s.group u slot = some g ∧ sget g.fibres id = some f ∧ r < vecCount g f) ∧
    (∃ (s : State) (u slot n : Nat), ∀ m ∈ (s.core u).running ++ (s.core u).transfers, m.slot = slot → m.readsTile n = false) ∧
    (∃ (s : State) (u slot n : Nat) (m : MEntry),
      ((s.core u).running ++ (s.core u).transfers).find? (fun m => m.slot == slot && m.readsTile n) = some m) :=
  ⟨⟨64, by decide, by decide⟩, ⟨63, by decide⟩, ⟨4097, by decide⟩, ⟨s0, 0, 0xFFFFFFFF, by decide⟩,
    ⟨withDie { Die.reset with ctl := sset (sset Die.reset.ctl (domBase 0 / 8) 1) ((domBase 0 + 56) / 8) 5 }, 0, 4, by decide⟩,
    ⟨128, by decide⟩, ⟨s0, 0, 127, 9, by decide, by decide⟩, ⟨s0, 0, 127, 0, by decide, by decide⟩, ⟨0, by decide, by decide, by decide⟩,
    ⟨8, 16, by decide, by decide⟩, ⟨s0, 0, rfl, rfl⟩,
    fun w r h => ⟨sPort w 0 r, 0, { u := 0, cls := 0, slot := 0, fibre := 0, reg := r }, grp f0, f0, by
      rcases h with rfl | rfl <;> cases w <;> exact ⟨rfl, rfl, rfl, rfl, by decide, rfl, by decide, by decide⟩⟩,
    ⟨sPort true 4 0, 0, _, rfl, by decide⟩, ⟨{ sPort true 0 0 with cores := [] }, 0, { u := 0, cls := 0, slot := 0, fibre := 0, reg := 0 }, rfl, by decide, rfl⟩,
    ⟨withDie { Die.reset with horizon := [(63, 9), (64, 0)], time := 5 }, 0, 64, 1, by decide, by decide, by decide, by decide, by decide, by decide⟩,
    ⟨sMsg .inv, 0, 64, 1, by decide⟩, ⟨s0, 0, rfl⟩,
    ⟨withDie { Die.reset with scrub := [(64, 66), (80, 81)] }, 0, 64, ⟨(64, 66), by decide, rfl⟩, by decide⟩, ⟨f0, rfl⟩,
    fun b => by cases b; exacts [⟨s0, 0, 64, rfl⟩, ⟨withDie { Die.reset with flips := [64] }, 0, 64, rfl⟩],
    ⟨s0, 0, 0, 0, 15, _, _, rfl, rfl, by decide⟩, ⟨s0, 0, 0, 1, by decide⟩, ⟨sRun (entryFor .mma 0 true), 0, 0, 1, _, rfl⟩⟩

/-- A packet of core 0 of package 1 for course 5 of die 0. -/
def pkt (type gen epoch : Nat) : Packet :=
  { type := type, srcPkg := 1, srcDie := 0, srcCore := 0, dstPkg := 0, dstDie := 0, course := 5, epoch := epoch, gen := gen, count := 0,
    keyId := 0, atag := 3, addr := 0x2000, data := [(0, 7)], op := 0, ty := 0, size := 4, tagOk := true }
/-- Course 5 of die 0, from that core, with its receiving state, at time 5. -/
def courseDie (x : CourseSt) : Die :=
  { Die.reset with
    time := 5
    ctl := sset Die.reset.ctl (courseOff 5 / 8) (BitVec.ofNat 64 (2 ^ 63 + 2 ^ 45))
    courses := [(5, x)] }
def sCourse (x : CourseSt) : State := withDie (courseDie x)
/-- The same die with the island of the line's stack closed. -/
def sClosed (x : CourseSt) : State := withDie { courseDie x with islands := [(0, { up := false })] }
def ridgeHeld (count since : Nat) (type : Nat) : HeldRidge := { epoch := 0, gen := 0, count := count, pkt := pkt type 0 0, since := since }
/-- A store that waits at the home of 0x2000, and poison on that line. -/
def sCourseBusy : State := { sCourse {} with flights := [{ arrivedStore with t := 9 }] }
def sCoursePoison : State := withDie { courseDie {} with poison := [(64, 1)] }
/-- Core 0 waits for the answer to its load 7 from package 1. -/
def sAnswer : State := { sReturn (.away 7) with flights := [{ fly 0 (.load true) [{ aPart with ret := some 4 }] with pa := 2 ^ 42 + 0x2000 }] }

set_option maxRecDepth 8000 in
theorem witness_FabricReceives_writes :
    (∃ (s : State) (p : Packet), p.dstPkg ≠ s.pkg) ∧
    (∃ (s : State) (p : Packet), p.dstPkg = s.pkg ∧ p.dstDie < 8 ∧ fabricHere s p.dstDie = true ∧ 11 ≤ p.type) ∧
    (∃ (s : State) (p : Packet), p.dstPkg = s.pkg ∧ p.dstDie < 8 ∧ fabricHere s p.dstDie = true ∧ p.type = 0 ∧ p.tagOk = false) ∧
    (∃ (s : State) (p : Packet), p.dstPkg = s.pkg ∧ p.dstDie < 8 ∧ fabricHere s p.dstDie = true ∧ p.type = 2 ∧ courseMatches s p = false) ∧
    (∀ ty : Nat, ty = 0 ∨ ty = 1 → ∀ ep : Nat, ep = 255 ∨ ep = 2 ∨ ep = 0 → ∃ (s : State) (p : Packet), packetHere s p = true ∧
      courseMatches s p = true ∧ p.type = ty ∧ payloadOk s p = true ∧
      epochPlace s p = if ep = 255 then .closed else if ep = 2 then .outside else .open_ 0) ∧
    (∀ late : Bool, ∃ (s : State) (p : Packet), packetHere s p = true ∧ courseMatches s p = true ∧ p.type = 0 ∧ payloadOk s p = true ∧
      epochPlace s p = .open_ 0 ∧ p.gen < 4 ∧ decide (s.now p.dstDie < completionTime s p.dstDie p.addr) = late ∧
      (late = false → pendingAt s p.dstDie (lineIx p.addr) = []) ∧ Memory.wf s.mem = true ∧ (p.data.map (·.1)).Nodup ∧
      landClosed s p.addr = false) ∧
    (∃ (s : State) (p : Packet), packetHere s p = true ∧ courseMatches s p = true ∧ p.type = 0 ∧ payloadOk s p = true ∧
      epochPlace s p = .open_ 0 ∧ landClosed s p.addr = true) ∧
    (∃ (s : State) (p : Packet), packetHere s p = true ∧ courseMatches s p = true ∧ p.type = 2 ∧ epochPlace s p = .open_ 1 ∧ p.gen < 4 ∧
      heldOf s p.dstDie p.course p.epoch = none) ∧
    (∀ up : Bool, ∃ (s : State) (p : Packet) (y : HeldRidge), packetHere s p = true ∧ courseMatches s p = true ∧ p.type = 2 ∧
      epochPlace s p = .open_ 0 ∧ p.gen < 4 ∧ heldOf s p.dstDie p.course p.epoch = some y ∧ (up = true → y.gen < p.gen) ∧
      (up = false → p.gen ≤ y.gen ∧ p.gen ≤ courseGen (courseEntry s p.dstDie p.course) 0)) :=
  ⟨⟨s0, { pkt 0 0 0 with dstPkg := 1 }, by decide⟩, ⟨s0, pkt 11 0 0, rfl, by decide, rfl, by decide⟩, ⟨s0, { pkt 0 0 0 with tagOk := false }, rfl, by decide, rfl, rfl, rfl⟩,
    ⟨s0, pkt 2 0 0, rfl, by decide, rfl, rfl, by decide⟩,
    fun ty hty ep hep => ⟨sCourse {}, pkt ty 0 ep, by
      rcases hty with rfl | rfl <;> rcases hep with rfl | rfl | rfl <;>
        exact ⟨by decide, by decide, rfl, by decide, rfl⟩⟩,
    fun late => ⟨if late then sCourseBusy else sCourse {}, pkt 0 3 0, by
      cases late <;> exact ⟨by decide, by decide, rfl, by decide, rfl, by decide, by decide, by decide, rfl, by decide, by decide⟩⟩,
    ⟨sClosed {}, pkt 0 3 0, by decide, by decide, rfl, by decide, rfl, by decide⟩, ⟨sCourse {}, pkt 2 3 1, by decide, by decide, rfl, rfl, by decide, by decide⟩,
    fun up => ⟨sCourse { held := [ridgeHeld 0 0 2] }, pkt 2 (if up then 3 else 0) 0, ridgeHeld 0 0 2, by
      cases up <;> exact ⟨by decide, by decide, rfl, rfl, by decide, by decide, by decide, by decide⟩⟩⟩

set_option maxRecDepth 8000 in
theorem witness_FabricReceives_ridges :
    (∃ (s : State) (d c : Nat), heldOf s d c (courseLow (courseEntry s d c)) = none) ∧
    (∃ (s : State) (d c : Nat) (h : HeldRidge), heldOf s d c (courseLow (courseEntry s d c)) = some h ∧ countMet s d c 0 h = false) ∧
    (∃ (s : State) (d c : Nat) (h : HeldRidge), heldOf s d c (courseLow (courseEntry s d c)) = some h ∧ s.now d ≤ (courseSt s d c).t0 + 4) ∧
    (∃ (s : State) (d c : Nat) (h : HeldRidge), heldOf s d c (courseLow (courseEntry s d c)) = some h ∧ countMet s d c 0 h = true ∧
      courseValid (courseEntry s d c) = true ∧ courseBroken (courseEntry s d c) = false ∧ (courseSt s d c).t0 + 4 < s.now d ∧
      flagPending s d c h.epoch = false ∧ h.pkt.type = 2) ∧
    (∃ (s : State) (d c : Nat) (h : HeldRidge), heldOf s d c (courseLow (courseEntry s d c)) = some h ∧ flagPending s d c h.epoch = true) ∧
    (∃ (s : State) (d c : Nat) (h : HeldRidge), heldOf s d c (courseLow (courseEntry s d c)) = some h ∧ h.pkt.type ≠ 2 ∧
      landClosed s h.pkt.addr = true) ∧
    (∀ late : Bool, ∃ (s : State) (d c : Nat) (h : HeldRidge), heldOf s d c (courseLow (courseEntry s d c)) = some h ∧
      countMet s d c 0 h = true ∧ courseValid (courseEntry s d c) = true ∧ courseBroken (courseEntry s d c) = false ∧ (courseSt s d c).t0 + 4 < s.now d ∧
      flagPending s d c h.epoch = false ∧ h.pkt.type ≠ 2 ∧
      payloadOk s h.pkt = true ∧ h.pkt.dstDie = d ∧ decide (s.now d < completionTime s d h.pkt.addr) = late ∧
      (late = false → pendingAt s d (lineIx h.pkt.addr) = []) ∧ Memory.wf s.mem = true ∧ (h.pkt.data.map (·.1)).Nodup ∧
      landClosed s h.pkt.addr = false) :=
  ⟨⟨sCourse {}, 0, 5, rfl⟩, ⟨sCourse { held := [ridgeHeld 1 0 2] }, 0, 5, ridgeHeld 1 0 2, by decide, by decide⟩,
    ⟨sCourse { held := [ridgeHeld 0 0 2], t0 := 1 }, 0, 5, ridgeHeld 0 0 2, by decide, by decide⟩,
    ⟨sCourse { held := [ridgeHeld 0 0 2] }, 0, 5, ridgeHeld 0 0 2, by decide, by decide, by decide, by decide, by decide, by decide, rfl⟩,
    ⟨{ sCourse { held := [ridgeHeld 0 0 2] } with flights := [{ arrivedStore with t := 9, origin := .ridge 5 0 }] }, 0, 5, ridgeHeld 0 0 2,
      by decide, by decide⟩,
    ⟨sClosed { held := [ridgeHeld 0 0 1] }, 0, 5, ridgeHeld 0 0 1, by decide, by decide, by decide⟩,
    fun late => ⟨{ sCourse { held := [ridgeHeld 0 0 1] } with flights := if late then [{ arrivedStore with t := 9 }] else [] }, 0, 5,
      ridgeHeld 0 0 1, by
      cases late <;> exact ⟨by decide, by decide, by decide, by decide, by decide, by decide, by decide, by decide, rfl, by decide, by decide,
        rfl, by decide, by decide⟩⟩⟩

set_option maxRecDepth 8000 in
theorem witness_FabricReceives_requests :
    (∃ (s : State) (p : Packet) (v : DWord), packetHere s p = true ∧ courseMatches s p = true ∧ payloadOk s p = true ∧ p.type = 3 ∧
      p.size = 4 ∧ (p.atag, v) ∈ (courseSt s p.dstDie p.course).tags) ∧
    (∀ busy bad : Bool, ∃ (s : State) (p : Packet), packetHere s p = true ∧ courseMatches s p = true ∧ payloadOk s p = true ∧ p.type = 3 ∧
      p.size = 4 ∧ (∀ e ∈ (courseSt s p.dstDie p.course).tags, e.1 ≠ p.atag) ∧ isPoisoned s p.addr = bad ∧ atomicPending s p = false ∧
      decide (s.now p.dstDie < completionTime s p.dstDie p.addr) = busy ∧ (busy = false → pendingAt s p.dstDie (lineIx p.addr) = []) ∧
      Memory.wf s.mem = true ∧ landClosed s p.addr = false) ∧
    (∃ (s : State) (p : Packet), packetHere s p = true ∧ courseMatches s p = true ∧ payloadOk s p = true ∧ p.type = 3 ∧ p.size = 4 ∧
      (∀ e ∈ (courseSt s p.dstDie p.course).tags, e.1 ≠ p.atag) ∧ atomicPending s p = false ∧ landClosed s p.addr = true) ∧
    (∃ (s : State) (p : Packet), packetHere s p = true ∧ courseMatches s p = true ∧ payloadOk s p = true ∧ p.type = 3 ∧ p.size = 4 ∧
      (∀ e ∈ (courseSt s p.dstDie p.course).tags, e.1 ≠ p.atag) ∧ isPoisoned s p.addr = false ∧ landClosed s p.addr = false ∧ atomicPending s p = true) ∧
    (∃ (s : State) (p : Packet), packetHere s p = true ∧ courseMatches s p = true ∧ payloadOk s p = true ∧ p.type = 5 ∧ p.size ≤ 128 ∧
      landClosed s p.addr = true) ∧
    (∃ (s : State) (p : Packet), packetHere s p = true ∧ courseMatches s p = true ∧ payloadOk s p = true ∧ p.type = 5 ∧ p.size ≤ 128 ∧
      landClosed s p.addr = false ∧ isPoisoned s p.addr = true) ∧
    (∃ (s : State) (p : Packet), packetHere s p = true ∧ courseMatches s p = true ∧ payloadOk s p = true ∧ p.type = 5 ∧ p.size ≤ 128 ∧
      landClosed s p.addr = false ∧ isPoisoned s p.addr = false) ∧
    (∃ (s : State) (p : Packet), (p.type = 4 ∨ p.type = 6) ∧ p.dstPkg = s.pkg ∧ fabricHere s p.dstDie = true ∧ p.tagOk = false) ∧
    (∃ (s : State) (p : Packet), (p.type = 4 ∨ p.type = 6) ∧ p.dstPkg = s.pkg ∧ fabricHere s p.dstDie = true ∧ p.tagOk = true ∧
      answered s p = none) ∧
    (∃ (s : State) (p : Packet) (f : Flight), (p.type = 4 ∨ p.type = 6) ∧ p.dstPkg = s.pkg ∧ fabricHere s p.dstDie = true ∧ p.tagOk = true ∧
      answered s p = some f ∧ p.keyId ≠ requestKey s f (requestSlot s f p) p) ∧
    (∀ ty : Nat, ty < 3 → ∃ (s : State) (p : Packet) (f : Flight) (q : Part) (n : Nat) (r : Machine.Return), p.ty = ty ∧ (p.type = 4 ∨ p.type = 6) ∧ p.dstPkg = s.pkg ∧
      fabricHere s p.dstDie = true ∧ p.tagOk = true ∧ answered s p = some f ∧ p.keyId = requestKey s f (requestSlot s f p) p ∧
      f.parts = [q] ∧ q.ret = some n ∧ r ∈ (s.core f.u).returns ∧ r.id = n ∧
      r.scaleFlight = none ∧ q.decode < 33 ∧ ∀ k, r.st ≠ .failed k) :=
  ⟨⟨sCourse { tags := [(3, 9)] }, pkt 3 0 0, 9, by decide, by decide, by decide, rfl, rfl, by decide⟩,
    fun busy bad => ⟨{ (if bad then sCoursePoison else sCourse {}) with flights := if busy then [{ arrivedStore with t := 9 }] else [] }, pkt 3 0 0, by
      cases busy <;> cases bad <;>
        exact ⟨by decide, by decide, by decide, rfl, rfl, by decide, by decide, by decide, by decide, by decide, rfl, by decide⟩⟩,
    ⟨sClosed {}, pkt 3 0 0, by decide, by decide, by decide, rfl, rfl, by decide, by decide, by decide⟩,
    ⟨{ sCourse {} with flights := [{ arrivedStore with t := 9, origin := .fabric (pkt 3 0 0) }] }, pkt 3 0 0, by decide, by decide, by decide, rfl,
      rfl, by decide, by decide, by decide, by decide⟩,
    ⟨sClosed {}, pkt 5 0 0, by decide, by decide, by decide, rfl, by decide, by decide⟩,
    ⟨sCoursePoison, pkt 5 0 0, by decide, by decide, by decide, rfl, by decide, by decide, by decide⟩,
    ⟨sCourse {}, { pkt 5 0 0 with size := 128 }, by decide, by decide, by decide, rfl, by decide, by decide, by decide⟩,
    ⟨s0, { pkt 4 0 0 with tagOk := false }, .inl rfl, rfl, rfl, rfl⟩, ⟨s0, pkt 4 0 0, .inl rfl, rfl, rfl, rfl, rfl⟩,
    ⟨sAnswer, { pkt 6 0 0 with atag := 7, keyId := 9 }, _, .inr rfl, rfl, rfl, rfl, rfl, by decide⟩,
    fun ty _ => ⟨sAnswer, { pkt 6 0 0 with atag := 7, ty := ty }, _, _, 4, aReturn (.away 7), rfl, .inr rfl, rfl, rfl, rfl, rfl, rfl, rfl, rfl,
      List.mem_cons_self, rfl, rfl, by decide, nofun⟩⟩
/-! A table in which the courses below `n` of die 0 are allocated. -/
def courseTable (n : Nat) : SMap DWord := (List.range n).map fun c => (courseOff c / 8, 0x8000000000000000)
def sCourses (n : Nat) : State := withDie { Die.reset with ctl := courseTable n }
theorem sget_table (v : DWord) (f : Nat → Nat) (k : Nat) : ∀ l : List Nat,
    (k ∈ l.map f → sget (l.map fun c => (f c, v)) k = some v) ∧ (k ∉ l.map f → sget (l.map fun c => (f c, v)) k = none)
  | [] => by simp [sget]
  | c :: t => by
    have ih := sget_table v f k t
    simp only [List.map_cons, sget, List.mem_cons]
    by_cases h : f c = k
    · simp [h]
    · have h2 : ¬ k = f c := fun e => h e.symm
      simp only [h, h2, if_false, false_or]
      exact ih
theorem testBit_add_shift (b r i : Nat) (h : b < 256) : (b + 256 * r).testBit (8 + i) = r.testBit i := by
  rw [Nat.testBit_eq_decide_div_mod_eq, Nat.testBit_eq_decide_div_mod_eq, Nat.pow_add, ← Nat.div_div_eq_div_mul]
  have : (b + 256 * r) / 2 ^ 8 = r := by omega
  rw [this]
theorem testBit_low (b r i : Nat) (h : i < 8) : (b + 256 * r).testBit i = b.testBit i := by
  rw [show b + 256 * r = 2 ^ 8 * r + b from by omega, Nat.testBit_eq_decide_div_mod_eq, Nat.testBit_eq_decide_div_mod_eq]
  congr 1
  have : i = 0 ∨ i = 1 ∨ i = 2 ∨ i = 3 ∨ i = 4 ∨ i = 5 ∨ i = 6 ∨ i = 7 := by omega
  rcases this with rfl | rfl | rfl | rfl | rfl | rfl | rfl | rfl <;> simp only [Nat.reducePow] <;> apply propext <;> omega
/-- Bit 63 of an entry is the top bit of its first word. -/
theorem courseValid_word (s : State) (d c : Nat) : courseValid (courseEntry s d c) = ((s.die d).word (courseOff c)).getLsbD 63 := by
  have e : (s.die d).word (courseOff c + 7) = (s.die d).word (courseOff c) := by
    unfold Die.word
    have : (courseOff c + 7) / 8 = courseOff c / 8 := by unfold courseOff; omega
    rw [this]
  have m : (courseOff c + 7) % 8 = 7 := by unfold courseOff; omega
  have l : ∀ (b : Byte) (t : List Byte) (i : Nat), (ofLe (b :: t)).testBit (8 + i) = (ofLe t).testBit i := fun b t i =>
    testBit_add_shift _ _ _ b.isLt
  show (ofLe ((s.die d).bytes (courseOff c) 32)).testBit 63 = _
  simp only [Die.bytes]
  rw [show 63 = 8 + (8 + (8 + (8 + (8 + (8 + (8 + 7)))))) from rfl, l, l, l, l, l, l, l]
  show (_ + 256 * _ : Nat).testBit 7 = _
  rw [testBit_low _ _ _ (by decide)]
  simp only [Nat.add_assoc, Nat.reduceAdd, e, m, BitVec.toNat_ofNat]
  rw [Nat.testBit_mod_two_pow]
  simp [BitVec.getLsbD, Nat.testBit_shiftRight]
theorem course_taken {n c : Nat} (h : c < n) : courseValid (courseEntry (sCourses n) 0 c) = true := by
  rw [courseValid_word]
  show (sgetD (courseTable n) (courseOff c / 8) 0).getLsbD 63 = true
  rw [sgetD, courseTable, (sget_table _ _ _ _).1 (List.mem_map.mpr ⟨c, List.mem_range.mpr h, rfl⟩)]
  rfl
theorem course_free (n : Nat) : courseValid (courseEntry (sCourses n) 0 n) = false := by
  rw [courseValid_word]
  show (sgetD (courseTable n) (courseOff n / 8) 0).getLsbD 63 = false
  rw [sgetD, courseTable, (sget_table _ _ _ _).2]
  · rfl
  · simp only [List.mem_map, List.mem_range, not_exists, not_and, courseOff]
    intro x hx hn
    omega

/-- A slot of core 0 that leads to course 5 of die 0 of package 1, with an epoch kept, in a generation, closed at time 0. -/
def aKept (gen : Nat) : EpochBuf := { epoch := 0, gen := gen, ridge := some (pkt 1 0 0) }
def anAtomic (resends : Nat) : AtomOut := { tag := 3, pkt := pkt 3 0 0, since := 0, resends := resends }
def sSlot (x : SlotState) (t : Nat) (broken : Bool) : State :=
  { withDie { Die.reset with
              time := t
              ctl := sset (sset Die.reset.ctl (0x6000A00000 / 8)
                (BitVec.ofNat 64 (2 ^ 63 + 2 ^ 54 + 2 ^ 44 + 5 * 2 ^ 29 + if broken then 2 ^ 25 else 0)))
                (0x6000C00000 / 8) 0x0001000100010001 } with
    cores := [(0, { slots := [(0, grp f0)], slotSt := [(0, x)] })] }
/-- Course 5 with the loss timers of one microsecond, and its first ridge held, in a generation. -/
def sLost (gen : Nat) (h : HeldRidge) : State :=
  withDie { Die.reset with
    time := 1000
    ctl := sset (sset (sset Die.reset.ctl (courseOff 5 / 8) (BitVec.ofNat 64 (2 ^ 63 + 2 ^ 45)))
      ((courseOff 5 + 16) / 8) (BitVec.ofNat 64 (gen * 2 ^ 20))) (0x6000C00000 / 8) 0x0001000100010001
    courses := [(5, { held := [h] })] }

/-- A request for a course. -/
def alloc : Packet := { pkt 9 0 0 with data := [] }
set_option maxRecDepth 8000 in
theorem witness_CoursesAndLoss_tables :
    (∃ u n : Nat, isSupCore u = true ∨ 64 ≤ n) ∧ (∃ u n : Nat, isSupCore u = false ∧ n < 64) ∧
    (∃ c : Nat, 4096 ≤ c) ∧ (∃ c : Nat, c < 4096) ∧
    (∃ (s : State) (p : Packet), p.type = 9 ∧ p.data = [] ∧ packetHere s p = true ∧ s.svcmode.getLsbD 2 = true) ∧
    (∃ (s : State) (p : Packet), p.type = 9 ∧ p.data = [] ∧ packetHere s p = true ∧ s.svcmode.getLsbD 2 = false ∧
      ∀ c, c < 4096 → courseValid (courseEntry s p.dstDie c) = true) ∧
    (∃ (s : State) (p : Packet) (c : Nat), p.type = 9 ∧ p.data = [] ∧ packetHere s p = true ∧ s.svcmode.getLsbD 2 = false ∧ c < 4096 ∧
      courseValid (courseEntry s p.dstDie c) = false ∧ ∀ k, k < c → courseValid (courseEntry s p.dstDie k) = true) ∧
    (∃ (s : State) (p : Packet), p.type = 10 ∧ packetHere s p = true ∧ courseOwned s p = false) ∧
    (∃ (s : State) (p : Packet), p.type = 10 ∧ packetHere s p = true ∧ courseOwned s p = true) :=
  ⟨⟨0, 64, .inr (by decide)⟩, ⟨31, 63, by decide, by decide⟩, ⟨4096, by decide⟩, ⟨4095, by decide⟩,
    ⟨{ s0 with svcmode := 4 }, alloc, rfl, rfl, by decide, rfl⟩, ⟨sCourses 4096, alloc, rfl, rfl, rfl, rfl, fun c h => course_taken h⟩,
    ⟨sCourses 4095, alloc, 4095, rfl, rfl, rfl, rfl, by decide, course_free 4095, fun c h => course_taken h⟩,
    ⟨s0, pkt 10 0 0, rfl, by decide, by decide⟩, ⟨sCourse {}, pkt 10 0 0, rfl, by decide, by decide⟩⟩

set_option maxRecDepth 8000 in
theorem witness_CoursesAndLoss_senders :
    (∀ g : Nat, g = 0 ∨ g = 1 ∨ g = 2 → ∃ (s : State) (p : Packet) (u n : Nat) (b : EpochBuf) (r : Packet), p.type = 7 ∧ p.dstPkg = s.pkg ∧
      fabricHere s p.dstDie = true ∧ p.tagOk = true ∧ senderSlot s p = some (u, n) ∧ (slotSt s u n).buf.find? (fun b => b.epoch == p.epoch) = some b ∧
      b.ridge = some r ∧ (g = 0 → p.gen ≤ b.gen ∧ p.keyId = r.keyId) ∧
      (g = 1 → b.gen < p.gen ∧ p.keyId = r.keyId) ∧ (g = 2 → p.keyId ≠ r.keyId)) ∧
    (∃ (s : State) (p : Packet), p.dstPkg = s.pkg ∧ p.type = 7 ∧ p.tagOk = true ∧ senderSlot s p = none) ∧
    (∃ (s : State) (p : Packet) (u n : Nat), p.type = 7 ∧ p.dstPkg = s.pkg ∧ fabricHere s p.dstDie = true ∧ p.tagOk = true ∧
      senderSlot s p = some (u, n) ∧ ∀ b ∈ (slotSt s u n).buf, b.epoch = p.epoch → b.ridge = none) ∧
    (∃ (s : State) (u n : Nat) (b : EpochBuf) (r : Packet), b.ridge = some r ∧ b ∈ (slotSt s u n).buf ∧
      (s.die (dieOf u)).fabricUp = true) ∧
    (∃ (s : State) (u n : Nat), (slotSt s u n).buf ≠ [] ∧
      ∀ b ∈ (slotSt s u n).buf, b.ridge ≠ none → s.now (dieOf u) < b.closedAt + tconfNs s (dieOf u)) ∧
    (∀ g : Nat, g = 2 ∨ g = 3 → ∃ (s : State) (u n : Nat) (b : EpochBuf) (bs : List EpochBuf), (slotSt s u n).buf = b :: bs ∧
      b.ridge ≠ none ∧ b.closedAt + tconfNs s (dieOf u) ≤ s.now (dieOf u) ∧ b.gen = g) ∧
    (∃ (s : State) (u n g : Nat) (a : AtomOut), (slotSt s u n).atomics.find? (fun a => a.tag == g) = some a ∧
      s.now (dieOf u) < a.since + tlostNs s (dieOf u)) ∧
    (∀ k : Nat, k = 2 ∨ k = 3 → ∃ (s : State) (u n g : Nat) (a : AtomOut), (slotSt s u n).atomics.find? (fun a => a.tag == g) = some a ∧
      a.since + tlostNs s (dieOf u) ≤ s.now (dieOf u) ∧ a.resends = k ∧ (s.die (dieOf u)).fabricUp = true) ∧
    (∀ broken : Bool, ∃ (s : State) (u n : Nat), slotValid s u n = true ∧ slotBroken s u n = broken) ∧
    (∃ (s : State) (u n low : Nat), slotValid s u n = true ∧ slotBroken s u n = false ∧ fabricHere s (dieOf u) = true ∧
      (low + 256 - slotConf s u n) % 256 ≤ (slotEpoch s u n + 256 - slotConf s u n) % 256) :=
  ⟨fun g h => ⟨sSlot { buf := [aKept 0] } 0 false, { pkt 7 g 0 with keyId := if g = 2 then 9 else 0 }, 0, 0, aKept 0, pkt 1 0 0,
      by rcases h with rfl | rfl | rfl <;> exact ⟨rfl, rfl, rfl, rfl, by decide, rfl, rfl, by decide, by decide, by decide⟩⟩,
    ⟨s0, pkt 7 0 0, rfl, rfl, rfl, by decide⟩, ⟨sSlot {} 0 false, pkt 7 0 0, 0, 0, rfl, rfl, rfl, rfl, by decide, nofun⟩,
    ⟨sSlot { buf := [aKept 0] } 0 false, 0, 0, _, _, rfl, List.mem_cons_self, rfl⟩,
    ⟨sSlot { buf := [aKept 0] } 999 false, 0, 0, by decide, by decide⟩,
    fun g h => ⟨sSlot { buf := [aKept g] } 1000 false, 0, 0, aKept g, [], by
      rcases h with rfl | rfl <;> exact ⟨rfl, by decide, by decide, rfl⟩⟩,
    ⟨sSlot { atomics := [anAtomic 0] } 999 false, 0, 0, 3, anAtomic 0, rfl, by decide⟩,
    fun k h => ⟨sSlot { atomics := [anAtomic k] } 1000 false, 0, 0, 3, anAtomic k, by
      rcases h with rfl | rfl <;> exact ⟨rfl, by decide, rfl, rfl⟩⟩,
    fun broken => ⟨sSlot {} 0 broken, 0, 0, by cases broken <;> exact ⟨by decide, by decide⟩⟩,
    ⟨sSlot {} 0 false, 0, 0, 0, by decide, by decide, rfl, by decide⟩⟩

set_option maxRecDepth 8000 in
theorem witness_CoursesAndLoss_receivers :
    (∀ g : Nat, g = 2 ∨ g = 3 → ∃ (s : State) (d c : Nat) (h : HeldRidge), heldOf s d c (courseLow (courseEntry s d c)) = some h ∧
      countMet s d c 0 h = false ∧ h.since + tlostNs s d ≤ s.now d ∧
      (g = 3 → (courseSt s d c).raised0 + tlostNs s d ≤ s.now d) ∧ courseValid (courseEntry s d c) = true ∧
      courseBroken (courseEntry s d c) = false ∧ courseGen (courseEntry s d c) 0 = g ∧ (s.die d).fabricUp = true ∧ d < 8) ∧
    (∃ (s : State) (d c : Nat), (courseSt s d c).held = [] ∧ ∀ k, k < 2 → courseGen (courseEntry s d c) k ≠ 3) ∧
    (∃ (s : State) (d : Nat), (s.die d).alive = true ∧ s.now d < (s.die d).lastDigest + digperNs s d) ∧
    (∃ (s : State) (d : Nat), (s.die d).alive = true ∧ (s.die d).fabricUp = true ∧ (s.die d).lastDigest + digperNs s d ≤ s.now d) :=
  ⟨fun g h => ⟨sLost g (ridgeHeld 1 0 2), 0, 5, ridgeHeld 1 0 2, by
      rcases h with rfl | rfl <;> exact ⟨by decide, by decide, by decide, by decide, by decide, by decide, by decide, rfl, by decide⟩⟩,
    ⟨s0, 0, 5, rfl, by decide⟩, ⟨sSlot {} 999 false, 0, rfl, by decide⟩, ⟨sSlot {} 1000 false, 0, rfl, rfl, by decide⟩⟩
/-! ## Ill-formed terms: one for each field code of R119 that a check of R118 can report -/

/-- The instruction is ill-formed, and the field that the checks report has the code, parcel and lowest bit. -/
def refusesAt (i : Instr) (code parcel bit : Nat) : Bool := !i.wf && illegalField 16 i == some (.illegal code parcel bit)

theorem wf_formatN : refusesAt (.nop { g := always, rsv := 1 }) 22 0 15 = true ∧ refusesAt (.exit { g := always, rsv := 4 }) 22 0 15 = true := by decide
theorem wf_formatU : refusesAt (.brx { g := always, d := 1, a := reg 2 }) 2 0 15 = true ∧ refusesAt (.trap { g := always, d := 1, a := reg 2 }) 3 0 23 = true ∧
    refusesAt (.brx { g := always, d := 0, a := reg 3 }) 3 0 23 = true := by decide
theorem wf_formatJ : refusesAt (.bra { g := always, d := 1, a := reg 0, disp := 0 }) 2 0 15 = true ∧
    refusesAt (.bcol { g := always, d := 64, a := reg 0, disp := 0 }) 2 0 15 = true ∧
    refusesAt (.call { g := always, d := 0, a := reg 1, disp := 0 }) 3 0 23 = true := by decide
theorem wf_formatG : refusesAt (.rgn { g := always, base := 0, rsv := 1, mask := 1 }) 22 0 23 = true ∧
    refusesAt (.rgn { g := always, base := 0, rsv := 0, mask := 0x1FFFF }) 19 1 0 = true ∧
    refusesAt (.rgn { g := always, base := 255, rsv := 0, mask := 2 }) 19 1 0 = true := by decide
theorem wf_formatS : refusesAt (.mfsr (opS 0x3FF)) 17 1 0 = true ∧ refusesAt (.mfsr { opS 0x020 with d := 3 }) 2 0 15 = true ∧
    refusesAt (.mfsr { opS 0x000 with du := true }) 11 1 10 = true ∧ refusesAt (.mfsr { opS 0 with ua := true }) 10 1 11 = true ∧
    refusesAt (.mfsr { opS 0 with rsv := 1 }) 23 1 12 = true ∧ refusesAt (.mtsr { opS 0x001 with d := 0 }) 17 1 0 = true ∧
    refusesAt (.mtsr { opS 0x022 with d := 0, a := reg 5 }) 3 0 23 = true := by decide
theorem wf_formatT_registers : refusesAt (.add (opT 2 3 4 6 0)) 2 0 15 = true ∧ refusesAt (.add (opT 2 2 5 6 0)) 3 0 23 = true ∧
    refusesAt (.add (opT 2 2 4 7 0)) 4 1 0 = true ∧ refusesAt (.add { opT 0 1 64 2 0 with ua := true }) 3 0 23 = true ∧
    refusesAt (.abs (opT 0 1 2 3 0)) 3 0 23 = true ∧ refusesAt (.cmpLt (opT 0 8 1 2 0)) 2 0 15 = true ∧
    refusesAt (.unpack (opT 6 6 0 1 0)) 2 0 15 = true ∧ refusesAt (.pack (opT 6 1 6 0 0)) 3 0 23 = true := by decide
theorem wf_formatT_codes : refusesAt (.add (opT 0 1 2 3 1)) 5 1 9 = true ∧ refusesAt (.sel (opT 15 1 2 3 16)) 5 1 9 = true ∧
    refusesAt (.fadd (opT 0 1 2 3 0)) 6 1 18 = true ∧ refusesAt (.fadd { opT 3 1 2 3 0 with rnd := 5 }) 8 1 22 = true ∧
    refusesAt (.add { opT 0 1 2 3 0 with rnd := 1 }) 8 1 22 = true ∧ refusesAt (.min { opT 0 1 2 3 0 with sat := true }) 9 1 25 = true ∧
    refusesAt (.add { opT 0 1 2 3 0 with uc := true }) 10 1 28 = true ∧ refusesAt (.add { opT 0 1 2 3 0 with du := true }) 11 1 29 = true ∧
    refusesAt (.cmpEq { opT 0 1 2 3 0 with du := true, ua := true, ub := true }) 11 1 29 = true ∧
    refusesAt (.add { opT 0 1 2 3 0 with rsv := 1 }) 23 1 30 = true := by decide
theorem wf_formatI : refusesAt (.reduxAdd { opT 0 1 2 0 0 with lit := some 1 }) 21 2 0 = true ∧
    refusesAt (.fadd { opT 4 1 2 0 0 with lit := some 0x10000 }) 21 2 0 = true ∧
    refusesAt (.gcall { opT 15 1 0 0 0 with lit := some 4096 }) 21 2 0 = true ∧
    (Instr.gcall (opT 15 1 0 0 0)).wf = false ∧ (Instr.movi (opT 0 1 0 0 0)).wf = false := by decide
theorem wf_formatM : refusesAt (.ld (opM 0 15 2 1 3 0)) 3 0 23 = true ∧ refusesAt (.st (opM 0 15 3 0 2 5)) 4 1 0 = true ∧
    refusesAt (.ld (opM 0 13 0 1 2 0)) 6 1 9 = true ∧ refusesAt (.ld { opM 0 15 2 1 2 0 with raw := true }) 7 1 13 = true ∧
    refusesAt (.migr (opM 1 15 0 0 2 0)) 12 1 14 = true ∧ refusesAt (.ld { opM 0 15 2 1 2 0 with scope := 6 }) 13 1 16 = true ∧
    refusesAt (.fence (opM 0 15 0 0 0 0)) 13 1 16 = true ∧ refusesAt (.st { opM 0 15 2 0 2 4 with scope := 4, ord := 1 }) 14 1 19 = true ∧
    refusesAt (.atomAdd (opM 0 2 2 4 2 6)) 15 1 21 = true ∧ refusesAt (.ld { opM 0 15 2 1 2 0 with ub := true }) 10 1 25 = true ∧
    refusesAt (.fence { opM 0 15 0 0 0 0 with scope := 4, ord := 3, off := 1 }) 16 1 26 = true ∧
    refusesAt (.ld { opM 0 15 2 1 2 0 with off := 1, off32 := some 0 }) 16 1 26 = true ∧
    refusesAt (.st (opM 0 15 2 1 2 4)) 2 0 15 = true := by decide
theorem wf_formatX : refusesAt (.azero (opX 0 1 0 0 0)) 20 0 19 = true ∧ refusesAt (.azero { opX 0 0 0 0 0 with rsv1 := 1 }) 22 0 30 = true ∧
    refusesAt (.mma (opX 0 1 2 0 0)) 18 1 0 = true ∧ refusesAt (.azero (opX 0 0 0 0 2)) 18 1 8 = true ∧
    refusesAt (.azero { opX 0 0 0 0 0 with ub := true }) 10 1 25 = true ∧ refusesAt (.azero { opX 0 0 0 0 0 with rsv2 := 1 }) 23 1 26 = true ∧
    refusesAt (.tld { opX 0 0 0 0 0 with fa := 4, b := reg 5, ub := true }) 4 1 16 = true := by decide
/-- A convergence register that the kernel's .conv does not cover (R39, R118). -/
theorem wf_conv : illegalField 4 (.azero (opX 4 0 0 0 0)) = some (.illegal 20 0 15) ∧ illegalField 4 (.shflIdx (opT 15 1 2 3 4)) = some (.illegal 5 1 9) := by
  decide
/-- Check 5 before check 6, and within one the lowest parcel and bit (R118). -/
theorem wf_order : refusesAt (.add { opT 15 1 2 3 1 with rsv := 1 }) 5 1 9 = true ∧ refusesAt (.add { opT 15 1 2 3 0 with rsv := 1 }) 23 1 30 = true := by
  decide
/-! ## Decoding: for every instruction a word written out from the spec's encoding (R105 to R123) -/

def oN : OpN := { g := always, rsv := 0 }
def w (r : BitVec 8) : Src := ⟨true, r⟩
/-- A second and a third parcel over a first. -/
def parcels (p0 p1 : Nat) (p2 : Nat := 0) : Nat := p0 + 2 ^ 32 * (p1 + 2 ^ 32 * p2)
def oT (ty : BitVec 4) (d : BitVec 8) (a b : Src) (c : BitVec 9) : OpT := { opT ty d 0 0 c with a := a, b := b }

theorem decode_formatN : ∀ e ∈ [(0x00003800, Instr.nop oN), (0x00003804, .bkpt oN), (0x0000381C, .ret oN), (0x00003820, .eret oN), (0x00003824, .exit oN),
    (0x0000382C, .yield oN), (0x00003840, .barGrp oN), (0x00003844, .barGang oN), (0x0000385C, .gret oN), (0x00003894, .tdone oN)],
    decodeTableWord 32 e.1 = some e.2 := by decide
theorem decode_formatUP : ∀ e ∈ [(0x0002B808, Instr.trap { g := always, d := 5, a := reg 0 }), (0x0003B80C, .syscall { g := always, d := 7, a := reg 0 }),
    (0x8A003814, .brx { g := always, d := 0, a := w 20 }), (0x84813868, .mov { g := always, d := 2, a := w 9 }), (0x81813930, .not { g := always, d := 2, a := w 3 }),
    (0x8181394C, .brev { g := always, d := 2, a := w 3 }), (0x81813950, .clz { g := always, d := 2, a := w 3 }),
    (0x81813954, .popc { g := always, d := 2, a := w 3 }), (0x8845B864, .plop { g := always, pd := 3, pa := 1, pb := 2, lut := 0x88 })],
    decodeTableWord 32 e.1 = some e.2 := by decide
theorem decode_formatJ :
    decodeTableWord 64 (parcels 0x00003811 0xFFFFFFF8) = some (.bra { g := always, d := 0, a := reg 0, disp := 0xFFFFFFF8 }) ∧
    decodeTableWord 64 (parcels 0x00003819 0x10) = some (.call { g := always, d := 0, a := reg 0, disp := 0x10 }) ∧
    decodeTableWord 64 (parcels 0x8381B829 0x10) = some (.spawn { g := always, d := 3, a := w 7, disp := 0x10 }) ∧
    decodeTableWord 64 (parcels 0x8602B831 0x10) = some (.bcol { g := always, d := 5, a := w 12, disp := 0x10 }) := by decide
theorem decode_formatS :
    decodeTableWord 64 (parcels 0x0001B839 0x1) = some (.mfsr { g := always, d := 3, a := reg 0, csrn := 1, du := false, ua := false, rsv := 0 }) ∧
    decodeTableWord 64 (parcels 0x8200383D 0x22) = some (.mtsr { g := always, d := 0, a := w 4, csrn := 0x22, du := false, ua := false, rsv := 0 }) := by decide
theorem decode_integers : ∀ e ∈ [(0x8302B901, Instr.add), (0x8302B905, .sub), (0x8302B909, .mul), (0x8302B90D, .mulhi), (0x8302B91D, .min), (0x8302B921, .max),
    (0x8302B925, .and), (0x8302B929, .or), (0x8302B92D, .xor), (0x8302B93D, .shra), (0x8302B949, .bfx)],
    decodeTableWord 64 (parcels e.1 0x107) = some (e.2 (oT 0 5 (w 6) (w 7) 0)) := by decide
theorem decode_integerOthers :
    (∀ e ∈ [(0x8302B935, Instr.shl), (0x8302B939, .shr), (0x8302B941, .rot)],
      decodeTableWord 64 (parcels e.1 0x00040107) = some (e.2 (oT 1 5 (w 6) (w 7) 0))) ∧
    (∀ e ∈ [(0x8302B912, Instr.mad), (0x8302B946, .bfi), (0x8302B95E, .idp4)],
      decodeTableWord 96 (parcels e.1 0x00020E00 0x64) = some (e.2 { oT 0 5 (w 6) (reg 0) 0x107 with lit := some 0x64 })) ∧
    (∀ e ∈ [(0x00023915, Instr.abs), (0x00023919, .neg)], decodeTableWord 64 (parcels e.1 0x109) = some (e.2 (oT 0 4 (reg 0) (w 9) 0))) ∧
    (∀ e ∈ [(0x8080B961, Instr.cmpEq), (0x8080B965, .cmpNe), (0x8080B969, .cmpLt), (0x8080B96D, .cmpLe), (0x8080B971, .cmpGt), (0x8080B975, .cmpGe)],
      decodeTableWord 64 (parcels e.1 0x102) = some (e.2 (oT 0 1 (w 1) (w 2) 0))) ∧
    decodeTableWord 64 (parcels 0x8302B959 0x00040507) = some (.lea (oT 1 5 (w 6) (w 7) 2)) ∧
    decodeTableWord 64 (parcels 0x8302B871 0x003C0507) = some (.sel (oT 15 5 (w 6) (w 7) 2)) ∧
    decodeTableWord 96 (parcels 0x0000B86E 0 0xFFFFFFFF) = some (.movi { oT 0 1 (reg 0) (reg 0) 0 with lit := some 0xFFFFFFFF }) := by decide
theorem decode_floats :
    (∀ e ∈ [(0x0184BA01, Instr.fadd), (0x0184BA05, .fsub), (0x0184BA09, .fmul)],
      decodeTableWord 64 (parcels e.1 0x088C0105) = some (e.2 { oT 3 9 (reg 3) (w 5) 0 with rnd := 2, ub := true })) ∧
    decodeTableWord 64 (parcels 0x81053A0D 0x000E0704) = some (.ffma (oT 3 10 (w 2) (w 4) 0x103)) ∧
    (∀ e ∈ [(0x0184BA11, Instr.fmin), (0x0184BA15, .fmax)],
      decodeTableWord 64 (parcels e.1 0x080C0105) = some (e.2 { oT 3 9 (reg 3) (w 5) 0 with ub := true })) ∧
    decodeTableWord 64 (parcels 0x00033A19 0x000C0107) = some (.fcvt (oT 3 6 (reg 0) (w 7) 0)) ∧
    decodeTableWord 64 (parcels 0x00033A1D 0x00CC0107) = some (.frnd { oT 3 6 (reg 0) (w 7) 0 with rnd := 3 }) ∧
    (∀ e ∈ [(0x81813A21, Instr.fcmpEq), (0x81813A25, .fcmpNe), (0x81813A29, .fcmpLt), (0x81813A2D, .fcmpLe), (0x81813A31, .fcmpGt), (0x81813A35, .fcmpGe),
        (0x81813A39, .fcmpUn), (0x81813A3D, .fcmpOrd)],
      decodeTableWord 64 (parcels e.1 0x000C0104) = some (e.2 (oT 3 2 (w 3) (w 4) 0))) ∧
    decodeTableWord 64 (parcels 0x86043A41 0x02180000) = some (.pack { oT 6 8 (w 12) (reg 0) 0 with sat := true }) ∧
    decodeTableWord 64 (parcels 0x00043A45 0x00180107) = some (.unpack (oT 6 8 (reg 0) (w 7) 0)) ∧
    ∀ e ∈ [(0x00033A49, Instr.rcp), (0x00033A4D, .rsq), (0x00033A51, .sqrt), (0x00033A55, .ex2), (0x00033A59, .lg2), (0x00033A5D, .sin), (0x00033A61, .cos)],
      decodeTableWord 64 (parcels e.1 0x000C0107) = some (e.2 (oT 3 6 (reg 0) (w 7) 0)) := by decide
theorem decode_crossLane :
    (∀ e ∈ [(0x82823A81, Instr.shflIdx), (0x82823A85, .shflUp), (0x82823A89, .shflDown), (0x82823A8D, .shflXor)],
      decodeTableWord 64 (parcels e.1 0x003C0506) = some (e.2 (oT 15 4 (w 5) (w 6) 2))) ∧
    (∀ e ∈ [(0x00013A91, Instr.voteAny), (0x00013A95, .voteAll), (0x00013A99, .voteBallot)],
      decodeTableWord 64 (parcels e.1 0x003C6200) = some (e.2 (oT 15 2 (reg 0) (reg 0) 0x31))) ∧
    (∀ e ∈ [(0x82823AA1, Instr.reduxAdd), (0x82823AA5, .reduxMin), (0x82823AA9, .reduxMax), (0x82823AAD, .reduxAnd), (0x82823AB1, .reduxOr),
        (0x82823AB5, .reduxXor)], decodeTableWord 64 (parcels e.1 0x200) = some (e.2 (oT 0 4 (w 5) (reg 0) 1))) ∧
    ∀ e ∈ [(0x82823AC1, Instr.scanAdd), (0x82823AC5, .scanMin), (0x82823AC9, .scanMax), (0x82823ACD, .scanAnd), (0x82823AD1, .scanOr),
      (0x82823AD5, .scanXor)], decodeTableWord 64 (parcels e.1 0x2200) = some (e.2 (oT 0 4 (w 5) (reg 0) 0x11)) := by decide
theorem decode_groups :
    decodeTableWord 96 (parcels 0x0000384A 0x003C0200 4) = some (.signInit { oT 15 0 (reg 0) (reg 0) 1 with lit := some 4 }) ∧
    (∀ e ∈ [(0x0000384D, Instr.signArv), (0x00003851, .signWait)], decodeTableWord 64 (parcels e.1 0x003C0200) = some (e.2 (oT 15 0 (reg 0) (reg 0) 1))) ∧
    decodeTableWord 64 (parcels 0x00083855 0xF3) = some (.rgn { g := always, base := 16, rsv := 0, mask := 0xF3 }) ∧
    decodeTableWord 96 (parcels 0x0004385A 0x003C0600 0xC) = some (.gcall { oT 15 8 (reg 0) (reg 0) 3 with lit := some 12 }) ∧
    decodeTableWord 96 (parcels 0x0001B836 0x003C0000 0xC) = some (.colrd { oT 15 3 (reg 0) (reg 0) 0 with lit := some 12 }) ∧
    (∀ e ∈ [(0x82803882, Instr.dcinit), (0x82803886, .dcadd)],
      decodeTableWord 96 (parcels e.1 0x003C0000 3) = some (e.2 { oT 15 0 (w 5) (reg 0) 0 with lit := some 3 })) ∧
    decodeTableWord 64 (parcels 0x82803889 0x003C0000) = some (.dcwait (oT 15 0 (w 5) (reg 0) 0)) ∧
    decodeTableWord 64 (parcels 0x8500388D 0x003C0000) = some (.tenq (oT 15 0 (w 10) (reg 0) 0)) ∧
    decodeTableWord 64 (parcels 0x000A3891 0x083C0103) = some (.tdeq { oT 15 20 (reg 0) (w 3) 0 with ub := true }) ∧
    decodeTableWord 96 (parcels 0x000F389A 0x003C0000 0) = some (.cbacq { oT 15 30 (reg 0) (reg 0) 0 with lit := some 0 }) ∧
    decodeTableWord 96 (parcels 0x0000389E 0x003C0000 0) = some (.cbrel { oT 15 0 (reg 0) (reg 0) 0 with lit := some 0 }) ∧
    decodeTableWord 96 (parcels 0x880038A2 0x003C0000 3) = some (.msend { oT 15 0 (w 16) (reg 0) 0 with lit := some 3 }) ∧
    decodeTableWord 96 (parcels 0x001038A6 0x003C0000 0) = some (.mrecv { oT 15 32 (reg 0) (reg 0) 0 with lit := some 0 }) := by decide
def oM (space : BitVec 2) (ty : BitVec 4) (size : BitVec 3) (d : BitVec 8) (a b : Src) : OpM := { opM space ty size d 0 0 with a := a, b := b }
theorem decode_memory :
    decodeTableWord 64 (parcels 0x85043B01 0x40401400) = some (.ld { oM 0 10 2 8 (w 10) (reg 0) with off := 16 }) ∧
    decodeTableWord 64 (parcels 0x85003B05 0x40401504) = some (.st { oM 0 10 2 0 (w 10) (w 4) with off := 16 }) ∧
    decodeTableWord 64 (parcels 0x85003B09 0x00601F04) = some (.stm (oM 0 15 3 0 (w 10) (w 4))) ∧
    decodeTableWord 64 (parcels 0x00003B0D 0x001C1E00) = some (.fence { oM 0 15 0 0 (reg 0) (reg 0) with scope := 4, ord := 3 }) ∧
    decodeTableWord 64 (parcels 0x820A3B11 0x08805F08) = some (.cpy { oM 1 15 4 20 (w 4) (w 8) with off := 2 }) ∧
    decodeTableWord 64 (parcels 0x820A3B15 0x08805E00) = some (.cpyCb { oM 1 15 4 20 (w 4) (reg 0) with off := 2 }) ∧
    decodeTableWord 64 (parcels 0x85003B19 0x00551F07) = some (.ridge { oM 0 15 2 0 (w 10) (w 7) with scope := 5, ord := 2 }) ∧
    decodeTableWord 64 (parcels 0x85003861 0x00001E00) = some (.migr (oM 0 15 0 0 (w 10) (reg 0))) ∧
    decodeTableWord 64 (parcels 0x850038A9 0x00201F03) = some (.tinv (oM 0 15 1 0 (w 10) (w 3))) ∧
    decodeTableWord 64 (parcels 0x8501B8AD 0x00001E00) = some (.lpin (oM 0 15 0 3 (w 10) (reg 0))) ∧
    ∀ e ∈ [(0x850038B1, Instr.lunpin), (0x850038B5, .cflush), (0x850038B9, .cinv)],
      decodeTableWord 64 (parcels e.1 0x00001E00) = some (e.2 (oM 0 15 0 0 (w 10) (reg 0))) := by decide
theorem decode_atomics :
    (∀ e ∈ [(0x85033B21, Instr.atomAdd), (0x85033B25, .atomMin), (0x85033B29, .atomMax), (0x85033B2D, .atomAnd), (0x85033B31, .atomOr), (0x85033B35, .atomXor),
        (0x85033B39, .atomExch), (0x85033B3D, .atomCas)],
      decodeTableWord 64 (parcels e.1 0x08540107) = some (e.2 { oM 0 0 2 6 (w 10) (w 7) with off := 2, scope := 4, ord := 2 })) ∧
    (∀ e ∈ [(0x85003B41, Instr.redAdd), (0x85003B45, .redMin), (0x85003B49, .redMax), (0x85003B4D, .redAnd), (0x85003B51, .redOr), (0x85003B55, .redXor)],
      decodeTableWord 64 (parcels e.1 0x00400307) = some (e.2 (oM 0 1 2 0 (w 10) (w 7)))) ∧
    (∀ e ∈ [(0x85003B61, Instr.dsopAdd), (0x85003B65, .dsopMin), (0x85003B69, .dsopMax), (0x85003B6D, .dsopAnd), (0x85003B71, .dsopOr), (0x85003B75, .dsopXor)],
      decodeTableWord 64 (parcels e.1 0x00808108) = some (e.2 (oM 2 0 4 0 (w 10) (w 8)))) ∧
    decodeTableWord 64 (parcels 0x85023B79 0x00808708) = some (.dsopFma (oM 2 3 4 4 (w 10) (w 8))) ∧
    (∀ e ∈ [(0x85003B81, Instr.dsredAdd), (0x85003B85, .dsredMin), (0x85003B89, .dsredMax), (0x85003B8D, .dsredAnd), (0x85003B91, .dsredOr),
        (0x85003B95, .dsredXor)], decodeTableWord 64 (parcels e.1 0x00408107) = some (e.2 (oM 2 0 2 0 (w 10) (w 7)))) ∧
    ∀ e ∈ [(0x85033BA1, Instr.dsredAddRet), (0x85033BA5, .dsredMinRet), (0x85033BA9, .dsredMaxRet), (0x85033BAD, .dsredAndRet), (0x85033BB1, .dsredOrRet),
      (0x85033BB5, .dsredXorRet)], decodeTableWord 64 (parcels e.1 0x00408107) = some (e.2 (oM 2 0 2 6 (w 10) (w 7))) := by decide
theorem decode_matrix :
    decodeTableWord 64 (parcels 0x09903BC1 0x88) = some (.mma { opX 0 2 3 1 0 with fa := 8, fb := 8 }) ∧
    (∀ e ∈ [(0x08203BC5, Instr.adrain), (0x08203BC9, .adrainByp)], decodeTableWord 64 (parcels e.1 0x4) = some (e.2 { opX 0 4 0 1 0 with fa := 4 })) ∧
    decodeTableWord 64 (parcels 0x10003BCD 0x100) = some (.azero (opX 0 0 0 2 1)) ∧
    (∀ e ∈ [(0x00003BD1, Instr.tld), (0x00003BD5, .tst)],
      decodeTableWord 64 (parcels e.1 0x03040004) = some (e.2 { opX 0 0 0 0 0 with fa := 4, b := w 4, ub := true })) ∧
    decodeTableWord 64 (parcels 0x0028BBD9 0x4) = some (.txp { opX 1 5 0 0 0 with fa := 4 }) ∧
    decodeTableWord 64 (parcels 0x0028BBDD 0x030A0108) = some (.tperm { opX 1 5 0 0 1 with fa := 8, b := w 10, ub := true }) ∧
    decodeTableWord 64 (parcels 0x3028BBE1 0x1109) = some (.trred { opX 1 5 0 6 17 with fa := 9 }) := by decide
/-! ## Single steps: the spec's worked examples -/

/-- What register `r` of fibre 0 holds after the instruction. -/
def got (i : Instr) (f : Fibre) (r : Nat) : Option Word :=
  match exec i (runs 0 (grp f)) with
  | .next t => ((t.fibre 0 0 0).bind fun f => sget f.regs r).map (·.val)
  | _ => none
/-- The predicates and the flags of fibre 0 after the instruction. -/
def gotFlags (i : Instr) (f : Fibre) : Option (BitVec 8 × BitVec 5) :=
  match exec i (runs 0 (grp f)) with
  | .next t => (t.fibre 0 0 0).map fun f => (f.preds, f.flags)
  | _ => none

/-- The table of R327's example. -/
theorem test_abs : got (.abs (opT 0 1 0 0 0)) (fib [0x80000000]) 1 = some 0x80000000 ∧
    got (.abs { opT 0 1 0 0 0 with sat := true }) (fib [0x80000000]) 1 = some 0x7FFFFFFF := by decide
theorem test_add : got (.add (opT 0 2 0 1 0)) (fib [0x7FFFFFF0, 0x20, 0]) 2 = some 0x80000010 ∧
    got (.add { opT 1 2 0 1 0 with sat := true }) (fib [0xFFFFFFF0, 0x20, 0]) 2 = some 0xFFFFFFFF := by decide
theorem test_bfx : got (.bfx (opT 0 2 0 1 0)) (fib [0xF00, 0x408, 0]) 2 = some 0xFFFFFFFF ∧
    got (.bfx (opT 1 2 0 1 0)) (fib [0xF00, 0x408, 0]) 2 = some 0xF := by decide
theorem test_bfi : got (.bfi (opT 0 3 0 1 2)) (fib [5, 0x304, 0xFFFFFFFF, 0]) 3 = some 0xFFFFFFDF := by decide
theorem test_cmp : gotFlags (.cmpLt (opT 1 1 0 1 0)) (fib [0xFFFFFFFF, 1]) = some (0x80, 0) ∧
    gotFlags (.cmpLt (opT 0 1 0 1 0)) (fib [0xFFFFFFFF, 1]) = some (0x82, 0) := by decide
/-- The table of R368's example. -/
theorem test_mul : got (.mul (opT 0 2 0 1 0)) (fib [0x10000, 0x10000, 1]) 2 = some 0 ∧
    got (.mul { opT 0 2 0 1 0 with sat := true }) (fib [0x10000, 0x10000, 1]) 2 = some 0x7FFFFFFF := by decide
theorem test_mulhi : got (.mulhi (opT 0 2 0 1 0)) (fib [0xFFFFFFFF, 1, 1]) 2 = some 0xFFFFFFFF ∧
    got (.mulhi (opT 1 2 0 1 0)) (fib [0xFFFFFFFF, 1, 1]) 2 = some 0 := by decide
theorem test_idp4 : got (.idp4 (opT 0 3 0 2 1)) (fib [0x807F02FF, 0x80010302, 100, 0]) 3 = some 0x40E7 ∧
    got (.idp4 (opT 1 3 0 2 1)) (fib [0x807F02FF, 0x80010302, 100, 0]) 3 = some 0x42E7 := by decide
theorem test_lea : got (.lea (opT 2 4 0 2 3)) (fib [0x1000, 0, 0xFFFFFFFE, 0, 1, 1]) 4 = some 0xFF0 ∧
    got (.lea (opT 2 4 0 2 3)) (fib [0x1000, 0, 0xFFFFFFFE, 0, 1, 1]) 5 = some 0 := by decide
/-- The table of R387's example. -/
theorem test_shl : got (.shl (opT 1 2 0 1 0)) (fib [1, 33, 7]) 2 = some 0 := by decide
theorem test_shra : got (.shra (opT 0 2 0 1 0)) (fib [0xFFFFFFF8, 40, 7]) 2 = some 0xFFFFFFFF := by decide
theorem test_shr : got (.shr (opT 2 4 0 2 0)) (fib [0, 0x80000000, 63, 0, 7, 7]) 4 = some 1 ∧
    got (.shr (opT 2 4 0 2 0)) (fib [0, 0x80000000, 63, 0, 7, 7]) 5 = some 0 := by decide
theorem test_rot : got (.rot (opT 1 2 0 1 0)) (fib [0x80000001, 33, 7]) 2 = some 3 := by decide
theorem test_sub : got (.sub { opT 1 2 0 1 0 with sat := true }) (fib [1, 2, 7]) 2 = some 0 := by decide
theorem test_neg : got (.neg { opT 0 1 0 0 0 with sat := true }) (fib [0x80000000, 7]) 1 = some 0x7FFFFFFF := by decide
/-- PLOP's LUT 0x88 is AND (R393). -/
theorem test_plop : gotFlags (.plop { g := always, pd := 3, pa := 1, pb := 2, lut := 0x88 }) { fib [] with preds := 0x86 } = some (0x8E, 0) ∧
    gotFlags (.plop { g := always, pd := 3, pa := 1, pb := 2, lut := 0x88 }) { fib [] with preds := 0x8A } = some (0x82, 0) := by decide
/-- The table of R358's example. -/
theorem test_fadd : got (.fadd (opT 3 2 0 1 0)) (fib [0x3F800000, 0x33800000, 0]) 2 = some 0x3F800000 ∧
    got (.fadd { opT 3 2 0 1 0 with rnd := 4 }) (fib [0x3F800000, 0x33800000, 0]) 2 = some 0x3F800001 := by decide
theorem test_fadd_flags : gotFlags (.fadd (opT 3 2 0 1 0)) (fib [0x3F800000, 0x33800000, 0]) = some (0x80, flagInx) := by decide
theorem test_fsub : got (.fsub (opT 3 2 0 1 0)) (fib [0x3F800000, 0x3F800000, 1]) 2 = some 0 ∧
    got (.fsub { opT 3 2 0 1 0 with rnd := 3 }) (fib [0x3F800000, 0x3F800000, 1]) 2 = some 0x80000000 := by decide
theorem test_fmul : got (.fmul (opT 5 2 0 1 0)) (fib [0x5CB0, 0x5CB0, 1]) 2 = some 0x7C00 ∧
    got (.fmul { opT 5 2 0 1 0 with sat := true }) (fib [0x5CB0, 0x5CB0, 1]) 2 = some 0x7BFF := by decide
theorem test_ffma : got (.ffma (opT 3 3 0 1 2)) (fib [0, 0x7FC00000, 0x7F800000, 1]) 3 = some 0x7FC00000 ∧
    gotFlags (.ffma (opT 3 3 0 1 2)) (fib [0, 0x7FC00000, 0x7F800000, 1]) = some (0x80, flagInv) := by decide
theorem test_fmin : got (.fmin (opT 3 2 0 1 0)) (fib [0x80000000, 0, 1]) 2 = some 0x80000000 ∧
    got (.fmax (opT 3 2 0 1 0)) (fib [0x7FC00000, 0x40400000, 1]) 2 = some 0x40400000 := by decide
/-- R365: `frnd.rna` of 2.5 gives 3.0, and .rne 2.0. -/
theorem test_frnd : got (.frnd { opT 3 1 0 0 0 with rnd := 1 }) (fib [0x40200000, 0]) 1 = some 0x40400000 ∧
    got (.frnd (opT 3 1 0 0 0)) (fib [0x40200000, 0]) 1 = some 0x40000000 := by decide
/-- The example of R391: `pack.e4m3.sat` of 1.0, -2.5, 500.0, 0.001, and the same without .sat. -/
theorem test_pack : got (.pack { opT 6 4 0 0 0 with sat := true }) (fib [0x3F800000, 0xC0200000, 0x43FA0000, 0x3A83126F, 0]) 4 = some 0x017EC238 ∧
    got (.pack (opT 6 4 0 0 0)) (fib [0x3F800000, 0xC0200000, 0x43FA0000, 0x3A83126F, 0]) 4 = some 0x017FC238 := by decide
/-- The table of R89's example. -/
theorem test_round : roundVal fmtE2M1 (value fmtF32 0x40D00000) .rne false = (0x7, flagInx) ∧
    roundVal fmtE2M1 (value fmtF32 0xC0E00000) .rz false = (0xF, flagInx) ∧
    roundVal fmtE2M1 (value fmtF32 0x3E800000) .rna false = (0x1, flagUfl ||| flagInx) ∧
    roundVal fmtE3M2 (value fmtF32 0x41F00000) .rne false = (0x1F, flagOfl ||| flagInx) ∧
    roundVal fmtE4M3 (value fmtF32 0x43E80000) .rne false = (0x7E, flagInx) ∧
    roundVal fmtE4M3 (value fmtF32 0x43EB0000) .rne false = (0x7F, flagOfl ||| flagInx) ∧
    roundVal fmtE5M2 (value fmtF32 0x47700000) .rne false = (0x7C, flagOfl ||| flagInx) ∧
    roundVal fmtE5M2 (value fmtF32 0x47700000) .rdn false = (0x7B, flagInx) := by decide
/-- R113: a branch of displacement 2 parcels from 0x1000 goes to 0x1008, whose BTM bit is set. -/
theorem test_bra : (match exec (.bra { g := always, d := 0, a := reg 0, disp := 2 }) (fetches 0 (grp (fib [])) nopLine) with
    | .next t => (t.fibre 0 0 0).map (·.pc)
    | _ => none) = some 0x1008 := by decide
/-- R7's example: an empty source whose wait bit is clear is REG_NOT_READY (0x0A), and the destination keeps its value. -/
theorem test_notReady :
    let f : Fibre := { fib [5, 7] with regs := [(0, { val := 5, st := .empty }), (1, { val := 7, st := .full })] }
    got (.add (opT 0 1 0 1 0)) f 1 = some 7 := by decide
/-- R389. -/
theorem test_nop : (match exec (.nop oN) s0 with | .next t => (t.fibre 0 0 0).map (·.pc) | _ => none) = some 0x1004 := by decide

end Sys2Proof.Tests
end

section
/-! Rounding a magnitude to units (R84, R85): a magnitude lies `lo` above the multiple of the unit below it and `hi` under the next one,
and each mode chooses between these two neighbours by comparing `lo` and `hi`. -/

namespace Sys2Proof.Machine

/-- R84: a magnitude `lo` above n units and `hi` under n + 1 units goes to n + 1. -/
def GoesUp (mode : Rnd) (neg : Bool) (n : Nat) (lo hi : ℚ) : Prop :=
  match mode with
  | .rne => hi < lo ∨ lo = hi ∧ n % 2 = 1
  | .rna => hi ≤ lo
  | .rz => False
  | .rdn => neg = true ∧ 0 < lo
  | .rup => neg = false ∧ 0 < lo

/-- The model's `roundUp` compares integers: `lo` and `hi` are `r` and `unit - r` steps of a finer size `s`. -/
theorem roundUp_iff_goesUp (mode : Rnd) (neg : Bool) (n r unit : Nat) {s : ℚ} (hs : 0 < s) :
    roundUp mode neg n (2 * r) unit = true ↔ GoesUp mode neg n (r * s) ((unit - r) * s) := by
  have above : (unit - r) * s < r * s ↔ unit < 2 * r := by
    rw [mul_lt_mul_iff_left₀ hs, sub_lt_iff_lt_add, ← two_mul]; exact_mod_cast Iff.rfl
  have tie : r * s = (unit - r) * s ↔ 2 * r = unit := by
    rw [mul_left_inj' hs.ne', eq_sub_iff_add_eq, ← two_mul]; exact_mod_cast Iff.rfl
  have notBelow : (unit - r) * s ≤ r * s ↔ unit ≤ 2 * r := by
    rw [mul_le_mul_iff_left₀ hs, sub_le_iff_le_add, ← two_mul]; exact_mod_cast Iff.rfl
  cases mode with
  | rne => simp [roundUp, GoesUp, above, tie]
  | rna => simp [roundUp, GoesUp, notBelow]
  | rz => simp [roundUp, GoesUp]
  | rdn => simp [roundUp, GoesUp, hs]
  | rup => simp [roundUp, GoesUp, hs]

/-- A magnitude that is a multiple of the unit never goes up. -/
theorem GoesUp.lo_pos {mode : Rnd} {neg : Bool} {n : Nat} {lo hi : ℚ} (h : GoesUp mode neg n lo hi) (hhi : 0 < hi) :
    0 < lo := by
  cases mode with
  | rne => rcases h with above | ⟨tie, -⟩ <;> linarith
  | rna => exact hhi.trans_le h
  | rz => exact h.elim
  | rdn => exact h.2
  | rup => exact h.2

theorem ratOf_succ (n : Nat) (q : Int) : ratOf false (n + 1) q = ratOf false n q + 2 ^ q := by
  simp [ratOf, add_mul]

theorem ratOf_mul_two_pow (n k : Nat) (e : Int) : ratOf false (n * 2 ^ k) e = ratOf false n (e + k) := by
  simp [ratOf, zpow_add₀]; ring

/-- What `roundUnits` answers: the magnitude's lower neighbour n or the next one, by `GoesUp`, and whether it lies off n. -/
theorem roundUnits_spec (mode : Rnd) (neg : Bool) (m : Nat) (e q : Int) :
    ∃ (n : Nat) (lo hi : ℚ), 0 ≤ lo ∧ 0 < hi ∧ lo + hi = 2 ^ q ∧ ratOf false m e = ratOf false n q + lo ∧
      ((roundUnits mode neg m e q).2 = true ↔ lo ≠ 0) ∧
      (GoesUp mode neg n lo hi ∧ (roundUnits mode neg m e q).1 = n + 1 ∨
        ¬ GoesUp mode neg n lo hi ∧ (roundUnits mode neg m e q).1 = n) := by
  have unitPos : (0 : ℚ) < 2 ^ q := by positivity
  by_cases hqe : q ≤ e
  · refine ⟨m * 2 ^ (e - q).toNat, 0, 2 ^ q, le_rfl, unitPos, zero_add _, ?_, by simp [roundUnits, hqe],
      .inr ⟨fun up => (up.lo_pos unitPos).false, by simp [roundUnits, hqe]⟩⟩
    rw [ratOf_mul_two_pow, add_zero, Int.toNat_of_nonneg (by omega), add_sub_cancel]
  · obtain ⟨k, rfl⟩ : ∃ k : Nat, q = e + k := ⟨(q - e).toNat, by omega⟩
    have stepPos : (0 : ℚ) < 2 ^ e := by positivity
    have cutLt : ((m % 2 ^ k : Nat) : ℚ) < (2 ^ k : Nat) := by exact_mod_cast Nat.mod_lt m (Nat.two_pow_pos k)
    have split : (m : ℚ) = (m / 2 ^ k * 2 ^ k : Nat) + (m % 2 ^ k : Nat) := by exact_mod_cast (Nat.div_add_mod' m _).symm
    refine ⟨m / 2 ^ k, (m % 2 ^ k : Nat) * 2 ^ e, ((2 ^ k : Nat) - (m % 2 ^ k : Nat)) * 2 ^ e, by positivity,
      mul_pos (sub_pos.2 cutLt) stepPos, ?_, ?_, ?_, ?_⟩
    · rw [← add_mul, add_sub_cancel, zpow_add₀ two_ne_zero, mul_comm]; norm_cast
    · rw [← ratOf_mul_two_pow]; simp only [ratOf]; rw [split]; push_cast; ring
    · simp [roundUnits, hqe, stepPos.ne']
    · rw [← roundUp_iff_goesUp mode neg _ _ _ stepPos]
      by_cases up : roundUp mode neg (m / 2 ^ k) (2 * (m % 2 ^ k)) (2 ^ k) = true
      · exact .inl ⟨up, by simp [roundUnits, hqe, up]⟩
      · exact .inr ⟨up, by simp [roundUnits, hqe, up]⟩

/-- Settles O25: of the two neighbours `roundUnits_spec` names, going up leaves `y - x = hi` and staying leaves `x - y = lo`. -/
theorem roundingToUnits : Obligations.RoundingToUnits := by
  refine ⟨by decide, fun mode neg m e q => ?_⟩
  obtain ⟨n, lo, hi, loNonneg, hiPos, sum, magnitude, loss, ⟨up, kept⟩ | ⟨stays, kept⟩⟩ := roundUnits_spec mode neg m e q
  · have loPos := up.lo_pos hiPos
    have error : ratOf false (n + 1) q - ratOf false m e = hi := by rw [ratOf_succ, magnitude]; linarith
    have above : ratOf false m e < ratOf false (n + 1) q := by linarith
    simp only [kept, loss, error, abs_of_pos hiPos, ← sum]
    refine ⟨by linarith, iff_of_true loPos.ne' above.ne', ?_⟩
    cases mode with
    | rne =>
      rcases up with nearer | ⟨tie, odd⟩
      · exact ⟨by linarith, fun half => by linarith⟩
      · exact ⟨by linarith, fun _ => by omega⟩
    | rna => exact ⟨by have : hi ≤ lo := up; linarith, fun _ => above⟩
    | rz => exact up.elim
    | rdn => simpa [up.1] using above.le
    | rup => simpa [up.1] using above.le
  · have error : ratOf false n q - ratOf false m e = -lo := by rw [magnitude]; ring
    have below : ratOf false n q ≤ ratOf false m e := by linarith
    simp only [kept, loss, error, abs_neg, abs_of_nonneg loNonneg, ← sum]
    refine ⟨by linarith, by rw [magnitude]; simp, ?_⟩
    cases mode with
    | rne =>
      obtain ⟨nearer, notTieOdd⟩ := not_or.1 stays
      exact ⟨by linarith, fun half => by_contra fun odd => notTieOdd ⟨by linarith, by omega⟩⟩
    | rna =>
      have nearer : lo < hi := not_le.1 stays
      exact ⟨by linarith, fun half => by linarith⟩
    | rz => exact below
    | rdn =>
      cases neg with
      | false => exact below
      | true =>
        have onUnit : lo = 0 := by_contra fun off => stays ⟨rfl, loNonneg.lt_of_ne' off⟩
        simp [magnitude, onUnit]
    | rup =>
      cases neg with
      | true => exact below
      | false =>
        have onUnit : lo = 0 := by_contra fun off => stays ⟨rfl, loNonneg.lt_of_ne' off⟩
        simp [magnitude, onUnit]

end Sys2Proof.Machine
end

section
/-! The integer entries (R322 to R327, R367, R386, R387): the exact values that the moulds compute against the forms the spec writes,
and what of a 64-bit pattern an entry's destination keeps. -/

namespace Sys2Proof

open Machine

/-! ### Values computed on exact integers -/

theorem ite_neg_eq_abs (x : Int) : (if x < 0 then -x else x) = |x| := by
  split
  · next neg => exact (abs_of_neg neg).symm
  · next nonneg => exact (abs_of_nonneg (not_lt.1 nonneg)).symm

theorem intResult_wraps (ty : BitVec 4) (x : Int) : intResult ty false x = intWrap ty x := rfl

/-- R322: without .sat, .i32 and .u32 leave one pattern. -/
theorem intResult_zero_eq_one (x : Int) : intResult 0 false x = intResult 1 false x := by
  rw [intResult_wraps, intResult_wraps, intWrap, intWrap, show intWidth 0 = intWidth 1 from rfl]

theorem intSigned_eq_decide (ty : BitVec 4) : intSigned ty = decide (ty ≠ 1) := by
  simp [intSigned, bne, beq_eq_decide]

/-- R326: BFX sign-extends a field that is not empty from its top bit, unless the type is .u32. -/
theorem bfxField_eq (ty : BitVec 4) (a : Int) (ctl : Nat) :
    bfxField ty a ctl =
      let len := ctl / 256 % 256
      let f := a / 2 ^ (ctl % 256) % 2 ^ len
      if ty ≠ 1 ∧ 0 < len ∧ 2 ^ (len - 1) ≤ f then f - 2 ^ len else f := by
  simp [bfxField, and_assoc]

/-! ### Patterns and the integers they stand for -/

theorem intWidth_of_pair {ty : BitVec 4} (h : ty = 2) : intWidth ty = 64 := if_pos h
theorem intWidth_of_single {ty : BitVec 4} (h : ty ≠ 2) : intWidth ty = 32 := if_neg h
theorem intWidth_le (ty : BitVec 4) : intWidth ty ≤ 64 := by
  by_cases pair : ty = 2
  · rw [intWidth_of_pair pair]
  · rw [intWidth_of_single pair]; decide

theorem toInt_modEq {w : Nat} (x : BitVec w) : x.toInt ≡ x.toNat [ZMOD 2 ^ w] := by
  rw [BitVec.toInt_eq_toNat_bmod]
  exact_mod_cast Int.bmod_emod

theorem intVal_modEq (ty : BitVec 4) (x : DWord) : intVal ty x ≡ x.toNat [ZMOD 2 ^ intWidth ty] := by
  by_cases pair : ty = 2
  · rw [intWidth_of_pair pair, intVal, if_pos pair]
    exact toInt_modEq x
  · have lowWord : ((x.extractLsb' 0 32).toNat : Int) ≡ x.toNat [ZMOD 2 ^ 32] := by simp [Int.ModEq]
    rw [intWidth_of_single pair, intVal, if_neg pair]
    split
    · exact lowWord
    · exact (toInt_modEq _).trans lowWord

theorem intVal_bounds (ty : BitVec 4) (x : DWord) : -2 ^ 64 ≤ intVal ty x ∧ intVal ty x < 2 ^ 64 := by
  unfold intVal
  have := x.le_toInt
  have := x.toInt_lt
  have := (x.extractLsb' 0 32).le_toInt
  have := (x.extractLsb' 0 32).toInt_lt
  have := (x.extractLsb' 0 32).isLt
  split_ifs <;> constructor <;> omega

/-- Division by 2^64 and by any higher power alike leave only the sign of a 64-bit value. -/
theorem ediv_two_pow_min {x : Int} (lo : -2 ^ 64 ≤ x) (hi : x < 2 ^ 64) (n : Nat) : x / 2 ^ min n 64 = x / 2 ^ n := by
  rcases le_total n 64 with few | many
  · rw [min_eq_left few]
  · have grows : (2 : Int) ^ 64 ≤ 2 ^ n := pow_le_pow_right₀ (by decide) many
    rw [min_eq_right many]
    rcases lt_or_ge x 0 with neg | nonneg
    · rw [Int.ediv_eq_neg_one_of_neg_of_le neg (by linarith), Int.ediv_eq_neg_one_of_neg_of_le neg (by linarith)]
    · rw [Int.ediv_eq_zero_of_lt nonneg hi, Int.ediv_eq_zero_of_lt nonneg (by linarith)]

/-! ### What a destination keeps of a pattern -/

theorem intWrap_of_modEq {ty : BitVec 4} {v : DWord} {x : Int} (h : v.toNat ≡ x [ZMOD 2 ^ intWidth ty]) :
    intWrap ty x = BitVec.ofNat 64 (v.toNat % 2 ^ intWidth ty) := by
  have low : ((v.toNat % 2 ^ intWidth ty : Nat) : Int) = x % (2 ^ intWidth ty : Nat) := by exact_mod_cast h
  rw [intWrap, wrapNat, ← low, Int.toNat_natCast]

/-- A destination keeps the low w bits of a pattern: a pair all of them, one register the low word. -/
theorem destWrites_intWrap {ty : BitVec 4} {v : DWord} {x : Int} (cls n : Nat) (h : v.toNat ≡ x [ZMOD 2 ^ intWidth ty]) :
    destWrites (ty = 2) cls n v = destWrites (ty = 2) cls n (intWrap ty x) := by
  rw [intWrap_of_modEq h]
  by_cases pair : ty = 2
  · rw [intWidth_of_pair pair, Nat.mod_eq_of_lt v.isLt, BitVec.ofNat_toNat, BitVec.setWidth_eq]
  · have low : v.extractLsb' 0 32 = (BitVec.ofNat 64 (v.toNat % 2 ^ 32)).extractLsb' 0 32 := by
      apply BitVec.eq_of_toNat_eq
      simp
    rw [intWidth_of_single pair, decide_eq_false pair, destWrites, destWrites, low]
    rfl

theorem wrote_intWrap {s : State} {c : Ctx} {o : OpT} {v : Lane → DWord} {x : Lane → Int}
    (h : ∀ ln, Active o.g c ln → (v ln).toNat ≡ x ln [ZMOD 2 ^ intWidth o.ty]) :
    wrote s c o v = wrote s c o fun ln => intWrap o.ty (x ln) :=
  wrote_congr fun ln active => destWrites_intWrap _ _ (h ln active)

/-- R322: a source of a 32-bit type is one register, so its container is zero above it. -/
theorem srcTyped_lt {c : Ctx} {f : Fibre} {ty : BitVec 4} {u : Bool} {x : Src} {v : DWord}
    (read : srcTyped c f (ty = 2) u x = .ok v) : v.toNat < 2 ^ intWidth ty := by
  by_cases pair : ty = 2
  · rw [intWidth_of_pair pair]; exact v.isLt
  · rw [intWidth_of_single pair]
    rw [decide_eq_false pair, srcTyped] at read
    cases field : srcField c f u x with
    | error stop => simp [field, bind, Except.bind] at read
    | ok r =>
      have value : r.setWidth 64 = v := by simpa [field, bind, Except.bind, pure, Except.pure] using read
      rw [← value, BitVec.toNat_setWidth]
      exact (Nat.mod_le _ _).trans_lt r.isLt

/-! ### Shifts, rotation and bit fields on patterns -/

/-- SHL cuts the count at w, where a × 2^n has no bit below w any more. -/
theorem shl_modEq (ty : BitVec 4) (a : DWord) (n : Nat) :
    (if n ≥ intWidth ty then 0 else a <<< n).toNat ≡ intVal ty a * 2 ^ n [ZMOD 2 ^ intWidth ty] := by
  split
  · next out => exact (Int.modEq_zero_iff_dvd.2 ((pow_dvd_pow 2 out).mul_left _)).symm
  · next =>
    have shifted : ((a <<< n).toNat : Int) ≡ a.toNat * 2 ^ n [ZMOD 2 ^ 64] := by
      simp [Int.ModEq, Nat.shiftLeft_eq]
    exact (shifted.of_dvd (pow_dvd_pow 2 (intWidth_le ty))).trans ((intVal_modEq ty a).mul_right _).symm

/-- SHR of a pattern below 2^w: from the count w on nothing is left of it. -/
theorem shr_toNat {ty : BitVec 4} {a : DWord} (low : a.toNat < 2 ^ intWidth ty) (n : Nat) :
    ((if n ≥ intWidth ty then 0 else a >>> n).toNat : Int) = intVal ty a % 2 ^ intWidth ty / 2 ^ n := by
  have pattern : intVal ty a % 2 ^ intWidth ty = (a.toNat : Int) := by
    rw [intVal_modEq ty a]; exact_mod_cast Nat.mod_eq_of_lt low
  rw [pattern]
  split
  · next out =>
    have gone : a.toNat / 2 ^ n = 0 := Nat.div_eq_of_lt (low.trans_le (Nat.pow_le_pow_right (by decide) out))
    exact_mod_cast gone.symm
  · simp [Nat.shiftRight_eq_div_pow]

theorem getLsbD_rotateLeft_add {w : Nat} (x : BitVec w) (n : Nat) {i : Nat} (h : i < w) :
    (x.rotateLeft n).getLsbD ((i + n) % w) = x.getLsbD i := by
  have cut : n % w < w := Nat.mod_lt _ (by omega)
  rw [BitVec.getLsbD_rotateLeft, ← Nat.add_mod_mod]
  rcases lt_or_ge (i + n % w) w with stays | wraps
  · simp [Nat.mod_eq_of_lt stays, stays]
  · have place : (i + n % w) % w = i + n % w - w := by
      rw [Nat.mod_eq_sub_mod wraps, Nat.mod_eq_of_lt (by omega)]
    have back : w - n % w + (i + n % w - w) = i := by omega
    have below : i + n % w - w < n % w := by omega
    simp [place, back, below]

/-- ROT's pattern, 64 or 32 bits wide. -/
def rotBits (ty : BitVec 4) (a : DWord) (n : Nat) : DWord :=
  if ty = 2 then a.rotateLeft (n % 64) else ((a.extractLsb' 0 32).rotateLeft (n % 32)).setWidth 64

theorem getLsbD_rotBits (ty : BitVec 4) (a : DWord) (n : Nat) {i : Nat} (h : i < intWidth ty) :
    (rotBits ty a n).getLsbD ((i + n) % intWidth ty) = a.getLsbD i := by
  by_cases pair : ty = 2
  · rw [intWidth_of_pair pair] at h ⊢
    rw [rotBits, if_pos pair, BitVec.rotateLeft_mod_eq_rotateLeft, getLsbD_rotateLeft_add _ _ h]
  · rw [intWidth_of_single pair] at h ⊢
    have inside : (i + n) % 32 < 64 := by omega
    rw [rotBits, if_neg pair, BitVec.rotateLeft_mod_eq_rotateLeft, BitVec.getLsbD_setWidth, getLsbD_rotateLeft_add _ _ h]
    simp [inside, h]

theorem getLsbD_bfiBits (a x : DWord) (ctl : Nat) {i : Nat} (h : i < 64) :
    (bfiBits a x ctl).getLsbD i =
      if ctl % 256 ≤ i ∧ i < ctl % 256 + ctl / 256 % 256 then a.getLsbD (i - ctl % 256) else x.getLsbD i := by
  generalize hpos : ctl % 256 = pos
  generalize hlen : ctl / 256 % 256 = len
  have mask : (BitVec.ofNat 64 ((2 ^ len - 1) * 2 ^ pos)).getLsbD i = decide (pos ≤ i ∧ i < pos + len) := by
    rw [BitVec.getLsbD_ofNat, Nat.testBit_mul_two_pow, Nat.testBit_two_pow_sub_one]
    simp only [h, decide_true, Bool.true_and, ← Bool.decide_and]
    exact decide_eq_decide.2 (by omega)
  simp only [bfiBits, hpos, hlen, BitVec.getLsbD_or, BitVec.getLsbD_and, BitVec.getLsbD_not, mask, BitVec.getLsbD_shiftLeft, h]
  by_cases inField : pos ≤ i ∧ i < pos + len
  · simp [inField]
  · simp [inField]

/-! ### Each entry as a mould of its own -/

section
variable (o : OpT) (s : State)

theorem exec_abs : exec (.abs o) s = mouldB o s fun b => |b| := by
  rw [← funext ite_neg_eq_abs]; rfl
theorem exec_neg : exec (.neg o) s = mouldB o s fun b => -b := rfl
theorem exec_add : exec (.add o) s = mouldAB o s fun a b => a + b := rfl
theorem exec_sub : exec (.sub o) s = mouldAB o s fun a b => a - b := rfl
theorem exec_mul : exec (.mul o) s = mouldAB o s fun a b => a * b := rfl
theorem exec_mulhi : exec (.mulhi o) s = mouldAB o s fun a b => a * b / 2 ^ intWidth o.ty := rfl
theorem exec_min : exec (.min o) s = mouldAB o s fun a b => min a b := by
  simp only [min_def]; rfl
theorem exec_max : exec (.max o) s = mouldAB o s fun a b => max a b := by
  simp only [max_def]; rfl
theorem exec_and : exec (.and o) s = mouldBits o s fun a b => a &&& b := rfl
theorem exec_or : exec (.or o) s = mouldBits o s fun a b => a ||| b := rfl
theorem exec_xor : exec (.xor o) s = mouldBits o s fun a b => a ^^^ b := rfl
theorem exec_mad : exec (.mad o) s =
    mouldABC o s fun a b x => intResult o.ty o.sat (intVal o.ty a * intVal o.ty x + intVal o.ty b) := rfl
theorem exec_bfi : exec (.bfi o) s = mouldABC o s fun a b x => bfiBits a x b.toNat := rfl
theorem exec_shl : exec (.shl o) s = mouldShift o s fun a n => if n ≥ intWidth o.ty then 0 else a <<< n := rfl
theorem exec_shr : exec (.shr o) s = mouldShift o s fun a n => if n ≥ intWidth o.ty then 0 else a >>> n := rfl
theorem exec_shra : exec (.shra o) s = mouldShift o s fun a n => intWrap o.ty (intVal o.ty a / 2 ^ min n 64) := rfl
theorem exec_rot : exec (.rot o) s = mouldShift o s (rotBits o.ty) := rfl
theorem exec_idp4 : exec (.idp4 o) s = mouldABC o s fun a b x =>
    intResult o.ty o.sat ((byteVal (o.ty ≠ 1) a 0 * byteVal (o.ty ≠ 1) x 0 + byteVal (o.ty ≠ 1) a 1 * byteVal (o.ty ≠ 1) x 1 +
      byteVal (o.ty ≠ 1) a 2 * byteVal (o.ty ≠ 1) x 2 + byteVal (o.ty ≠ 1) a 3 * byteVal (o.ty ≠ 1) x 3) + intVal o.ty b) := by
  rw [← intSigned_eq_decide]; rfl
/-- R325: both types are one register wide, and the patterns are combined whatever the type. -/
theorem exec_and_u32 (h : o.ty = 0) : exec (.and { o with ty := 1 }) s = exec (.and o) s := by
  cases o; subst h; rfl
theorem exec_cmpEq : exec (.cmpEq o) s = compareInt o s fun a b => decide (a = b) := rfl
theorem exec_cmpNe : exec (.cmpNe o) s = compareInt o s fun a b => decide (a ≠ b) := rfl
theorem exec_cmpLt : exec (.cmpLt o) s = compareInt o s fun a b => decide (a < b) := rfl
theorem exec_cmpLe : exec (.cmpLe o) s = compareInt o s fun a b => decide (a ≤ b) := rfl
theorem exec_cmpGt : exec (.cmpGt o) s = compareInt o s fun a b => decide (b < a) := rfl
theorem exec_cmpGe : exec (.cmpGe o) s = compareInt o s fun a b => decide (b ≤ a) := rfl

end

section
variable {s : State} {c : Ctx} {o : OpT} {a : Lane → DWord}

theorem exec_bfx_done {b : Lane → DWord} (issued : Issued s o.g c) (free : DestFree c o) (readsA : ReadsA c o a)
    (readsB : ReadsB c o b) :
    exec (.bfx o) s = wrote s c o fun ln => intResult o.ty false (bfxField o.ty (intVal o.ty (a ln)) (b ln).toNat) := by
  change execBfx o s = _
  exact mould_done issued free fun ln active => by rw [readsA ln active, readsB ln active]; rfl

theorem exec_lea_done {b : Lane → Word} (issued : Issued s o.g c) (free : DestFree c o) (readsA : ReadsA c o a)
    (readsB : ReadsB32 c o b) :
    exec (.lea o) s = wrote s c o fun ln => intResult o.ty false (intVal o.ty (a ln) + (b ln).toInt * 2 ^ (o.c.toNat % 8)) := by
  change execLea o s = _
  exact mould_done issued free fun ln active => by rw [readsA ln active, readsB ln active]; rfl

end

/-! ### The decode checks of an entry that takes DU = 0 alone -/

theorem firstBad_eq_none {l : List Chk} :
    firstBad l = none ↔ l.find? (fun x => x.ph == 5 && x.bad) = none ∧ l.find? (fun x => x.ph == 6 && x.bad) = none := by
  unfold firstBad
  split
  · next found => simp [found]
  · next notFound => rw [Option.map_eq_none_iff]; exact (and_iff_right notFound).symm

/-- A list of checks that all pass, with one check 6 in it made to fail, reports that one. -/
theorem firstBad_of_only {before after : List Chk} {code parcel bit : Nat}
    (pass : firstBad (before ++ ⟨6, code, parcel, bit, false⟩ :: after) = none) :
    firstBad (before ++ ⟨6, code, parcel, bit, true⟩ :: after) = some (.illegal code parcel bit) := by
  obtain ⟨none5, none6⟩ := firstBad_eq_none.1 pass
  rw [List.find?_append, Option.or_eq_none_iff] at none5 none6
  obtain ⟨before5, after5⟩ := none5
  have still5 : (before ++ (⟨6, code, parcel, bit, true⟩ : Chk) :: after).find? (fun x => x.ph == 5 && x.bad) = none := by
    rw [List.find?_append, before5]; exact after5
  have only6 : (before ++ (⟨6, code, parcel, bit, true⟩ : Chk) :: after).find? (fun x => x.ph == 6 && x.bad) =
      some ⟨6, code, parcel, bit, true⟩ := by
    rw [List.find?_append, none6.1]; rfl
  rw [firstBad, still5, only6]; rfl

/-- Where an entry's literal check does not read DU, nor does any check but the one of field DU. -/
theorem tChecks_du {sp : TSpec} {o : OpT} (zero : sp.du = .zero)
    (lit : ∀ ok, sp.lit = some ok → ok { o with du := true } = ok { o with du := false }) (conv : Nat) :
    ∃ before after, ∀ du, tChecks sp conv { o with du := du } = before ++ ⟨6, 11, 1, 29, du⟩ :: after := by
  refine ⟨(tChecks sp conv { o with du := false }).take 19, (tChecks sp conv { o with du := false }).drop 20, fun du => ?_⟩
  cases du with
  | false => simp [tChecks, zero]
  | true =>
    cases accepted : sp.lit with
    | none => simp [tChecks, zero, accepted]
    | some ok =>
      cases present : o.lit with
      | none => simp [tChecks, zero]
      | some l =>
        have same := lit ok accepted
        rw [present] at same
        simp [tChecks, zero, accepted, same]

/-- R111, R119: DU = 1 alone is reported as field DU. -/
theorem tChecks_du_alone {sp : TSpec} {o : OpT} {conv : Nat} (zero : sp.du = .zero)
    (lit : ∀ ok, sp.lit = some ok → ok { o with du := true } = ok { o with du := false })
    (pass : firstBad (tChecks sp conv { o with du := false }) = none) :
    firstBad (tChecks sp conv { o with du := true }) = some (.illegal 11 1 29) := by
  obtain ⟨before, after, parts⟩ := tChecks_du zero lit conv
  rw [parts] at pass ⊢
  exact firstBad_of_only pass

/-- R327: a D above 7 names no predicate; it is the first field that the checks of R118 look at. -/
theorem tChecks_pred_high {sp : TSpec} (pred : sp.d = .pred) {o : OpT} (high : 8 ≤ o.d.toNat) (conv : Nat) :
    firstBad (tChecks sp conv o) = some (.illegal 2 0 15) := by
  simp [firstBad, tChecks, pred, high]

theorem illegalField_cmp {i : OpT → Instr} (h : i ∈ [Instr.cmpEq, .cmpNe, .cmpLt, .cmpLe, .cmpGt, .cmpGe]) (conv : Nat) (o : OpT) :
    illegalField conv (i o) = firstBad (tChecks cmpSpec conv o) := by
  simp only [List.mem_cons, List.not_mem_nil, or_false] at h
  rcases h with rfl | rfl | rfl | rfl | rfl | rfl <;> rfl

/-! ### The obligations -/

/-- Settles O20: each entry is its mould on the exact integers of its sources. -/
theorem integerArithmetic : Obligations.IntegerArithmetic := by
  refine ⟨?_, ?_, ?_, fun _ _ _ _ _ => exec_lea_done, ?_, intResult_zero_eq_one, rfl, rfl, rfl, rfl, by decide, by decide⟩
  · intro s c o b issued free readsB
    have done := mouldB_done issued free readsB
    exact ⟨(exec_abs o s).trans (done _), (exec_neg o s).trans (done _)⟩
  · intro s c o a b issued free readsA readsB
    have done := mouldAB_done issued free readsA readsB
    refine ⟨(exec_add o s).trans (done _), (exec_sub o s).trans (done _), (exec_mul o s).trans (done _),
      (exec_mulhi o s).trans (done _), (exec_min o s).trans (done _), (exec_max o s).trans (done _), ?_⟩
    rw [exec_bfx_done issued free readsA readsB]
    simp only [bfxField_eq]
  · intro s c o a b x issued free readsA readsB readsC
    have done := mouldABC_done issued free readsA readsB readsC
    exact ⟨(exec_mad o s).trans (done _), (exec_idp4 o s).trans (done _)⟩
  · rintro ty (rfl | rfl) <;> decide

/-- Settles O21: the patterns that the entries compute, at the bits which their destinations keep. -/
theorem bitwiseAndShifts : Obligations.BitwiseAndShifts := by
  refine ⟨?_, fun s o => exec_and_u32 o s, ?_, ?_⟩
  · intro s c o a b issued free readsA readsB
    have done := mouldBits_done issued free readsA readsB
    exact ⟨(exec_and o s).trans (done _), (exec_or o s).trans (done _), (exec_xor o s).trans (done _)⟩
  · intro s c o a n issued free readsA readsN
    have done := mouldShift_done issued free readsA readsN
    refine ⟨?_, ?_, ?_, _, (exec_rot o s).trans (done _), fun ln i => getLsbD_rotBits o.ty (a ln) (n ln).toNat⟩
    · exact (exec_shl o s).trans ((done _).trans (wrote_intWrap fun ln _ => shl_modEq o.ty (a ln) (n ln).toNat))
    · refine (exec_shr o s).trans ((done _).trans (wrote_intWrap fun ln active => ?_))
      rw [shr_toNat (srcTyped_lt (readsA ln active))]
    · rw [exec_shra, done]
      congr 1; funext ln
      obtain ⟨lo, hi⟩ := intVal_bounds o.ty (a ln)
      rw [ediv_two_pow_min lo hi]
  · intro s c o a b x issued free readsA readsB readsC
    exact ⟨_, (exec_bfi o s).trans (mouldABC_done issued free readsA readsB readsC _),
      fun ln i inside => getLsbD_bfiBits _ _ _ (inside.trans_le (intWidth_le o.ty))⟩

/-- Settles O24: each comparison on the typed integers, and the checks of D and DU. -/
theorem integerCompare : Obligations.IntegerCompare := by
  refine ⟨?_, ?_, fun f b => rfl, ?_, by decide⟩
  · intro s c o a b issued readsA readsB free
    have done := compareInt_done issued readsA readsB free
    exact ⟨(exec_cmpEq o s).trans (done _), (exec_cmpNe o s).trans (done _), (exec_cmpLt o s).trans (done _),
      (exec_cmpLe o s).trans (done _), (exec_cmpGt o s).trans (done _), (exec_cmpGe o s).trans (done _)⟩
  · intro x
    simp [intVal, BitVec.setWidth_eq_extractLsb']
  · intro i isCmp conv o
    simp only [illegalField_cmp isCmp]
    exact ⟨fun high => tChecks_pred_high rfl high conv, tChecks_du_alone rfl (by rintro _ ⟨⟩; rfl)⟩

end Sys2Proof
end

section
/-! The floating-point comparisons (R359): the shared mould when every active lane's operands are there, and what the field checks of
R118 leave of an entry's TYPE, RND and SAT. -/

namespace Sys2Proof

open Machine

/-! ### The mould of the comparisons -/

/-- What an active lane does in a comparison of `x` and `y` (R359): `r` decides ordered operands, `onNan` is the answer when either is
a NaN, and `anyNan` says that a quiet NaN raises invalid too. -/
def fcmpEff (o : OpT) (r : Val → Val → Bool) (onNan anyNan : Bool) (x y : Val) : Eff :=
  { preds := [(o.d.toNat % 8, if x.isNan || y.isNan then onNan else r x y)],
    flags := if x.isSnan || y.isSnan || (anyNan && (x.isNan || y.isNan)) then 1 else 0 }

theorem compareFloat_done {s : State} {c : Ctx} {o : OpT} {a b : Lane → Word} (issued : Issued s o.g c) (readsA : ReadsA32 c o a)
    (readsB : ReadsB32 c o b) (free : ∀ ln, Active o.g c ln → predReady ln.f (o.d.toNat % 8) = .ok ()) (r : Val → Val → Bool)
    (onNan anyNan : Bool) :
    compareFloat o s r onNan anyNan = .next (effDone s c o.g o.len false fun ln =>
      fcmpEff o r onNan anyNan (inVal o.ty ln.f (a ln)) (inVal o.ty ln.f (b ln))) := by
  unfold compareFloat fcmpEff
  congr 1
  apply runEff_done issued
  · intro ln active
    rw [readsA ln active, readsB ln active, Bool.and_comm anyNan]
    change (do predReady _ _; _) = _
    rw [free ln active]; rfl
  · exact fun ln _ => ⟨by simp, rfl⟩

section
variable (o : OpT) (s : State)

theorem exec_fcmpEq : exec (.fcmpEq o) s = compareFloat o s (fun x y => !x.lt y && !y.lt x) false false := rfl
theorem exec_fcmpNe : exec (.fcmpNe o) s = compareFloat o s (fun x y => x.lt y || y.lt x) true false := rfl
theorem exec_fcmpLt : exec (.fcmpLt o) s = compareFloat o s (fun x y => x.lt y) false true := rfl
theorem exec_fcmpLe : exec (.fcmpLe o) s = compareFloat o s (fun x y => !y.lt x) false true := rfl
theorem exec_fcmpGt : exec (.fcmpGt o) s = compareFloat o s (fun x y => y.lt x) false true := rfl
theorem exec_fcmpGe : exec (.fcmpGe o) s = compareFloat o s (fun x y => !x.lt y) false true := rfl
theorem exec_fcmpUn : exec (.fcmpUn o) s = compareFloat o s (fun _ _ => false) true false := rfl
theorem exec_fcmpOrd : exec (.fcmpOrd o) s = compareFloat o s (fun _ _ => true) false false := rfl

end

@[simp] theorem dyUnits_zero (neg : Bool) (e q : Int) : dyUnits neg 0 e q = 0 := by
  simp [dyUnits]

theorem val_lt_zeros (n1 n2 : Bool) (e1 e2 : Int) : Val.lt (.fin n1 0 e1) (.fin n2 0 e2) = false := by
  simp [Val.lt]

/-! ### Opcodes and field checks -/

/-- R105, R123: bits 10:2 of the first parcel are the opcode. -/
theorem encode_opcode {i : Instr} {opc : Nat} {ops : Operands} (view : i.view = some (opc, ops)) :
    ((encode i).map fun p => p.1.extractLsb' 2 9) = some (BitVec.ofNat 9 opc) := by
  rw [encode, view]
  exact congrArg some (head_opc ops.head ops.guard opc ops.len)

/-- Where no check fails, a check 6 of the list has passed. -/
theorem check6_passes {l : List Chk} (pass : firstBad l = none) {code parcel bit : Nat} {bad : Bool}
    (listed : ⟨6, code, parcel, bit, bad⟩ ∈ l) : bad = false := by
  have passed := List.find?_eq_none.1 (firstBad_eq_none.1 pass).2 _ listed
  simpa using passed

section
variable {sp : TSpec} {conv : Nat} {o : OpT} (pass : firstBad (tChecks sp conv o) = none)
include pass

theorem ty_mem_of_tChecks : o.ty.toNat ∈ sp.types := by
  have passed : (!sp.types.contains o.ty.toNat) = false :=
    check6_passes (code := 6) (parcel := 1) (bit := 18) pass (by simp [tChecks])
  simpa using passed

theorem rnd_eq_zero_of_tChecks (zero : sp.rnd = .zero) : o.rnd = 0 := by
  have passed : (o.rnd != 0) = false :=
    check6_passes (code := 8) (parcel := 1) (bit := 22) pass (by simp [tChecks, zero])
  simpa using passed

theorem sat_eq_false_of_tChecks (zero : sp.sat = .zero) : o.sat = false :=
  check6_passes (code := 9) (parcel := 1) (bit := 25) pass (by simp [tChecks, zero])

end

theorem float_ty_of_mem {ty : BitVec 4} (h : ty.toNat ∈ floats) : ty = 3 ∨ ty = 4 ∨ ty = 5 := by
  simpa [floats, BitVec.toNat_eq] using h

/-- The eight entries with their opcodes (R359). -/
def fcmpEntries : List ((OpT → Instr) × Nat) :=
  [(.fcmpEq, 0x088), (.fcmpNe, 0x089), (.fcmpLt, 0x08A), (.fcmpLe, 0x08B), (.fcmpGt, 0x08C), (.fcmpGe, 0x08D), (.fcmpUn, 0x08E),
    (.fcmpOrd, 0x08F)]

theorem fcmpEntries_view {e : (OpT → Instr) × Nat} (h : e ∈ fcmpEntries) (o : OpT) : (e.1 o).view = some (e.2, .t o) := by
  simp only [fcmpEntries, List.mem_cons, List.not_mem_nil, or_false] at h
  rcases h with rfl | rfl | rfl | rfl | rfl | rfl | rfl | rfl <;> rfl

theorem illegalField_fcmp {e : (OpT → Instr) × Nat} (h : e ∈ fcmpEntries) (conv : Nat) (o : OpT) :
    illegalField conv (e.1 o) = firstBad (tChecks fcmpSpec conv o) := by
  simp only [fcmpEntries, List.mem_cons, List.not_mem_nil, or_false] at h
  rcases h with rfl | rfl | rfl | rfl | rfl | rfl | rfl | rfl <;> rfl

/-! ### The obligation -/

/-- Settles O28: each entry is the mould under its row of R359's table, and the field checks name TYPE, RND, SAT, D and DU. -/
theorem floatCompare : Obligations.FloatCompare := by
  refine ⟨?_, val_lt_zeros, fun f b => rfl, ?_, by decide⟩
  · intro s c o a b issued readsA readsB free
    have done := compareFloat_done issued readsA readsB free
    exact ⟨(exec_fcmpEq o s).trans (done _ _ _), (exec_fcmpNe o s).trans (done _ _ _), (exec_fcmpLt o s).trans (done _ _ _),
      (exec_fcmpLe o s).trans (done _ _ _), (exec_fcmpGt o s).trans (done _ _ _), (exec_fcmpGe o s).trans (done _ _ _),
      (exec_fcmpUn o s).trans (done _ _ _), (exec_fcmpOrd o s).trans (done _ _ _)⟩
  · intro e entry conv o
    change e ∈ fcmpEntries at entry
    simp only [illegalField_fcmp entry]
    exact ⟨encode_opcode (fcmpEntries_view entry o),
      fun pass => ⟨float_ty_of_mem (ty_mem_of_tChecks pass), rnd_eq_zero_of_tChecks pass rfl, sat_eq_false_of_tChecks pass rfl⟩,
      fun high => tChecks_pred_high rfl high conv, tChecks_du_alone rfl (by rintro _ ⟨⟩; rfl)⟩

end Sys2Proof
end

section
/-! The entries of format U on one vector register, the moves and selections, predicate logic and NOP (R28, R338, R382, R383, R388, R389,
R393, R404): what the patterns computed by their loops are bit by bit, and the shared mould of format U. -/

namespace Sys2Proof

open Machine

/-! ### Patterns built or counted bit by bit -/

theorem popCount_eq_countP {n : Nat} (x : BitVec n) : popCount x = (List.range n).countP fun i => x.getLsbD i :=
  List.countP_eq_length_filter.symm

/-- The number whose bit `i`, for `i < n`, is `p i`, summed up as the model's BREV does (R338). -/
def bitSum (p : Nat → Bool) (n : Nat) : Nat := ((List.range n).map fun i => if p i then 2 ^ i else 0).foldl (· + ·) 0

theorem reverseBits_eq_bitSum (x : Word) : reverseBits x = BitVec.ofNat 32 (bitSum (fun i => x.getLsbD (31 - i)) 32) := rfl

theorem bitSum_succ (p : Nat → Bool) (n : Nat) : bitSum p (n + 1) = (if p n then 2 ^ n else 0) + bitSum p n := by
  simp [bitSum, List.range_succ, Nat.add_comm]

theorem bitSum_lt (p : Nat → Bool) (n : Nat) : bitSum p n < 2 ^ n := by
  induction n with
  | zero => exact Nat.one_pos
  | succ n ih => rw [bitSum_succ]; split <;> omega

theorem testBit_bitSum (p : Nat → Bool) {n i : Nat} (inside : i < n) : (bitSum p n).testBit i = p i := by
  induction n with
  | zero => omega
  | succ n ih =>
    rw [bitSum_succ]
    rcases Nat.lt_succ_iff_lt_or_eq.1 inside with below | rfl
    · cases p n with
      | false => simpa using ih below
      | true => simpa [Nat.testBit_two_pow_add_gt below] using ih below
    · have clear : (bitSum p i).testBit i = false := Nat.testBit_lt_two_pow (bitSum_lt p i)
      cases p i with
      | false => simpa using clear
      | true => simp [Nat.testBit_two_pow_add_eq, clear]

theorem getLsbD_reverseBits (x : Word) {i : Nat} (inside : i < 32) : (reverseBits x).getLsbD i = x.getLsbD (31 - i) := by
  rw [reverseBits_eq_bitSum, BitVec.getLsbD_ofNat, testBit_bitSum _ inside]
  simp [inside]

/-- R338: the highest 1 bit of a word other than 0 has the number 31 − `leadingZeros`. -/
theorem leadingZeros_add_log2 {x : Word} (nonzero : x ≠ 0) : leadingZeros x + x.toNat.log2 = 31 := by
  have top : x.toNat.log2 < 32 := (Nat.log2_lt (by simpa [BitVec.toNat_eq] using nonzero)).2 x.isLt
  rw [leadingZeros, if_neg nonzero]
  omega

theorem leadingZeros_le (x : Word) : leadingZeros x ≤ 32 := by
  unfold leadingZeros; split <;> omega

theorem getLsbD_of_leadingZeros {x : Word} {i : Nat} (high : 32 - leadingZeros x ≤ i) : x.getLsbD i = false := by
  by_cases zero : x = 0
  · simp [zero]
  · have above : x.toNat.log2 + 1 ≤ i := by have := leadingZeros_add_log2 zero; omega
    exact Nat.testBit_lt_two_pow (Nat.lt_log2_self.trans_le (Nat.pow_le_pow_right Nat.two_pos above))

theorem getLsbD_leadingZeros {x : Word} (present : leadingZeros x < 32) : x.getLsbD (31 - leadingZeros x) = true := by
  have nonzero : x ≠ 0 := by rintro rfl; exact absurd present (by decide)
  have highest : 31 - leadingZeros x = x.toNat.log2 := by have := leadingZeros_add_log2 nonzero; omega
  rw [highest]
  exact Nat.testBit_log2 (by simpa [BitVec.toNat_eq] using nonzero)

theorem toNat_ofNat_leadingZeros (x : Word) : (BitVec.ofNat 32 (leadingZeros x)).toNat = leadingZeros x :=
  Nat.mod_eq_of_lt ((leadingZeros_le x).trans_lt (by decide))

/-- R110, R383: a .bf16 or .f16 literal is its low half, zero-extended. -/
theorem ofNat_low_half (l : Word) : BitVec.ofNat 64 (l.toNat % 65536) = (l.extractLsb' 0 16).setWidth 64 := by
  apply BitVec.eq_of_toNat_eq
  simp

/-! ### Predicates -/

theorem srcPred_of_ready {f : Fibre} {n : Nat} (ready : predReady f n = .ok ()) : srcPred f n = .ok (f.pred n) := by
  rw [srcPred, ready]; rfl

theorem getLsbD_one_shiftLeft {n k : Nat} (inside : k < 8) : (1#8 <<< n).getLsbD k = decide (n = k) := by
  rw [← BitVec.twoPow_eq, BitVec.getLsbD_twoPow]
  simp; omega

theorem getLsbD_preds_setPred (f : Fibre) {n k : Nat} (b : Bool) (writable : n < 7) (inside : k < 8) :
    (f.setPred n b).preds.getLsbD k = if n = k then b else f.preds.getLsbD k := by
  rw [Fibre.setPred, if_neg (by omega)]
  cases b with
  | false =>
    simp only [Bool.false_eq_true, if_false, BitVec.getLsbD_and, BitVec.getLsbD_not, getLsbD_one_shiftLeft inside, inside]
    split <;> simp [*]
  | true =>
    simp only [if_true, BitVec.getLsbD_or, getLsbD_one_shiftLeft inside]
    split <;> simp [*]

/-- R28: the write of one of p0 to p6 is read back, and no other predicate changes. -/
theorem pred_setPred (f : Fibre) {n k : Nat} (b : Bool) (writable : n < 7) (inside : k < 8) :
    (f.setPred n b).pred k = if k = n then b else f.pred k := by
  rw [Fibre.pred, getLsbD_preds_setPred f b writable inside]
  split
  · next same => simp [← same, writable.ne]
  · next other => rw [if_neg (Ne.symm other), Fibre.pred]

/-! ### The entries when every active lane's operands are there -/

/-- The mould of format U (R338, R382, R388). -/
theorem unary_done {s : State} {c : Ctx} {o : OpU} {a : Lane → Word} (issued : Issued s o.g c)
    (ready : ∀ ln, Active o.g c ln → srcField c ln.f false o.a = .ok (a ln) ∧ destReady c ln.f 0 o.d.toNat = .ok ()) (r : Word → Word) :
    unary o s r = .next (effDone s c o.g 1 false fun ln => { regs := [(0, o.d.toNat, r (a ln))] }) := by
  unfold unary
  congr 1
  apply runEff_done issued
  · intro ln active
    obtain ⟨source, dest⟩ := ready ln active
    rw [source]
    change (do destReady _ _ _ _; _) = _
    rw [dest]; rfl
  · exact fun ln _ => ⟨by simp, rfl⟩

section
variable (o : OpU) (s : State)

theorem exec_mov : exec (.mov o) s = unary o s fun x => x := rfl
theorem exec_not : exec (.not o) s = unary o s fun x => ~~~x := rfl
theorem exec_popc : exec (.popc o) s = unary o s fun x => BitVec.ofNat 32 (popCount x) := rfl
theorem exec_clz : exec (.clz o) s = unary o s fun x => BitVec.ofNat 32 (leadingZeros x) := rfl
theorem exec_brev : exec (.brev o) s = unary o s reverseBits := rfl

end

section
variable {s : State} {c : Ctx}

theorem exec_movi_done {o : OpT} {l : Word} (issued : Issued s o.g c) (free : DestFree c o) (lit : o.lit = some l) :
    exec (.movi o) s = wrote s c o fun _ =>
      if o.ty = 2 then l.signExtend 64 else if o.ty = 4 ∨ o.ty = 5 then (l.extractLsb' 0 16).setWidth 64 else l.setWidth 64 := by
  change execMovi o s = _
  exact mould_done issued free fun ln _ => by simp [lit, ofNat_low_half]

theorem exec_sel_done {o : OpT} {a b : Lane → DWord} (issued : Issued s o.g c) (free : DestFree c o) (readsA : ReadsA c o a)
    (readsB : ReadsB c o b) (ready : ∀ ln, Active o.g c ln → predReady ln.f (o.c.toNat % 8) = .ok ()) :
    exec (.sel o) s = wrote s c o fun ln => if ln.f.pred (o.c.toNat % 8) ≠ o.c.getLsbD 3 then a ln else b ln := by
  change execSel o s = _
  refine mould_done issued free fun ln active => ?_
  rw [srcPred_of_ready (ready ln active), readsA ln active, readsB ln active]
  simp only [← bne_iff_ne]
  rfl

/-- R393: the row of the truth table that three predicates name. -/
theorem plop_row (d b a : Bool) :
    (if d then 4 else 0) + (if b then 2 else 0) + (if a then 1 else 0) = 4 * d.toNat + 2 * b.toNat + a.toNat := by
  cases d <;> cases b <;> cases a <;> rfl

theorem exec_plop_done {o : OpP} (issued : Issued s o.g c)
    (ready : ∀ ln, Active o.g c ln → predReady ln.f o.pa.toNat = .ok () ∧ predReady ln.f o.pb.toNat = .ok () ∧
      predReady ln.f o.pd.toNat = .ok ()) :
    exec (.plop o) s = wrotePred s c o.g 1 o.pd.toNat fun ln =>
      o.lut.getLsbD (4 * (ln.f.pred o.pd.toNat).toNat + 2 * (ln.f.pred o.pb.toNat).toNat + (ln.f.pred o.pa.toNat).toNat) := by
  change execPlop o s = _
  unfold execPlop wrotePred
  congr 1
  apply runEff_done issued
  · intro ln active
    obtain ⟨readyA, readyB, readyD⟩ := ready ln active
    rw [srcPred_of_ready readyA, srcPred_of_ready readyB, srcPred_of_ready readyD]
    simp only [← plop_row]
    rfl
  · exact fun ln _ => ⟨by simp, rfl⟩

/-- R389: no lane of a NOP is checked, and every fibre of the execution moves on. -/
theorem exec_nop_done {o : OpN} (ctx : s.ctx = some c) : exec (.nop o) s = .next (moved s c o.g 1) := by
  change execNop o s = _
  rw [execNop, ctx]
  exact congrArg _ (advance_done (contains_ids c.lanes))

end

/-! ### The decode checks of SEL -/

theorem du_eq_false_of_tChecks {sp : TSpec} {conv : Nat} {o : OpT} (pass : firstBad (tChecks sp conv o) = none)
    (zero : sp.du = .zero) : o.du = false := by
  cases raised : o.du with
  | false => rfl
  | true =>
    have refused : true = false :=
      check6_passes (code := 11) (parcel := 1) (bit := 29) pass (by simp [tChecks, zero, raised])
    exact refused

theorem illegalField_sel (conv : Nat) (o : OpT) : illegalField conv (.sel o) = firstBad (tChecks selSpec conv o) := rfl

/-- R404: the codes of CF, TYPE and DU that SEL takes. -/
theorem sel_codes_of_pass {conv : Nat} {o : OpT} (pass : illegalField conv (.sel o) = none) :
    o.c.toNat < 16 ∧ (o.ty = 15 ∨ o.ty = 2) ∧ o.du = false := by
  rw [illegalField_sel] at pass
  have code : (!decide (o.c.toNat < 16)) = false :=
    check6_passes (code := 5) (parcel := 1) (bit := 9) pass (by simp [tChecks, selSpec])
  have types : o.ty.toNat ∈ [2, 15] := ty_mem_of_tChecks pass
  exact ⟨by simpa using code, by simpa [BitVec.toNat_eq, or_comm] using types, du_eq_false_of_tChecks pass rfl⟩

/-! ### The obligations -/

/-- Settles O22: each entry is the mould of format U on its function of one word, and that function bit by bit. -/
theorem unaryEntries : Obligations.UnaryEntries := by
  refine ⟨?_, by decide, by decide, by decide, by decide, by decide⟩
  intro s c o a issued ready
  have done := unary_done issued ready
  refine ⟨(exec_mov o s).trans (done _), (exec_not o s).trans (done _), ?_, ⟨fun x => BitVec.ofNat 32 (leadingZeros x), (exec_clz o s).trans (done _), ?_⟩,
    reverseBits, (exec_brev o s).trans (done _), fun x i => getLsbD_reverseBits x⟩
  · simp only [exec_popc, popCount_eq_countP]
    exact done _
  · intro x
    rw [toNat_ofNat_leadingZeros]
    exact ⟨leadingZeros_le x, fun i _ => getLsbD_of_leadingZeros, getLsbD_leadingZeros⟩

/-- Settles O23: the moves, the selection and the truth table on what the lanes read, and the checks of SEL's fields. -/
theorem moviSelPlop : Obligations.MoviSelPlop := by
  refine ⟨fun _ _ _ _ => exec_movi_done, fun _ _ _ _ _ => exec_sel_done, fun _ _ _ => exec_plop_done, fun _ _ => ⟨rfl, rfl⟩,
    fun f _ _ b writable inside => pred_setPred f b writable inside, fun _ _ _ ctx _ => exec_nop_done ctx,
    fun _ _ => sel_codes_of_pass, ?_, by decide, by decide⟩
  intro conv o
  simp only [illegalField_sel]
  exact tChecks_du_alone rfl (by rintro _ ⟨⟩; rfl)

end Sys2Proof
end
